-- ==== Sys2Proof/Word.lean ====
section
/-! DEFINITION. The word types of the Molden (spec/00_scope.md R6; spec/02_state.md R33). -/

namespace Sys2Proof

/-- One byte (R6). -/
abbrev Byte := BitVec 8
/-- One instruction word (R55). -/
abbrev IWord := BitVec 32
/-- A scalar register g0 to g31, a CSR, a queue entry (R33, R39). -/
abbrev Word := BitVec 64
/-- A local address (R47). -/
abbrev LAddr := BitVec 20
/-- A vector register (R33). -/
abbrev VReg := BitVec 1024
/-- A mask register (R33). -/
abbrev VMask := BitVec 128

end Sys2Proof
end

