-- ==== Sys2Proof/Config.lean ====
section
/-! DEFINITION. The free values of the model: what the manual leaves open. Each is an opaque constant with no body, so
nothing can be proved of its value (spec/07_ordering.md R392, R175, R255; spec/15_isolation.md R305, R315;
spec/01_machine.md R4, R12). -/

namespace Sys2Proof.Config

/-- Which of several enabled parties moves next, at the model's step counter (order left open: R155, R175, R255).
DESIGN CHOICE, log entry 6. -/
opaque choice : Nat → Nat

/-- Which frame of a reserve or page of a pool the device takes (R392). DESIGN CHOICE, log entry 5. -/
opaque pick : Nat → Nat

/-- Cycles that pass before the party of a step moves (times are left out of the model). DESIGN CHOICE, log entry 7. -/
opaque elapsed : Nat → BitVec 64

/-- Key material from the Keep's random source (R305). DESIGN CHOICE, log entry 4. -/
opaque keyMaterial : Nat → BitVec 512

/-- The two secret seeds and the public seed of the device identity key, 48 bytes, made inside the Keep at manufacture (R315).
DESIGN CHOICE, log entry 4. -/
opaque identitySeedByte : Nat → Byte

/-- The random bytes of a signature of the Keep over a report (R315). DESIGN CHOICE, log entry 4. -/
opaque signRandom : Nat → BitVec 128

/-- IDE protects the host's link at a step (R376). DESIGN CHOICE, log entry 101. -/
opaque ideProtected : Nat → Bool

/-- The Corhaley image key of the Keep's read-only store, 32 bytes (R314). DESIGN CHOICE, log entry 4. -/
opaque imageKeyByte : Nat → Byte

/-- The device serial number (R315). DESIGN CHOICE, log entry 4. -/
opaque serial : BitVec 64

/-- The certificate of the identity public key, in DER (R382). DESIGN CHOICE, log entry 4. -/
opaque certificateByte : Nat → Byte

/-- The die whose Stream Table receives a stream from another device, by the words of its descriptor (R268).
DESIGN CHOICE, log entry 83. -/
opaque arrivalDie : List (BitVec 64) → BitVec 2

/-- Whether a round in conflict that mixes selections with reductions reports a reduction, by the tenant's digest and the
identifier (R275). DESIGN CHOICE, log entry 87. -/
opaque mixedRound : BitVec 64 → Nat → Bool

/-- The predicted wear months are sensed, not computed: see WEAR_SAMPLE. Free bits of a result that the manual does not
state, at the model's free-value counter. DESIGN CHOICE, log entry 70. -/
opaque freeWord : Nat → BitVec 64

end Sys2Proof.Config
end

