-- ==== Sys2Proof/Machine/Inputs.lean ====
section
/-! DEFINITION. What the outside world hands to the device in one event: host commands, findings of the patrol, the
facts of a start-up, a stream arriving over a link (spec/18_recovery.md, spec/20_device.md, spec/12_stream_isa.md). -/

namespace Sys2Proof

/-- One entry of a launch queue, as fetched (R376, Table 20.2): `fn` is the function that owns the queue (0 the PF),
`args` the six words at 0x10 to 0x3F. -/
structure HostCmd where
  op    : BitVec 8
  fn    : Nat
  queue : Nat
  tid   : Nat
  crec  : BitVec 64
  args  : List (BitVec 64)
  deriving DecidableEq, Repr

/-- Argument `i` of a command, the words from 0x10 on. -/
def HostCmd.arg (c : HostCmd) (i : Nat) : Nat := (c.args.getD i 0#64).toNat

/-- What a patrol read finds (R359 to R362). -/
inductive ScrubFinding where
  /-- A corrected error: the store is a die's Cupola (`hbm = false`, index 0 to 3) or an HBM stack (index 0 to 15). -/
  | corrected (hbm : Bool) (index : Nat)
  /-- An uncorrectable error in uncommitted data of a tenant, at an address or zero (R360). -/
  | uncommitted (tid : Nat) (addr : BitVec 64)
  /-- An uncorrectable error in the shadow bank of a tenant (R360). -/
  | shadowBank (tid : Nat)
  /-- An uncorrectable error in a committed vault frame (R361). -/
  | vaultFrame (core frame : Nat)
  /-- An uncorrectable error in a committed physical HBM page (R361). -/
  | hbmPage (pfn : Nat)
  /-- An uncorrectable error in a Stream Table descriptor (R362). -/
  | descriptor (sid : Nat)
  /-- An uncorrectable error in a task-table entry (R362). -/
  | taskEntry (index : Nat)
  /-- An uncorrectable error in a sequence-table entry (R362). -/
  | sequence (seq : Nat)
  /-- An uncorrectable error in a frame-map entry (R362). -/
  | frameMapEntry (core frame : Nat)
  deriving DecidableEq, Repr

/-- A firmware image as the Keep finds it: its bytes and its signature (R314). -/
structure Firmware where
  image : List (BitVec 8)
  sig   : List (BitVec 8)
  deriving DecidableEq, Repr

/-- The facts of one start-up that no program sets (R386 to R388): the step that fails of itself (0 when none does) and the
failure code, the firmware images in boot order, and the listed lost frames that pass the cold-start test. -/
structure StartEnv where
  failStep   : Nat
  failCode   : Nat
  images     : List Firmware
  lostPassed : List Nat
  deriving DecidableEq, Repr

/-- The far end of a Parip link in what it sends (R384): its channel, its device and tenant, and whom its own binding names:
the tenant, and whether this device. -/
structure FarEnd where
  chan   : Nat
  serial : BitVec 64
  tid    : Nat
  ftid   : Nat
  here   : Bool := true
  deriving DecidableEq, Repr

/-- A stream arriving over a Parip link (R268): its far end, the sixteen words of its descriptor, its segment pages as (layer
group, window entry, bytes), and the bytes of its state pages and of its action queue with their virtual addresses. -/
structure StreamArrival where
  far      : FarEnd
  desc     : List (BitVec 64)
  segments : List (Nat × Nat × List (BitVec 8))
  memory   : List (Nat × List (BitVec 8)) := []
  deriving DecidableEq, Repr

end Sys2Proof
end

