-- ==== Sys2Proof/Syntax.lean ====
section
/-! DEFINITION. The instructions and steps of the Molden: one constructor for each row of the opcode table. The rows
with an encoding carry the fields of their word (spec/03_encoding.md R55 to R60, R66, R68; spec/05 R136; spec/06 R154;
spec/08 R177; spec/11 R233; spec/12 R257; spec/16 R316). The rows without one are steps of the device's own agents and
of the host; their arguments name the party and what the outside world supplies (spec/95_what_each_step_holds.md). -/

namespace Sys2Proof

/-- The instructions and steps of the Molden. -/
inductive Instr where
  /-- ADD (R106): Writes g[a] + g[b] modulo 2^64 to g[d], with optional queue pops and push. -/
  | add (d : BitVec 5) (a : BitVec 5) (b : BitVec 5) (p : BitVec 1) (s : BitVec 1) (r : BitVec 1)
  /-- SUB (R106): Writes g[a] - g[b] modulo 2^64 to g[d]. -/
  | sub (d : BitVec 5) (a : BitVec 5) (b : BitVec 5) (p : BitVec 1) (s : BitVec 1) (r : BitVec 1)
  /-- AND (R106): Writes the bitwise AND of g[a] and g[b] to g[d]. -/
  | and (d : BitVec 5) (a : BitVec 5) (b : BitVec 5) (p : BitVec 1) (s : BitVec 1) (r : BitVec 1)
  /-- OR (R106): Writes the bitwise OR of g[a] and g[b] to g[d]. -/
  | or (d : BitVec 5) (a : BitVec 5) (b : BitVec 5) (p : BitVec 1) (s : BitVec 1) (r : BitVec 1)
  /-- XOR (R106): Writes the bitwise XOR of g[a] and g[b] to g[d]. -/
  | xor (d : BitVec 5) (a : BitVec 5) (b : BitVec 5) (p : BitVec 1) (s : BitVec 1) (r : BitVec 1)
  /-- ANDN (R106): Writes g[a] AND NOT g[b] to g[d]. -/
  | andn (d : BitVec 5) (a : BitVec 5) (b : BitVec 5) (p : BitVec 1) (s : BitVec 1) (r : BitVec 1)
  /-- SLL (R106): Shifts g[a] left by g[b][5:0] into g[d]. -/
  | sll (d : BitVec 5) (a : BitVec 5) (b : BitVec 5) (p : BitVec 1) (s : BitVec 1) (r : BitVec 1)
  /-- SRL (R106): Shifts g[a] right with zeros by g[b][5:0] into g[d]. -/
  | srl (d : BitVec 5) (a : BitVec 5) (b : BitVec 5) (p : BitVec 1) (s : BitVec 1) (r : BitVec 1)
  /-- SRA (R106): Shifts g[a] right arithmetically by g[b][5:0] into g[d]. -/
  | sra (d : BitVec 5) (a : BitVec 5) (b : BitVec 5) (p : BitVec 1) (s : BitVec 1) (r : BitVec 1)
  /-- MUL (R106): Writes the low 64 bits of g[a]·g[b] to g[d]. -/
  | mul (d : BitVec 5) (a : BitVec 5) (b : BitVec 5) (p : BitVec 1) (s : BitVec 1) (r : BitVec 1)
  /-- MULH (R106): Writes the high 64 bits of the signed product of g[a] and g[b] to g[d]. -/
  | mulh (d : BitVec 5) (a : BitVec 5) (b : BitVec 5) (p : BitVec 1) (s : BitVec 1) (r : BitVec 1)
  /-- DIV (R107): Writes the signed quotient truncated toward zero, with fixed results for division by zero and overflow. -/
  | div (d : BitVec 5) (a : BitVec 5) (b : BitVec 5) (p : BitVec 1) (s : BitVec 1) (r : BitVec 1)
  /-- DIVU (R107): Writes the unsigned quotient, all ones on division by zero. -/
  | divu (d : BitVec 5) (a : BitVec 5) (b : BitVec 5) (p : BitVec 1) (s : BitVec 1) (r : BitVec 1)
  /-- REM (R107): Writes the signed remainder, the dividend on division by zero. -/
  | rem (d : BitVec 5) (a : BitVec 5) (b : BitVec 5) (p : BitVec 1) (s : BitVec 1) (r : BitVec 1)
  /-- SLT (R106): Writes 1 to g[d] if g[a] < g[b] signed, else 0. -/
  | slt (d : BitVec 5) (a : BitVec 5) (b : BitVec 5) (p : BitVec 1) (s : BitVec 1) (r : BitVec 1)
  /-- SLTU (R106): Writes 1 to g[d] if g[a] < g[b] unsigned, else 0. -/
  | sltu (d : BitVec 5) (a : BitVec 5) (b : BitVec 5) (p : BitVec 1) (s : BitVec 1) (r : BitVec 1)
  /-- MIN (R106): Writes the signed lesser of g[a] and g[b] to g[d]. -/
  | min (d : BitVec 5) (a : BitVec 5) (b : BitVec 5) (p : BitVec 1) (s : BitVec 1) (r : BitVec 1)
  /-- MAX (R106): Writes the signed greater of g[a] and g[b] to g[d]. -/
  | max (d : BitVec 5) (a : BitVec 5) (b : BitVec 5) (p : BitVec 1) (s : BitVec 1) (r : BitVec 1)
  /-- MINU (R106): Writes the unsigned lesser of g[a] and g[b] to g[d]. -/
  | minu (d : BitVec 5) (a : BitVec 5) (b : BitVec 5) (p : BitVec 1) (s : BitVec 1) (r : BitVec 1)
  /-- MAXU (R106): Writes the unsigned greater of g[a] and g[b] to g[d]. -/
  | maxu (d : BitVec 5) (a : BitVec 5) (b : BitVec 5) (p : BitVec 1) (s : BitVec 1) (r : BitVec 1)
  /-- CLZ (R106): Writes the count of leading zero bits of g[a] to g[d]. -/
  | clz (d : BitVec 5) (a : BitVec 5) (p : BitVec 1) (r : BitVec 1)
  /-- POPC (R106): Writes the count of one bits of g[a] to g[d]. -/
  | popc (d : BitVec 5) (a : BitVec 5) (p : BitVec 1) (r : BitVec 1)
  /-- ADDI (R108): Writes g[a] plus the sign-extended immediate to g[d]. -/
  | addi (d : BitVec 5) (a : BitVec 5) (i : BitVec 16)
  /-- ANDI (R108): Writes g[a] AND the zero-extended immediate to g[d]. -/
  | andi (d : BitVec 5) (a : BitVec 5) (i : BitVec 16)
  /-- ORI (R108): Writes g[a] OR the zero-extended immediate to g[d]. -/
  | ori (d : BitVec 5) (a : BitVec 5) (i : BitVec 16)
  /-- XORI (R108): Writes g[a] XOR the zero-extended immediate to g[d]. -/
  | xori (d : BitVec 5) (a : BitVec 5) (i : BitVec 16)
  /-- SLLI (R108): Shifts g[a] left by an immediate amount into g[d]. -/
  | slli (d : BitVec 5) (a : BitVec 5) (n : BitVec 6)
  /-- SRLI (R108): Shifts g[a] right with zeros by an immediate amount into g[d]. -/
  | srli (d : BitVec 5) (a : BitVec 5) (n : BitVec 6)
  /-- SRAI (R108): Shifts g[a] right arithmetically by an immediate amount into g[d]. -/
  | srai (d : BitVec 5) (a : BitVec 5) (n : BitVec 6)
  /-- RORI (R108): Rotates g[a] right by an immediate amount into g[d]. -/
  | rori (d : BitVec 5) (a : BitVec 5) (n : BitVec 6)
  /-- LI (R108): Writes the sign-extended immediate to g[d]. -/
  | li (d : BitVec 5) (i : BitVec 16)
  /-- LIH (R108): Writes the immediate as the high 32 bits above g[a][31:0] into g[d]. -/
  | lih (d : BitVec 5) (a : BitVec 5) (i : BitVec 16)
  /-- CSKIP (R66): Compares two registers and annuls the next 1 to 3 instruction positions when the condition holds. -/
  | cskip (c : BitVec 3) (k : BitVec 2) (a : BitVec 5) (b : BitVec 5)
  /-- CSKIPI (R66): Compares a register with an immediate and annuls the next 1 to 3 positions when the condition holds. -/
  | cskipi (c : BitVec 3) (k : BitVec 2) (a : BitVec 5) (i : BitVec 11)
  /-- BR (R109): Branches to the PC-relative word target. -/
  | br (o : BitVec 26)
  /-- JAL (R109): Writes the return address to g31 and branches to the PC-relative target. -/
  | jal (o : BitVec 26)
  /-- JALR (R109): Branches to g[a] plus offset and writes the return address to g[d]. -/
  | jalr (d : BitVec 5) (a : BitVec 5) (o : BitVec 16)
  /-- BZ (R109): Branches when g[a] is zero. -/
  | bz (a : BitVec 5) (o : BitVec 16)
  /-- BNZ (R109): Branches when g[a] is not zero. -/
  | bnz (a : BitVec 5) (o : BitVec 16)
  /-- REP (R70): Checks and executes a repeat frame of captured instructions with staggered register fields. -/
  | rep (z : BitVec 1) (y : BitVec 1) (x : BitVec 1) (s : BitVec 2) (c : BitVec 8) (l : BitVec 4)
  /-- FORK (R235): Pushes a continuation on the tenant's deque and optionally raises a join semaphore, returning a status. -/
  | fork (d : BitVec 5) (a : BitVec 5) (b : BitVec 5) (j : BitVec 1)
  /-- JOIN (R237): Holds the slot until the named semaphore reaches zero. -/
  | join (a : BitVec 5)
  /-- YIELD (R239): Makes the slot not ready for its next n turns. -/
  | yield (n : BitVec 5)
  /-- LD (R112): Loads and extends a value from the translated local address into g[d]. -/
  | ld (d : BitVec 5) (a : BitVec 5) (s : BitVec 3) (o : BitVec 13)
  /-- ST (R110): Checks and stores the low bytes of g[d] to the local address, taking a shadow or copy-on-write copy as
  needed. -/
  | st (d : BitVec 5) (a : BitVec 5) (s : BitVec 2) (o : BitVec 13)
  /-- AMOADD (R113): Atomically adds g[b] to the word at g[a], returning the old value. -/
  | amoadd (d : BitVec 5) (a : BitVec 5) (b : BitVec 5) (w : BitVec 1)
  /-- AMOSWAP (R113): Atomically swaps g[b] with the word at g[a]. -/
  | amoswap (d : BitVec 5) (a : BitVec 5) (b : BitVec 5) (w : BitVec 1)
  /-- AMOCAS (R113): Atomically writes g[b] if the word equals g[d], returning the old value. -/
  | amocas (d : BitVec 5) (a : BitVec 5) (b : BitVec 5) (w : BitVec 1)
  /-- AMOAND (R113): Atomically ANDs g[b] into the word at g[a]. -/
  | amoand (d : BitVec 5) (a : BitVec 5) (b : BitVec 5) (w : BitVec 1)
  /-- AMOOR (R113): Atomically ORs g[b] into the word at g[a]. -/
  | amoor (d : BitVec 5) (a : BitVec 5) (b : BitVec 5) (w : BitVec 1)
  /-- AMOXOR (R113): Atomically XORs g[b] into the word at g[a]. -/
  | amoxor (d : BitVec 5) (a : BitVec 5) (b : BitVec 5) (w : BitVec 1)
  /-- AMOMIN (R113): Atomically writes the signed minimum of the word and g[b]. -/
  | amomin (d : BitVec 5) (a : BitVec 5) (b : BitVec 5) (w : BitVec 1)
  /-- AMOMAX (R113): Atomically writes the signed maximum of the word and g[b]. -/
  | amomax (d : BitVec 5) (a : BitVec 5) (b : BitVec 5) (w : BitVec 1)
  /-- VLD (R117): Loads contiguous vector elements from the local vault. -/
  | vld (d : BitVec 7) (a : BitVec 5) (b : BitVec 5) (t : BitVec 2)
  /-- VST (R117): Stores contiguous vector elements, all active elements or none. -/
  | vst (d : BitVec 7) (a : BitVec 5) (b : BitVec 5) (t : BitVec 2)
  /-- VLDS (R117): Loads strided vector elements. -/
  | vlds (d : BitVec 7) (a : BitVec 5) (b : BitVec 5) (t : BitVec 2)
  /-- VSTS (R118): Stores strided vector elements in increasing element order. -/
  | vsts (d : BitVec 7) (a : BitVec 5) (b : BitVec 5) (t : BitVec 2)
  /-- VGATH (R117): Gathers vector elements through an index register. -/
  | vgath (d : BitVec 7) (a : BitVec 5) (b : BitVec 5) (t : BitVec 2)
  /-- VSCAT (R118): Scatters vector elements through an index register in increasing order. -/
  | vscat (d : BitVec 7) (a : BitVec 5) (b : BitVec 5) (t : BitVec 2)
  /-- VLDSH (R119): Loads vector elements through a shape record, reading padding outside the extents. -/
  | vldsh (d : BitVec 7) (a : BitVec 5) (b : BitVec 5)
  /-- VSTSH (R119): Stores and saturates vector elements through a shape record. -/
  | vstsh (d : BitVec 7) (a : BitVec 5) (b : BitVec 5)
  /-- VADD (R120): Adds integer elements modulo 2^w. -/
  | vadd (d : BitVec 7) (a : BitVec 7) (b : BitVec 7) (t : BitVec 2)
  /-- VSUB (R120): Subtracts integer elements modulo 2^w. -/
  | vsub (d : BitVec 7) (a : BitVec 7) (b : BitVec 7) (t : BitVec 2)
  /-- VMUL (R120): Writes the low w bits of element products. -/
  | vmul (d : BitVec 7) (a : BitVec 7) (b : BitVec 7) (t : BitVec 2)
  /-- VMULH (R120): Writes the high w bits of element products. -/
  | vmulh (d : BitVec 7) (a : BitVec 7) (b : BitVec 7) (t : BitVec 2)
  /-- VMIN (R120): Writes the lesser integer element. -/
  | vmin (d : BitVec 7) (a : BitVec 7) (b : BitVec 7) (t : BitVec 2)
  /-- VMAX (R120): Writes the greater integer element. -/
  | vmax (d : BitVec 7) (a : BitVec 7) (b : BitVec 7) (t : BitVec 2)
  /-- VADDS (R120): Adds integer elements with saturation, setting FLAGS.CL when clamped. -/
  | vadds (d : BitVec 7) (a : BitVec 7) (b : BitVec 7) (t : BitVec 2)
  /-- VSUBS (R120): Subtracts integer elements with saturation. -/
  | vsubs (d : BitVec 7) (a : BitVec 7) (b : BitVec 7) (t : BitVec 2)
  /-- VAND (R120): Bitwise AND of vector elements. -/
  | vand (d : BitVec 7) (a : BitVec 7) (b : BitVec 7) (t : BitVec 2)
  /-- VOR (R120): Bitwise OR of vector elements. -/
  | vor (d : BitVec 7) (a : BitVec 7) (b : BitVec 7) (t : BitVec 2)
  /-- VXOR (R120): Bitwise XOR of vector elements. -/
  | vxor (d : BitVec 7) (a : BitVec 7) (b : BitVec 7) (t : BitVec 2)
  /-- VANDN (R120): Bitwise va AND NOT vb of vector elements. -/
  | vandn (d : BitVec 7) (a : BitVec 7) (b : BitVec 7) (t : BitVec 2)
  /-- VSLL (R120): Shifts each element left by vb modulo w. -/
  | vsll (d : BitVec 7) (a : BitVec 7) (b : BitVec 7) (t : BitVec 2)
  /-- VSRL (R120): Shifts each element right logically. -/
  | vsrl (d : BitVec 7) (a : BitVec 7) (b : BitVec 7) (t : BitVec 2)
  /-- VSRA (R120): Shifts each element right arithmetically. -/
  | vsra (d : BitVec 7) (a : BitVec 7) (b : BitVec 7) (t : BitVec 2)
  /-- VCMP (R121): Compares elements and writes the results to a mask register. -/
  | vcmp (d : BitVec 3) (a : BitVec 7) (b : BitVec 7) (t : BitVec 2) (c : BitVec 3)
  /-- VPERM (R122): Permutes va by the indices in vb. -/
  | vperm (d : BitVec 7) (a : BitVec 7) (b : BitVec 7) (t : BitVec 2)
  /-- VSEL (R122): Selects each element from va or vb by the active mask. -/
  | vsel (d : BitVec 7) (a : BitVec 7) (b : BitVec 7) (t : BitVec 2)
  /-- VSHUF (R122): Interleaves the low halves of va and vb. -/
  | vshuf (d : BitVec 7) (a : BitVec 7) (b : BitVec 7) (t : BitVec 2)
  /-- VSLUP (R122): Slides elements up by n, filling with zero. -/
  | vslup (d : BitVec 7) (a : BitVec 7) (n : BitVec 7) (t : BitVec 2)
  /-- VSLDN (R122): Slides elements down by n, filling with zero. -/
  | vsldn (d : BitVec 7) (a : BitVec 7) (n : BitVec 7) (t : BitVec 2)
  /-- VBCAST (R122): Broadcasts element n of va. -/
  | vbcast (d : BitVec 7) (a : BitVec 7) (n : BitVec 7) (t : BitVec 2)
  /-- VRSUM (R123): Sums the active elements, by the pairwise tree for floats, into element 0. -/
  | vrsum (d : BitVec 7) (a : BitVec 7) (t : BitVec 2)
  /-- VRMAX (R123): Reduces the active elements to their maximum. -/
  | vrmax (d : BitVec 7) (a : BitVec 7) (t : BitVec 2)
  /-- VRMIN (R123): Reduces the active elements to their minimum. -/
  | vrmin (d : BitVec 7) (a : BitVec 7) (t : BitVec 2)
  /-- VHIST (R123): Adds one to the n32 counter of vd selected by each active element. -/
  | vhist (d : BitVec 7) (a : BitVec 7) (t : BitVec 2)
  /-- VCMPR (R124): Compresses the active elements of va to the low end of vd. -/
  | vcmpr (d : BitVec 7) (a : BitVec 7) (t : BitVec 2)
  /-- VPOPC (R124): Counts elements set in both a mask and the active mask. -/
  | vpopc (d : BitVec 7) (a : BitVec 3) (t : BitVec 2)
  /-- VIOTA (R124): Writes to each active element the count of lower set positions. -/
  | viota (d : BitVec 7) (a : BitVec 3) (t : BitVec 2)
  /-- VFADD (R125): Adds float elements with one rounding and saturation. -/
  | vfadd (d : BitVec 7) (a : BitVec 7) (b : BitVec 7) (t : BitVec 2)
  /-- VFSUB (R125): Subtracts float elements. -/
  | vfsub (d : BitVec 7) (a : BitVec 7) (b : BitVec 7) (t : BitVec 2)
  /-- VFMUL (R125): Multiplies float elements. -/
  | vfmul (d : BitVec 7) (a : BitVec 7) (b : BitVec 7) (t : BitVec 2)
  /-- VFMIN (R125): Writes the lesser float element. -/
  | vfmin (d : BitVec 7) (a : BitVec 7) (b : BitVec 7) (t : BitVec 2)
  /-- VFMAX (R125): Writes the greater float element. -/
  | vfmax (d : BitVec 7) (a : BitVec 7) (b : BitVec 7) (t : BitVec 2)
  /-- VFMA (R125): Fused va·vb + vd with one rounding. -/
  | vfma (d : BitVec 7) (a : BitVec 7) (b : BitVec 7) (t : BitVec 2)
  /-- VFMS (R125): Fused va·vb − vd. -/
  | vfms (d : BitVec 7) (a : BitVec 7) (b : BitVec 7) (t : BitVec 2)
  /-- VFNMA (R125): Fused −(va·vb) − vd. -/
  | vfnma (d : BitVec 7) (a : BitVec 7) (b : BitVec 7) (t : BitVec 2)
  /-- VFNMS (R125): Fused −(va·vb) + vd. -/
  | vfnms (d : BitVec 7) (a : BitVec 7) (b : BitVec 7) (t : BitVec 2)
  /-- VEXP2 (R126): Writes correctly rounded 2^x per element. -/
  | vexp2 (d : BitVec 7) (a : BitVec 7) (t : BitVec 2)
  /-- VLOG2 (R126): Writes correctly rounded log2 x per element. -/
  | vlog2 (d : BitVec 7) (a : BitVec 7) (t : BitVec 2)
  /-- VRCP (R126): Writes correctly rounded 1/x per element. -/
  | vrcp (d : BitVec 7) (a : BitVec 7) (t : BitVec 2)
  /-- VRSQ (R126): Writes correctly rounded 1/sqrt(x) per element. -/
  | vrsq (d : BitVec 7) (a : BitVec 7) (t : BitVec 2)
  /-- VTANH (R126): Writes correctly rounded tanh x per element. -/
  | vtanh (d : BitVec 7) (a : BitVec 7) (t : BitVec 2)
  /-- VSIGM (R126): Writes the correctly rounded logistic function per element. -/
  | vsigm (d : BitVec 7) (a : BitVec 7) (t : BitVec 2)
  /-- VCVT (R127): Converts one part of elements between two formats. -/
  | vcvt (d : BitVec 7) (a : BitVec 7) (p : BitVec 3) (s : BitVec 2) (t : BitVec 2)
  /-- VQMX (R129): Quantises eight groups of 32 f32 values into mx4 blocks and scales. -/
  | vqmx (d : BitVec 7) (a : BitVec 7) (b : BitVec 7) (t : BitVec 2)
  /-- VDQMX (R129): Decodes mx4 blocks with their scales into f32 registers. -/
  | vdqmx (d : BitVec 7) (a : BitVec 7) (b : BitVec 7) (t : BitVec 2)
  /-- VXPND (R128): Expands a non-native format exactly to e4m3. -/
  | vxpnd (d : BitVec 7) (a : BitVec 7) (p : BitVec 3) (k : BitVec 2) (t : BitVec 2)
  /-- VORD (R130): Maps element codes to order-preserving unsigned keys. -/
  | vord (d : BitVec 7) (a : BitVec 7) (t : BitVec 2)
  /-- VUNORD (R130): Maps order keys back to element codes. -/
  | vunord (d : BitVec 7) (a : BitVec 7) (t : BitVec 2)
  /-- VINS (R131): Inserts g[a] into element g[b] of vd. -/
  | vins (d : BitVec 7) (a : BitVec 5) (b : BitVec 5) (t : BitVec 2)
  /-- VEXT (R131): Extracts element g[b] of vd into g[a]. -/
  | vext (d : BitVec 7) (a : BitVec 5) (b : BitVec 5) (t : BitVec 2)
  /-- VSPLT (R131): Writes g[a] into every active element of vd. -/
  | vsplt (d : BitVec 7) (a : BitVec 5) (t : BitVec 2)
  /-- VMRD (R131): Reads a mask register into two scalar registers. -/
  | vmrd (m : BitVec 3) (a : BitVec 5) (b : BitVec 5)
  /-- VMWR (R131): Writes a mask register from two scalar registers. -/
  | vmwr (m : BitVec 3) (a : BitVec 5) (b : BitVec 5)
  /-- SHRD (R131): Reads a shadow register into g[a]. -/
  | shrd (s : BitVec 3) (a : BitVec 5)
  /-- SHWR (R131): Writes g[a] into a shadow register, every bit as given. -/
  | shwr (s : BitVec 3) (a : BitVec 5)
  /-- VMAND (R132): ANDs two masks into a mask. -/
  | vmand (d : BitVec 3) (a : BitVec 3) (b : BitVec 3)
  /-- VMOR (R132): ORs two masks into a mask. -/
  | vmor (d : BitVec 3) (a : BitVec 3) (b : BitVec 3)
  /-- VMXOR (R132): XORs two masks into a mask. -/
  | vmxor (d : BitVec 3) (a : BitVec 3) (b : BitVec 3)
  /-- VMANDN (R132): Writes vma AND NOT vmb into a mask. -/
  | vmandn (d : BitVec 3) (a : BitVec 3) (b : BitVec 3)
  /-- VMNOT (R132): Inverts a mask into a mask. -/
  | vmnot (d : BitVec 3) (a : BitVec 3)
  /-- AMSEL (R132): Sets MODE.AMASK to the named mask register. -/
  | amsel (n : BitVec 3)
  /-- RNG (R133): Writes one generator word to g[a] and advances RNGCTR. -/
  | rng (a : BitVec 5)
  /-- VRNG (R135): Fills a vector with raw bits, uniform values or Gumbel keys from the generator. -/
  | vrng (d : BitVec 7) (k : BitVec 5) (t : BitVec 2)
  /-- RNGKEY (R134): Sets EPOCH from g[a] and resets RNGCTR. -/
  | rngkey (a : BitVec 5)
  /-- MMA (R144): Queues a matrix multiply-accumulate into an accumulator. -/
  | mma (c : BitVec 3) (a : BitVec 5) (b : BitVec 5) (x : BitVec 3) (y : BitVec 3) (k : BitVec 1)
  /-- MMAT (R144): Queues a matrix multiply-accumulate with B stored transposed. -/
  | mmat (c : BitVec 3) (a : BitVec 5) (b : BitVec 5) (x : BitVec 3) (y : BitVec 3) (k : BitVec 1)
  /-- MCONV (R145): Queues an implicit convolution described by shape records. -/
  | mconv (c : BitVec 3) (a : BitVec 5) (b : BitVec 5) (x : BitVec 3) (y : BitVec 3) (k : BitVec 1)
  /-- MZERO (R146): Queues the zeroing of an accumulator. -/
  | mzero (c : BitVec 3)
  /-- MLDACC (R146): Queues a raw row copy from the vault into an accumulator. -/
  | mldacc (c : BitVec 3) (a : BitVec 5)
  /-- MSTACC (R146): Queues a raw row copy from an accumulator into the vault. -/
  | mstacc (c : BitVec 3) (a : BitVec 5)
  /-- SEMWAIT (R178): Holds the slot until a semaphore reaches a threshold, with a bounded limit. -/
  | semwait (d : BitVec 5) (a : BitVec 5) (n : BitVec 5) (e : BitVec 5)
  /-- SEMSIG (R179): Adds a signed amount to a semaphore with clamping and returns the old value. -/
  | semsig (d : BitVec 5) (a : BitVec 5) (n : BitVec 5) (c : BitVec 5)
  /-- SEMSET (R179): Sets a semaphore and returns the old value. -/
  | semset (d : BitVec 5) (a : BitVec 5) (n : BitVec 5) (c : BitVec 5)
  /-- RINGWAIT (R181): Waits until a ring holds n entries and returns the HEAD address. -/
  | ringwait (d : BitVec 5) (r : BitVec 4) (n : BitVec 5) (e : BitVec 5)
  /-- RINGRSV (R181): Waits until a ring has n free entries and returns the TAIL address. -/
  | ringrsv (d : BitVec 5) (r : BitVec 4) (n : BitVec 5) (e : BitVec 5)
  /-- RINGADV_HEAD (R182): Advances a ring's HEAD by n and returns the new HEAD address. -/
  | ringadvHead (d : BitVec 5) (r : BitVec 4) (n : BitVec 5)
  /-- RINGADV_TAIL (R182): Advances a ring's TAIL by n and returns the new TAIL address. -/
  | ringadvTail (d : BitVec 5) (r : BitVec 4) (n : BitVec 5)
  /-- RINGADV_WRITE (R182): Writes a ring handle from g[d], refusing reserved values. -/
  | ringadvWrite (d : BitVec 5) (r : BitVec 4)
  /-- RINGADV_READ (R182): Reads a ring handle into g[d]. -/
  | ringadvRead (d : BitVec 5) (r : BitVec 4)
  /-- QFENCE (R183): Holds the slot until the tenant's earlier operations of the named queues are done. -/
  | qfence (q : BitVec 2)
  /-- CPY (R185): Copies bytes between local addresses unit by unit while the slot waits. -/
  | cpy (d : BitVec 5) (a : BitVec 5) (b : BitVec 5)
  /-- CPYSH (R186): Copies elements between two shape-record tensors. -/
  | cpysh (d : BitVec 5) (a : BitVec 5) (b : BitVec 5) (c : BitVec 5)
  /-- XPUT (R191): Queues a transfer of local bytes to a global vault address. -/
  | xput (d : BitVec 5) (a : BitVec 5) (b : BitVec 5)
  /-- XGET (R191): Queues a transfer from a global vault address into local memory through loop-back. -/
  | xget (d : BitVec 5) (a : BitVec 5) (b : BitVec 5)
  /-- XDEAL (R191): Queues a block-by-block distribution of HBM bytes to a rectangle of cores. -/
  | xdeal (d : BitVec 5) (a : BitVec 5) (b : BitVec 5) (c : BitVec 5)
  /-- XMCAST (R191): Queues a multicast of local bytes to selected members of a group. -/
  | xmcast (d : BitVec 5) (a : BitVec 5) (b : BitVec 5) (c : BitVec 5)
  /-- XRED (R192): Queues an element-wise reduction of local elements into a global destination. -/
  | xred (d : BitVec 5) (a : BitVec 5) (b : BitVec 5) (o : BitVec 3)
  /-- XHFILL (R194): Queues a copy from HBM into local memory through loop-back. -/
  | xhfill (d : BitVec 5) (a : BitVec 5) (b : BitVec 5)
  /-- XHSPILL (R194): Queues a copy from local memory into fresh HBM pages. -/
  | xhspill (d : BitVec 5) (a : BitVec 5) (b : BitVec 5)
  /-- XHLD (R195): Loads one value from HBM or a global vault address, holding the slot until it returns. -/
  | xhld (d : BitVec 5) (a : BitVec 5) (s : BitVec 3)
  /-- XLSEND (R197): Sends bytes over a Parip channel to a matching receive, holding the slot. -/
  | xlsend (d : BitVec 5) (a : BitVec 5) (b : BitVec 5) (c : BitVec 5)
  /-- XLRECV (R197): Receives bytes from a matching send over a Parip channel. -/
  | xlrecv (d : BitVec 5) (a : BitVec 5) (b : BitVec 5) (c : BitVec 5)
  /-- XBAR (R201): Joins the next barrier instance of a rectangle and waits for its release. -/
  | xbar (d : BitVec 5) (a : BitVec 5)
  /-- SEND (R243): Queues a typed message with an 8-word payload to a core, returning a status. -/
  | send (d : BitVec 5) (a : BitVec 5) (b : BitVec 5)
  /-- SPAWN (R244): Queues a spawn of a thread at a PC on a core, returning a status. -/
  | spawn (d : BitVec 5) (a : BitVec 5) (b : BitVec 5)
  /-- MIGRATE (R245): Moves the thread to the owner of a global address as a message. -/
  | migrate (d : BitVec 5) (a : BitVec 5)
  /-- RUPD (R246): Queues a remote update of a word at a global vault address. -/
  | rupd (d : BitVec 5) (a : BitVec 5) (b : BitVec 5) (w : BitVec 1) (o : BitVec 4)
  /-- TQPUSH (R253): Enters a task record with a dependence count in the task table. -/
  | tqpush (d : BitVec 5) (a : BitVec 5) (b : BitVec 5) (c : BitVec 5)
  /-- TQDEC (R254): Decrements a waiting task's count and returns the old count. -/
  | tqdec (d : BitVec 5) (a : BitVec 5)
  /-- MBXSEND (R250): Queues a mailbox entry for a stream. -/
  | mbxsend (d : BitVec 5) (a : BitVec 5) (b : BitVec 5)
  /-- MBXRECV (R251): Waits until a stream's mailbox holds n entries and returns the HEAD entry address. -/
  | mbxrecv (d : BitVec 5) (a : BitVec 5) (n : BitVec 5) (e : BitVec 5)
  /-- SFORK (R262): Reserves a child descriptor copied from a live stream, returning a status and identifier. -/
  | sfork (d : BitVec 5) (a : BitVec 5) (b : BitVec 5) (c : BitVec 5)
  /-- SSEL (R263): Selects a batch-list stream as the slot's STREAM or clears it. -/
  | ssel (d : BitVec 5) (a : BitVec 5)
  /-- SADV (R264): Returns the committed CURSOR and requests an advance at commit. -/
  | sadv (d : BitVec 5) (a : BitVec 5)
  /-- SACTPOP (R265): Returns the current action address and requests a pop. -/
  | sactpop (d : BitVec 5) (a : BitVec 5)
  /-- SACTADD (R265): Reserves an action-queue entry on the home core and returns its address. -/
  | sactadd (d : BitVec 5) (a : BitVec 5)
  /-- SRET (R266): Requests an FP32 addition to a stream's REWARD at commit. -/
  | sret (a : BitVec 5) (b : BitVec 5)
  /-- SPRUNE (R267): Returns the committed STATE and requests a prune. -/
  | sprune (d : BitVec 5) (a : BitVec 5)
  /-- SMIGRATE (R268): Requests that a live stream be moved to another device over a Parip port. -/
  | smigrate (d : BitVec 5) (a : BitVec 5) (b : BitVec 5) (c : BitVec 5)
  /-- SQUERY (R269): Returns one 8-byte word of a stream's committed descriptor. -/
  | squery (d : BitVec 5) (a : BitVec 5) (n : BitVec 5)
  /-- SELSUB (R272): Submits candidates to a Finial selection round. -/
  | selsub (d : BitVec 5) (a : BitVec 5) (b : BitVec 5) (c : BitVec 5)
  /-- SELGET (R275): Writes the last committed Finial result of an identifier to local memory. -/
  | selget (d : BitVec 5) (a : BitVec 5) (b : BitVec 5)
  /-- REDSUB (R273): Submits elements to a Finial reduction round. -/
  | redsub (d : BitVec 5) (a : BitVec 5) (b : BitVec 5) (c : BitVec 5)
  /-- SJOIN (R274): Submits a child's RETURN to a sibling join under its parent. -/
  | sjoin (d : BitVec 5) (a : BitVec 5) (b : BitVec 5)
  /-- UMSUB (R277): Submits unmasking candidates for a sequence's next round. -/
  | umsub (a : BitVec 5) (b : BitVec 5) (c : BitVec 5)
  /-- UMCOMMIT (R277): Forces a position to commit with a token in the next round. -/
  | umcommit (a : BitVec 5) (b : BitVec 5) (c : BitVec 5)
  /-- UMDIRTY (R280): Returns committed dirty bits and requests their clearing at commit. -/
  | umdirty (d : BitVec 5) (a : BitVec 5) (b : BitVec 5)
  /-- UMSTATE_CONFIGURE (R276): Configures a sequence from a record at commit. -/
  | umstateConfigure (d : BitVec 5) (a : BitVec 5) (c : BitVec 5)
  /-- UMSTATE_STATUS (R276): Returns a sequence's committed status word. -/
  | umstateStatus (d : BitVec 5) (a : BitVec 5) (c : BitVec 5)
  /-- UMSTATE_MASK (R276): Returns 64 committed mask bits of a sequence. -/
  | umstateMask (d : BitVec 5) (a : BitVec 5) (c : BitVec 5)
  /-- UMSTATE_RELEASE (R276): Releases a sequence at commit. -/
  | umstateRelease (d : BitVec 5) (a : BitVec 5) (c : BitVec 5)
  /-- CSRR (R317): Reads a CSR into g[d]. -/
  | csrr (d : BitVec 5) (c : BitVec 12)
  /-- CSRW (R317): Writes g[a] to a CSR under the field access rules. -/
  | csrw (a : BitVec 5) (c : BitVec 12)
  /-- CSRSET (R317): Sets the bits of g[a] in a CSR. -/
  | csrset (a : BitVec 5) (c : BitVec 12)
  /-- CSRCLR (R317): Clears the bits of g[a] in a CSR. -/
  | csrclr (a : BitVec 5) (c : BitVec 12)
  /-- TRAP (R322): Raises SOFTWARE with a code and TRAPAUX from g[a]. -/
  | trap (a : BitVec 5) (c : BitVec 12)
  /-- IDLE (R323): Makes the slot count as arrived until n boundaries have passed. -/
  | idle (a : BitVec 5)
  /-- DBRK (R322): Raises DEBUG, or enters debug hold when a debugger is attached. -/
  | dbrk (c : BitVec 12)
  /-- HALT (R324): Stops the issuing launch at once and voids the tenant's phase. -/
  | halt (a : BitVec 5)
  /-- CAPGIVE (R327): Gives a region's writer capability to a core or to none. -/
  | capgive (d : BitVec 5) (a : BitVec 5) (b : BitVec 5)
  /-- CAPTAKE (R328): Asks for a region's writer capability for the issuing core. -/
  | captake (d : BitVec 5) (a : BitVec 5)
  /-- CAPQ (R330): Returns a region's capability, mapping and count fields. -/
  | capq (d : BitVec 5) (a : BitVec 5)
  /-- DIGEST (R331): Returns the tenant's DIGEST as of the last commit. -/
  | digest (d : BitVec 5)
  /-- QUOTASET_VQUOTA (R333): Sets a stream's VQUOTA. -/
  | quotasetVquota (d : BitVec 5) (a : BitVec 5)
  /-- QUOTASET_HQUOTA (R333): Sets a stream's HQUOTA. -/
  | quotasetHquota (d : BitVec 5) (a : BitVec 5)
  /-- QUOTASET_SPILL (R333): Sets the spill quota of the target tenant on this core. -/
  | quotasetSpill (d : BitVec 5) (a : BitVec 5)
  /-- QUOTASET_POOL_ADD (R333): Adds a zeroed HBM page to the target tenant's pool. -/
  | quotasetPoolAdd (d : BitVec 5) (a : BitVec 5)
  /-- QUOTASET_POOL_REMOVE (R333): Removes an HBM page from the target tenant's pool. -/
  | quotasetPoolRemove (d : BitVec 5) (a : BitVec 5)
  /-- QUOTASET_SEQ_RANGE (R333): Sets the target tenant's Oculus sequence range. -/
  | quotasetSeqRange (d : BitVec 5) (a : BitVec 5)
  /-- QUOTASET_TASK_RANGE (R333): Sets the target tenant's task-table range. -/
  | quotasetTaskRange (d : BitVec 5) (a : BitVec 5)
  /-- KEYSEL_ASSIGN (R333): Assigns a free key slot with fresh material to the target tenant. -/
  | keyselAssign (d : BitVec 5) (a : BitVec 5)
  /-- KEYSEL_RELEASE (R333): Releases a key slot and clears its material. -/
  | keyselRelease (d : BitVec 5) (a : BitVec 5)
  /-- KEYSEL_IMPORT (R380): Imports wrapped key material into an owned key slot. -/
  | keyselImport (d : BitVec 5) (a : BitVec 5)
  /-- MODESET_FEATURES (R333): Sets the target tenant's permitted features. -/
  | modesetFeatures (d : BitVec 5) (a : BitVec 5)
  /-- MODESET_SEED (R333): Sets the target tenant's seed K0. -/
  | modesetSeed (d : BitVec 5) (a : BitVec 5)
  /-- MODESET_ROOT (R333): Sets the target tenant's page-table root and table key slot. -/
  | modesetRoot (d : BitVec 5) (a : BitVec 5)
  /-- MODESET_SYSTEM_FLAG (R333): Sets the target tenant's system flag. -/
  | modesetSystemFlag (d : BitVec 5) (a : BitVec 5)
  /-- MODESET_COMPUTE_BUDGET (R333): Sets the target tenant's compute budget. -/
  | modesetComputeBudget (d : BitVec 5) (a : BitVec 5)
  /-- MODESET_EXCHANGE_BUDGET (R333): Sets the target tenant's exchange budget. -/
  | modesetExchangeBudget (d : BitVec 5) (a : BitVec 5)
  /-- MODESET_FRAME_MAP (R333): Writes a frame-map entry of this core, zeroing the frame when its tenant changes. -/
  | modesetFrameMap (d : BitVec 5) (a : BitVec 5)
  /-- MODESET_LEAF (R333): Writes a leaf of the target tenant's HBM page table. -/
  | modesetLeaf (d : BitVec 5) (a : BitVec 5)
  /-- MODESET_REGISTER (R333): Registers a model for the target tenant from a model record. -/
  | modesetRegister (d : BitVec 5) (a : BitVec 5)
  /-- MODESET_UNREGISTER (R333): Releases a model of the target tenant. -/
  | modesetUnregister (d : BitVec 5) (a : BitVec 5)
  /-- PREFIX (R64): Supplies the high immediate bits of the following instruction in one issue turn. -/
  | pfx (i : BitVec 26)
  /-- BUDGET_EXPIRY (R210): Makes a tenant that spent its budget a straggler, stops its cores and records the fault. -/
  | budgetExpiry (tid : Nat)
  /-- MESSAGE_ACCEPT (R219): Accepts a message into the arrival queue or spill ring, or leaves it queued at the sender. -/
  | messageAccept (tid src : Nat)
  /-- HANDLER_PREEMPTION (R222): Pre-empts a lower-level thread at its next instruction boundary for a waiting handler. -/
  | handlerPreemption (tid core : Nat)
  /-- SPILL_FULL_RECORD (R219): Records SPILL_FULL once after a message is retried in 256 exchange phases. -/
  | spillFullRecord (tid src : Nat)
  /-- CONTINUATION_TAKE (R236): Starts a continuation from the deque tail in a free slot in throughput mode. -/
  | continuationTake (tid core : Nat)
  /-- REMOTE_UPDATE_APPLY (R175): Applies a remote update to a word in the holder's shadow. -/
  | remoteUpdateApply (tid core idx : Nat)
  /-- MAILBOX_DELIVERY (R250): Delivers a mailbox entry to a stream's home core, discards it or leaves it for retry. -/
  | mailboxDelivery (tid src : Nat)
  /-- CAPABILITY_MESSAGE_DELIVERY (R327): Delivers a capability message and checks remote regions, raising a deferred fault on
  failure. -/
  | capabilityMessageDelivery (tid : Nat)
  /-- SHARING_COUNT_RAISE (R262): Raises a forked parent's table sharing count on a group's cores and copies the root record. -/
  | sharingCountRaise (tid : Nat)
  /-- REFERENCE_RELEASE (R267): Lowers a pruned stream's table counts and reclaims tables and frames at commit. -/
  | referenceRelease (tid : Nat)
  /-- EXCHANGE_UNIT_LANDING (R190): Lands one 64-byte unit of a transfer at its destination. -/
  | exchangeUnitLanding (tid core op : Nat)
  /-- TRANSFER_COMPLETE (R190): Completes a transfer and signals RSEM at receivers and SEM at the issuer. -/
  | transferComplete (tid core op : Nat)
  /-- COPY_COMPLETE (R185): Completes or traps a local copy, signalling SEM and returning the slot to rotation. -/
  | copyComplete (tid core : Nat)
  /-- MATRIX_OP_COMPLETE (R144): Completes a matrix operation and lets the engine begin the next queued one. -/
  | matrixOpComplete (tid core : Nat)
  /-- HBM_ACCESS_COMPLETE (R160): Completes an HBM access and adds its excess latency to LATCNT. -/
  | hbmAccessComplete (tid core slot : Nat) (excess : BitVec 64)
  /-- WAIT_EXPIRED (R180): Ends a bounded wait whose limit passed with a precise trap. -/
  | waitExpired (tid core slot : Nat)
  /-- LINK_TIMEOUT (R198): Stops a link transfer whose TMO passed and marks the phase for void. -/
  | linkTimeout (tid core slot : Nat)
  /-- LINK_TRANSFER_COMPLETE (R197): Completes a matched link transfer, writing byte counts and signalling semaphores. -/
  | linkTransferComplete (tid core slot : Nat)
  /-- XBAR_RELEASE (R201): Releases a barrier instance when every core of the rectangle has reached it. -/
  | xbarRelease (tid : Nat) (rect : BitVec 24) (inst : Nat)
  /-- FINIAL_ROUND (R273): Runs a tenant's selection, reduction or join round through the tree. -/
  | finialRound (tid : Nat)
  /-- OCULUS_ROUND (R278): Commits a share of masked positions, writes tokens and updates the dirty map. -/
  | oculusRound (tid seq : Nat)
  /-- QUEUE_ENTRY_FETCH (R376): Fetches a queue entry and advances HEAD. -/
  | queueEntryFetch (queue : Nat)
  /-- STREAM_TABLE_REQUEST (R258): Takes a stream-instruction or privileged quota request at the Stream Table, in order of
  arrival, and decides its result, including descriptor reservation for SFORK. -/
  | streamTableRequest (tid core slot : Nat)
  /-- STREAM_TABLE_REPLY (R258): Delivers the Stream Table's reply to the waiting slot, writing its result or taking the
  precise trap, and returns the slot to rotation. -/
  | streamTableReply (tid core slot : Nat)
  /-- TASK_TABLE_REQUEST (R252): Applies a TQPUSH or TQDEC request at the task table in order of arrival. -/
  | taskTableRequest (tid core slot : Nat)
  /-- TASK_TABLE_REPLY (R252): Delivers the task table's reply, writing the status or old count or raising DEPCOUNT_UNDERFLOW,
  and returns the slot to rotation. -/
  | taskTableReply (tid core slot : Nat)
  /-- PRIVILEGED_OPERATION_REPLY (R332): Delivers the reply of a QUOTASET, KEYSEL or MODESET request to the waiting slot, with
  status 0 or 1, and returns the slot to rotation. -/
  | privilegedOperationReply (tid core slot : Nat)
  /-- QUIT (R238): Ends the thread after its operations drain, lowers its join semaphore and frees the slot. -/
  | quit
  /-- MWAIT (R147): Holds the slot until the tenant's earlier matrix operations on the core are done. -/
  | mwait
  /-- FENCE (R183): Holds the slot until the tenant's earlier loop-back writes on the core have landed or stopped. -/
  | fence
  /-- SYNC (R199): Ends the slot's compute phase. -/
  | sync
  /-- XEND (R200): Ends the slot's exchange phase once its operations are done. -/
  | xend
  /-- ERET (R321): Leaves the trap handler and re-executes at TRAPPC, resuming progress where marked. -/
  | eret
  /-- PHASE_BOUNDARY (R19): Runs the boundary once every participating tenant has arrived or straggled. -/
  | phaseBoundary
  /-- PAGE_WALK_COMPLETE (R301): Completes a page-table walk and inserts a TLB entry or raises TRANSLATION. -/
  | pageWalkComplete (tid core : Nat) (va : BitVec 64)
  /-- LINK_PARTNER_STOP (R197): Stops a link transfer when the partner's stop arrives over the link. -/
  | linkPartnerStop (tid core slot moved : Nat)
  /-- SMIGRATE_REPLY (R268): Receives the destination's reply and delivers a notice to the notice core. -/
  | smigrateReply (tid port result : Nat) (newId : BitVec 18)
  /-- LAUNCH_COMPLETE (R248): Completes a launch whose threads quit and whose messages and updates drained. -/
  | launchComplete
  /-- REPLICA_FLIT (R364): Receives a partner replica's commit flit and lets the tenant arrive. -/
  | replicaFlit (far : FarEnd) (ordinal : BitVec 64) (exchange : Bool) (sum : BitVec 64)
  /-- REFRESH_DUE (R157): Issues or postpones a per-bank HBM refresh that falls due. -/
  | refreshDue (stack group bank : Nat) (queued postpone : Bool)
  /-- POSTPONED_REFRESH_ISSUE (R157): Issues a postponed refresh once its bank has no queued request. -/
  | postponedRefreshIssue (stack group bank : Nat)
  /-- ARBITER_INTERVAL (R29): Sets each die's matrix issue ceiling from measured current every 1 µs. -/
  | arbiterInterval (amps c0 c1 c2 c3 : Nat)
  /-- THERMAL_INTERVAL (R390): Adjusts each die's thermal ceiling every 1 µs. -/
  | thermalInterval (t0 t1 t2 t3 : Nat)
  /-- THERMAL_HOLD (R390): Holds every tenant after a die stays at 105 °C for 10 µs. -/
  | thermalHold (die : Nat)
  /-- THERMAL_TRIP (R390): Removes core power when a sensor reaches 115 °C. -/
  | thermalTrip (die : Nat)
  /-- PATROL_SCRUB (R359): Reads and corrects vault words and HBM lines on the patrol schedule. -/
  | patrolScrub (found : ScrubFinding)
  /-- WEAR_SAMPLE (R367): Samples wear sensors hourly and updates the predicted end of life. -/
  | wearSample (m0 m1 m2 m3 : Nat)
  /-- QTAIL_DOORBELL (R376): Writes a queue's TAIL, making the covered entries available to fetch. -/
  | qtailDoorbell (fn queue : Nat) (tail : BitVec 16)
  /-- LAUNCH (R377): Presents a launch descriptor for admission. -/
  | launch
  /-- PREEMPT (R345): Stops a tenant, voids its phase and saves its context. -/
  | preempt
  /-- CONTEXT_SAVE_COMPLETE (R348): Completes the writing of a context image and its completion record. -/
  | contextSaveComplete
  /-- RESTORE (R350): Requests a restore of a saved context image. -/
  | restore
  /-- HOLD (R354): Requests debug hold of a launch. -/
  | hold
  /-- RELEASE (R357): Releases a tenant from debug hold. -/
  | release
  /-- ATTEST (R315): Requests a signed attestation report for a tenant and nonce. -/
  | attest
  /-- ATTESTATION_REPORT_DONE (R315): Writes the signed report and completes the request. -/
  | attestationReportDone
  /-- REGISTER (R259): Registers a model from a model record. -/
  | register
  /-- UNREGISTER (R259): Releases a registered model. -/
  | unregister
  /-- DEBUG (R381): Reads or writes a piece of a held tenant's state. -/
  | debug
  /-- CREATE (R295): Creates a tenant with default state. -/
  | create
  /-- DESTROY (R295): Destroys a tenant and releases its resources. -/
  | destroy
  /-- BINDVF (R373): Binds or unbinds a virtual function to a tenant. -/
  | bindvf
  /-- BINDLINK (R384): Writes or removes a Parip channel binding. -/
  | bindlink
  /-- IMPORTKEY (R376): Sets a tenant's import key over an IDE-protected link. -/
  | importkey
  /-- WARM (R386): Starts a warm start on host command. -/
  | warm
  /-- WINDOW_READ (R375): Returns committed tenant HBM data for a host window read. -/
  | windowRead (fn : Nat) (off : BitVec 32) (len : Nat)
  /-- WINDOW_WRITE (R375): Buffers or applies a host window write, dropping and counting unmapped ones. -/
  | windowWrite (fn : Nat) (off : BitVec 32) (data : List (BitVec 8))
  /-- BAR0_REGISTER_WRITE (R374): Writes a BAR0 register that has no row of its own, under its access rules. -/
  | bar0RegisterWrite (fn : Nat) (off : BitVec 24) (value : BitVec 64)
  /-- FLIT_CRC_REPLAY (R383): Replays a flit whose CRC failed from the sender's buffer. -/
  | flitCrcReplay (port : Nat)
  /-- PORT_DOWN (R385): Takes a port down after 64 consecutive failed replays and stops its transfers. -/
  | portDown (port : Nat)
  /-- PORT_UP (R385): Brings a retrained port up with its bindings and sets EVENTS [3]. -/
  | portUp (port : Nat)
  /-- COLD_START (R386): Runs every start-up step at power-on or fundamental reset. -/
  | coldStart (env : StartEnv)
  /-- WARM_START (R386): Runs the warm start-up steps on a PCIe hot reset. -/
  | warmStart (env : StartEnv)
  /-- ILLEGAL_INSTRUCTION_WORD (R62): Issues a fetched word that is reserved (major 0x00 or 0x3C–0x3E, or a reserved function
  code) and raises ILLEGAL_INSTRUCTION with nothing changed. -/
  | illegalInstructionWord (w : BitVec 32)
  /-- INSTRUCTION_FETCH_FAULT (R55): Raises LOCAL_UNMAPPED precisely when a slot fetches at a PC in a control page, the stream
  window or an unmapped page. -/
  | instructionFetchFault
  /-- MIGRATED_STREAM_ADMISSION (R268): Receives a stream moved over a Parip link from another device, checks its features and
  admits or refuses it, then replies to the source. -/
  | migratedStreamAdmission (port : Nat) (arrival : StreamArrival)
  /-- LINK_PARTNER_ISSUE (R197): Takes the far end's issue of a matching XLSEND or XLRECV arriving over the link, matches it
  and lets the data move. -/
  | linkPartnerIssue (port : Nat) (far : FarEnd) (sends : Bool) (tag : BitVec 16) (len : Nat) (data : List (BitVec 8))
  /-- REFRESH_COMPLETE (R157): Ends a per-bank or forced group refresh hold and releases the bank or group to its waiting
  requests in arrival order. -/
  | refreshComplete (stack group bank : Nat)
  deriving DecidableEq, Repr

end Sys2Proof
end

