-- ==== Sys2Proof/WellFormed.lean ====
section
/-! DEFINITION. Which instructions are well formed: the values of fields that check 1 of Table 3.6 refuses beside the
reserved fields (spec/03_encoding.md R56, R57, R62, R66; spec/05 R121, R135; spec/06 R154; spec/08 R177; spec/11 R233;
spec/12 R257). -/

namespace Sys2Proof

/-- A flagged field names a queue register by its bits [1:0]; its bits [4:2] are reserved (R57). -/
def flagOk (flag : BitVec 1) (field : BitVec 5) : Bool :=
  flag == 0#1 || field.toNat < 4

/-- Whether the row has a word of its own; the other rows are steps of the device's agents and of the host. -/
def Instr.hasWord : Instr → Bool
  | .phaseBoundary => false
  | .budgetExpiry _ => false
  | .messageAccept _ _ => false
  | .handlerPreemption _ _ => false
  | .spillFullRecord _ _ => false
  | .continuationTake _ _ => false
  | .remoteUpdateApply _ _ _ => false
  | .mailboxDelivery _ _ => false
  | .capabilityMessageDelivery _ => false
  | .sharingCountRaise _ => false
  | .referenceRelease _ => false
  | .exchangeUnitLanding _ _ _ => false
  | .transferComplete _ _ _ => false
  | .copyComplete _ _ => false
  | .matrixOpComplete _ _ => false
  | .hbmAccessComplete _ _ _ _ => false
  | .pageWalkComplete _ _ _ => false
  | .waitExpired _ _ _ => false
  | .linkTimeout _ _ _ => false
  | .linkTransferComplete _ _ _ => false
  | .linkPartnerStop _ _ _ _ => false
  | .xbarRelease _ _ _ => false
  | .finialRound _ => false
  | .oculusRound _ _ => false
  | .smigrateReply _ _ _ _ => false
  | .launchComplete => false
  | .replicaFlit _ _ _ _ => false
  | .refreshDue _ _ _ _ _ => false
  | .postponedRefreshIssue _ _ _ => false
  | .arbiterInterval _ _ _ _ _ => false
  | .thermalInterval _ _ _ _ => false
  | .thermalHold _ => false
  | .thermalTrip _ => false
  | .patrolScrub _ => false
  | .wearSample _ _ _ _ => false
  | .qtailDoorbell _ _ _ => false
  | .queueEntryFetch _ => false
  | .launch => false
  | .preempt => false
  | .contextSaveComplete => false
  | .restore => false
  | .hold => false
  | .release => false
  | .attest => false
  | .attestationReportDone => false
  | .register => false
  | .unregister => false
  | .debug => false
  | .create => false
  | .destroy => false
  | .bindvf => false
  | .bindlink => false
  | .importkey => false
  | .warm => false
  | .windowRead _ _ _ => false
  | .windowWrite _ _ _ => false
  | .bar0RegisterWrite _ _ _ => false
  | .flitCrcReplay _ => false
  | .portDown _ => false
  | .portUp _ => false
  | .coldStart _ => false
  | .warmStart _ => false
  | .illegalInstructionWord _ => false
  | .instructionFetchFault => false
  | .streamTableRequest _ _ _ => false
  | .streamTableReply _ _ _ => false
  | .taskTableRequest _ _ _ => false
  | .taskTableReply _ _ _ => false
  | .privilegedOperationReply _ _ _ => false
  | .migratedStreamAdmission _ _ => false
  | .linkPartnerIssue _ _ _ _ _ _ => false
  | .refreshComplete _ _ _ => false
  | _ => true

/-- No field holds a value that check 1 of Table 3.6 refuses. The table's steps without a word are well formed. -/
def Instr.wf : Instr → Bool
  | .add d a b p s r => flagOk r a && flagOk s b && flagOk p d
  | .sub d a b p s r => flagOk r a && flagOk s b && flagOk p d
  | .and d a b p s r => flagOk r a && flagOk s b && flagOk p d
  | .or d a b p s r => flagOk r a && flagOk s b && flagOk p d
  | .xor d a b p s r => flagOk r a && flagOk s b && flagOk p d
  | .andn d a b p s r => flagOk r a && flagOk s b && flagOk p d
  | .sll d a b p s r => flagOk r a && flagOk s b && flagOk p d
  | .srl d a b p s r => flagOk r a && flagOk s b && flagOk p d
  | .sra d a b p s r => flagOk r a && flagOk s b && flagOk p d
  | .mul d a b p s r => flagOk r a && flagOk s b && flagOk p d
  | .mulh d a b p s r => flagOk r a && flagOk s b && flagOk p d
  | .div d a b p s r => flagOk r a && flagOk s b && flagOk p d
  | .divu d a b p s r => flagOk r a && flagOk s b && flagOk p d
  | .rem d a b p s r => flagOk r a && flagOk s b && flagOk p d
  | .slt d a b p s r => flagOk r a && flagOk s b && flagOk p d
  | .sltu d a b p s r => flagOk r a && flagOk s b && flagOk p d
  | .min d a b p s r => flagOk r a && flagOk s b && flagOk p d
  | .max d a b p s r => flagOk r a && flagOk s b && flagOk p d
  | .minu d a b p s r => flagOk r a && flagOk s b && flagOk p d
  | .maxu d a b p s r => flagOk r a && flagOk s b && flagOk p d
  | .clz d a p r => flagOk r a && flagOk p d
  | .popc d a p r => flagOk r a && flagOk p d
  | .cskip _ k _ _ => k != 0#2
  | .cskipi _ k _ _ => k != 0#2
  | .fork _ _ b j => j == 1#1 || b == 0#5
  | .ld _ _ s _ => s != 7#3
  | .vcmp _ _ _ _ c => c.toNat ≤ 5
  | .vrng _ k _ => k.toNat ≤ 2
  | .mma _ _ _ x y _ => x != 7#3 && y != 7#3
  | .mmat _ _ _ x y _ => x != 7#3 && y != 7#3
  | .mconv _ _ _ x y _ => x != 7#3 && y != 7#3
  | .semwait _ _ _ e => e.toNat ≤ 20
  | .ringwait _ _ _ e => e.toNat ≤ 20
  | .ringrsv _ _ _ e => e.toNat ≤ 20
  | .qfence q => q != 0#2
  | .xred _ _ _ o => o.toNat ≤ 5
  | .xhld _ _ s => s != 7#3
  | .rupd _ _ _ w o => o.toNat ≤ 6 && (o != 6#4 || w == 0#1)
  | .mbxrecv _ _ _ e => e.toNat ≤ 20
  | .squery _ _ n => n.toNat < 16
  | _ => true

end Sys2Proof
end

