-- ==== Sys2Proof/Decode.lean ====
section
/-! DEFINITION. Decoding and encoding of Yunaud words (spec/03_encoding.md R55 to R60, R64; Tables 3.1, 3.4 and 3.5;
spec/05 Table 5.9, spec/06 Table 6.7, spec/08 Table 8.1, spec/11 Table 11.1, spec/12 Table 12.1, spec/16 Table 16.1).
`fld` takes a field out of a word; each `pack` lays the fields of one layout of Table 3.1 out from bit 31 downwards. -/

namespace Sys2Proof

/-- The `n` bits of `w` from bit `lo` upwards (R6). -/
def fld (w : IWord) (lo n : Nat) : BitVec n := w.extractLsb' lo n

/-- Why a word is no instruction (R58, R59, R62 check 1). -/
inductive Reject where
  /-- Major 0x00 or 0x3C to 0x3E. -/
  | reservedMajor
  /-- A function code that Table 3.4 does not list. -/
  | reservedCode
  /-- A field that the instruction does not use and that is not zero (R58). -/
  | reservedField
  /-- A reserved value of a field (type, size, condition, limit exponent, queue-flag bits; R56, R57). -/
  | reservedValue
  deriving DecidableEq, Repr

/-- The layout Alu (R55). -/
def packAlu (op : BitVec 6) (d : BitVec 5) (a : BitVec 5) (b : BitVec 5) (p : BitVec 1) (s : BitVec 1) (r : BitVec 1) (fn : BitVec 8) : IWord :=
  op ++ d ++ a ++ b ++ p ++ s ++ r ++ fn

/-- The layout I (R55). -/
def packI (op : BitVec 6) (d : BitVec 5) (a : BitVec 5) (i : BitVec 16) : IWord :=
  op ++ d ++ a ++ i

/-- The layout Shift (R55). -/
def packShift (op : BitVec 6) (d : BitVec 5) (a : BitVec 5) (z : BitVec 8) (k : BitVec 2) (n : BitVec 6) : IWord :=
  op ++ d ++ a ++ z ++ k ++ n

/-- The layout Rep (R55). -/
def packRep (op : BitVec 6) (u : BitVec 2) (z : BitVec 1) (y : BitVec 1) (x : BitVec 1) (a : BitVec 5) (s : BitVec 2) (v : BitVec 2) (c : BitVec 8) (l : BitVec 4) : IWord :=
  op ++ u ++ z ++ y ++ x ++ a ++ s ++ v ++ c ++ l

/-- The layout L (R55). -/
def packL (op : BitVec 6) (d : BitVec 5) (a : BitVec 5) (s : BitVec 3) (o : BitVec 13) : IWord :=
  op ++ d ++ a ++ s ++ o

/-- The layout Ls (R55). -/
def packLs (op : BitVec 6) (d : BitVec 5) (a : BitVec 5) (z : BitVec 1) (s : BitVec 2) (o : BitVec 13) : IWord :=
  op ++ d ++ a ++ z ++ s ++ o

/-- The layout K (R55). -/
def packK (op : BitVec 6) (c : BitVec 3) (k : BitVec 2) (a : BitVec 5) (b : BitVec 5) (i : BitVec 11) : IWord :=
  op ++ c ++ k ++ a ++ b ++ i

/-- The layout J (R55). -/
def packJ (op : BitVec 6) (o : BitVec 26) : IWord :=
  op ++ o

/-- The layout V (R55). -/
def packV (op : BitVec 6) (d : BitVec 7) (a : BitVec 7) (b : BitVec 7) (t : BitVec 2) (f : BitVec 3) : IWord :=
  op ++ d ++ a ++ b ++ t ++ f

/-- The layout Vd (R55). -/
def packVd (op : BitVec 6) (z : BitVec 4) (d : BitVec 3) (a : BitVec 7) (b : BitVec 7) (t : BitVec 2) (f : BitVec 3) : IWord :=
  op ++ z ++ d ++ a ++ b ++ t ++ f

/-- The layout Va (R55). -/
def packVa (op : BitVec 6) (d : BitVec 7) (z : BitVec 4) (a : BitVec 3) (b : BitVec 7) (t : BitVec 2) (f : BitVec 3) : IWord :=
  op ++ d ++ z ++ a ++ b ++ t ++ f

/-- The layout Vm (R55). -/
def packVm (op : BitVec 6) (x : BitVec 4) (d : BitVec 3) (y : BitVec 4) (a : BitVec 3) (z : BitVec 4) (b : BitVec 3) (t : BitVec 2) (f : BitVec 3) : IWord :=
  op ++ x ++ d ++ y ++ a ++ z ++ b ++ t ++ f

/-- The layout Vp (R55). -/
def packVp (op : BitVec 6) (d : BitVec 7) (a : BitVec 7) (z : BitVec 2) (p : BitVec 3) (s : BitVec 2) (t : BitVec 2) (f : BitVec 3) : IWord :=
  op ++ d ++ a ++ z ++ p ++ s ++ t ++ f

/-- The layout W (R55). -/
def packW (op : BitVec 6) (d : BitVec 7) (a : BitVec 5) (b : BitVec 5) (t : BitVec 2) (f : BitVec 7) : IWord :=
  op ++ d ++ a ++ b ++ t ++ f

/-- The layout Wm (R55). -/
def packWm (op : BitVec 6) (z : BitVec 4) (m : BitVec 3) (a : BitVec 5) (b : BitVec 5) (t : BitVec 2) (f : BitVec 7) : IWord :=
  op ++ z ++ m ++ a ++ b ++ t ++ f

/-- The layout M (R55). -/
def packM (op : BitVec 6) (c : BitVec 3) (a : BitVec 5) (b : BitVec 5) (x : BitVec 3) (y : BitVec 3) (k : BitVec 1) (f : BitVec 6) : IWord :=
  op ++ c ++ a ++ b ++ x ++ y ++ k ++ f

/-- The layout X (R55). -/
def packX (op : BitVec 6) (d : BitVec 5) (a : BitVec 5) (b : BitVec 5) (c : BitVec 5) (f : BitVec 6) : IWord :=
  op ++ d ++ a ++ b ++ c ++ f

/-- The layout Xr (R55). -/
def packXr (op : BitVec 6) (d : BitVec 5) (z : BitVec 1) (r : BitVec 4) (b : BitVec 5) (c : BitVec 5) (f : BitVec 6) : IWord :=
  op ++ d ++ z ++ r ++ b ++ c ++ f

/-- The layout Xrm (R55). -/
def packXrm (op : BitVec 6) (d : BitVec 5) (z : BitVec 1) (r : BitVec 4) (b : BitVec 5) (y : BitVec 3) (m : BitVec 2) (f : BitVec 6) : IWord :=
  op ++ d ++ z ++ r ++ b ++ y ++ m ++ f

/-- The layout Xj (R55). -/
def packXj (op : BitVec 6) (d : BitVec 5) (a : BitVec 5) (b : BitVec 5) (z : BitVec 4) (j : BitVec 1) (f : BitVec 6) : IWord :=
  op ++ d ++ a ++ b ++ z ++ j ++ f

/-- The layout Xs (R55). -/
def packXs (op : BitVec 6) (d : BitVec 5) (a : BitVec 5) (b : BitVec 5) (z : BitVec 2) (s : BitVec 3) (f : BitVec 6) : IWord :=
  op ++ d ++ a ++ b ++ z ++ s ++ f

/-- The layout Xo (R55). -/
def packXo (op : BitVec 6) (d : BitVec 5) (a : BitVec 5) (b : BitVec 5) (c : BitVec 5) (z : BitVec 3) (o : BitVec 3) : IWord :=
  op ++ d ++ a ++ b ++ c ++ z ++ o

/-- The layout Xw (R55). -/
def packXw (op : BitVec 6) (d : BitVec 5) (a : BitVec 5) (b : BitVec 5) (z : BitVec 4) (w : BitVec 1) (y : BitVec 2) (o : BitVec 4) : IWord :=
  op ++ d ++ a ++ b ++ z ++ w ++ y ++ o

/-- The layout Amo (R55). -/
def packAmo (op : BitVec 6) (d : BitVec 5) (a : BitVec 5) (b : BitVec 5) (z : BitVec 6) (w : BitVec 1) (fn : BitVec 4) : IWord :=
  op ++ d ++ a ++ b ++ z ++ w ++ fn

/-- The layout S (R55). -/
def packS (op : BitVec 6) (d : BitVec 5) (a : BitVec 5) (k : BitVec 4) (c : BitVec 12) : IWord :=
  op ++ d ++ a ++ k ++ c

/-- A decoded instruction whose reserved fields were zero, or a rejection (R58). -/
def guardField (ok : Bool) (i : Instr) : Except Reject Instr :=
  if ok then .ok i else .error .reservedField

/-- Major 0x01 (Table 3.4). -/
def decode01 (w : IWord) : Except Reject Instr :=
  if fld w 0 8 == 0#8 then .ok (.add (fld w 21 5) (fld w 16 5) (fld w 11 5) (fld w 10 1) (fld w 9 1) (fld w 8 1))
  else if fld w 0 8 == 1#8 then .ok (.sub (fld w 21 5) (fld w 16 5) (fld w 11 5) (fld w 10 1) (fld w 9 1) (fld w 8 1))
  else if fld w 0 8 == 2#8 then .ok (.and (fld w 21 5) (fld w 16 5) (fld w 11 5) (fld w 10 1) (fld w 9 1) (fld w 8 1))
  else if fld w 0 8 == 3#8 then .ok (.or (fld w 21 5) (fld w 16 5) (fld w 11 5) (fld w 10 1) (fld w 9 1) (fld w 8 1))
  else if fld w 0 8 == 4#8 then .ok (.xor (fld w 21 5) (fld w 16 5) (fld w 11 5) (fld w 10 1) (fld w 9 1) (fld w 8 1))
  else if fld w 0 8 == 5#8 then .ok (.andn (fld w 21 5) (fld w 16 5) (fld w 11 5) (fld w 10 1) (fld w 9 1) (fld w 8 1))
  else if fld w 0 8 == 6#8 then .ok (.sll (fld w 21 5) (fld w 16 5) (fld w 11 5) (fld w 10 1) (fld w 9 1) (fld w 8 1))
  else if fld w 0 8 == 7#8 then .ok (.srl (fld w 21 5) (fld w 16 5) (fld w 11 5) (fld w 10 1) (fld w 9 1) (fld w 8 1))
  else if fld w 0 8 == 8#8 then .ok (.sra (fld w 21 5) (fld w 16 5) (fld w 11 5) (fld w 10 1) (fld w 9 1) (fld w 8 1))
  else if fld w 0 8 == 9#8 then .ok (.mul (fld w 21 5) (fld w 16 5) (fld w 11 5) (fld w 10 1) (fld w 9 1) (fld w 8 1))
  else if fld w 0 8 == 10#8 then .ok (.mulh (fld w 21 5) (fld w 16 5) (fld w 11 5) (fld w 10 1) (fld w 9 1) (fld w 8 1))
  else if fld w 0 8 == 11#8 then .ok (.div (fld w 21 5) (fld w 16 5) (fld w 11 5) (fld w 10 1) (fld w 9 1) (fld w 8 1))
  else if fld w 0 8 == 12#8 then .ok (.divu (fld w 21 5) (fld w 16 5) (fld w 11 5) (fld w 10 1) (fld w 9 1) (fld w 8 1))
  else if fld w 0 8 == 13#8 then .ok (.rem (fld w 21 5) (fld w 16 5) (fld w 11 5) (fld w 10 1) (fld w 9 1) (fld w 8 1))
  else if fld w 0 8 == 14#8 then .ok (.slt (fld w 21 5) (fld w 16 5) (fld w 11 5) (fld w 10 1) (fld w 9 1) (fld w 8 1))
  else if fld w 0 8 == 15#8 then .ok (.sltu (fld w 21 5) (fld w 16 5) (fld w 11 5) (fld w 10 1) (fld w 9 1) (fld w 8 1))
  else if fld w 0 8 == 16#8 then .ok (.min (fld w 21 5) (fld w 16 5) (fld w 11 5) (fld w 10 1) (fld w 9 1) (fld w 8 1))
  else if fld w 0 8 == 17#8 then .ok (.max (fld w 21 5) (fld w 16 5) (fld w 11 5) (fld w 10 1) (fld w 9 1) (fld w 8 1))
  else if fld w 0 8 == 18#8 then .ok (.minu (fld w 21 5) (fld w 16 5) (fld w 11 5) (fld w 10 1) (fld w 9 1) (fld w 8 1))
  else if fld w 0 8 == 19#8 then .ok (.maxu (fld w 21 5) (fld w 16 5) (fld w 11 5) (fld w 10 1) (fld w 9 1) (fld w 8 1))
  else if fld w 0 8 == 20#8 then guardField (fld w 11 5 == 0#5 && fld w 9 1 == 0#1) (.clz (fld w 21 5) (fld w 16 5) (fld w 10 1) (fld w 8 1))
  else if fld w 0 8 == 21#8 then guardField (fld w 11 5 == 0#5 && fld w 9 1 == 0#1) (.popc (fld w 21 5) (fld w 16 5) (fld w 10 1) (fld w 8 1))
  else .error .reservedCode

/-- Major 0x02 (Table 3.4). -/
def decode02 (w : IWord) : Except Reject Instr :=
  .ok (.addi (fld w 21 5) (fld w 16 5) (fld w 0 16))

/-- Major 0x03 (Table 3.4). -/
def decode03 (w : IWord) : Except Reject Instr :=
  .ok (.andi (fld w 21 5) (fld w 16 5) (fld w 0 16))

/-- Major 0x04 (Table 3.4). -/
def decode04 (w : IWord) : Except Reject Instr :=
  .ok (.ori (fld w 21 5) (fld w 16 5) (fld w 0 16))

/-- Major 0x05 (Table 3.4). -/
def decode05 (w : IWord) : Except Reject Instr :=
  .ok (.xori (fld w 21 5) (fld w 16 5) (fld w 0 16))

/-- Major 0x06 (Table 3.4). -/
def decode06 (w : IWord) : Except Reject Instr :=
  if fld w 6 2 == 0#2 then guardField (fld w 8 8 == 0#8) (.slli (fld w 21 5) (fld w 16 5) (fld w 0 6))
  else if fld w 6 2 == 1#2 then guardField (fld w 8 8 == 0#8) (.srli (fld w 21 5) (fld w 16 5) (fld w 0 6))
  else if fld w 6 2 == 2#2 then guardField (fld w 8 8 == 0#8) (.srai (fld w 21 5) (fld w 16 5) (fld w 0 6))
  else if fld w 6 2 == 3#2 then guardField (fld w 8 8 == 0#8) (.rori (fld w 21 5) (fld w 16 5) (fld w 0 6))
  else .error .reservedCode

/-- Major 0x07 (Table 3.4). -/
def decode07 (w : IWord) : Except Reject Instr :=
  guardField (fld w 16 5 == 0#5) (.li (fld w 21 5) (fld w 0 16))

/-- Major 0x08 (Table 3.4). -/
def decode08 (w : IWord) : Except Reject Instr :=
  .ok (.lih (fld w 21 5) (fld w 16 5) (fld w 0 16))

/-- Major 0x09 (Table 3.4). -/
def decode09 (w : IWord) : Except Reject Instr :=
  guardField (fld w 0 11 == 0#11) (.cskip (fld w 23 3) (fld w 21 2) (fld w 16 5) (fld w 11 5))

/-- Major 0x0A (Table 3.4). -/
def decode0A (w : IWord) : Except Reject Instr :=
  guardField (fld w 11 5 == 0#5) (.cskipi (fld w 23 3) (fld w 21 2) (fld w 16 5) (fld w 0 11))

/-- Major 0x0B (Table 3.4). -/
def decode0B (w : IWord) : Except Reject Instr :=
  .ok (.br (fld w 0 26))

/-- Major 0x0C (Table 3.4). -/
def decode0C (w : IWord) : Except Reject Instr :=
  .ok (.jal (fld w 0 26))

/-- Major 0x0D (Table 3.4). -/
def decode0D (w : IWord) : Except Reject Instr :=
  .ok (.jalr (fld w 21 5) (fld w 16 5) (fld w 0 16))

/-- Major 0x0E (Table 3.4). -/
def decode0E (w : IWord) : Except Reject Instr :=
  guardField (fld w 21 5 == 0#5) (.bz (fld w 16 5) (fld w 0 16))

/-- Major 0x0F (Table 3.4). -/
def decode0F (w : IWord) : Except Reject Instr :=
  guardField (fld w 21 5 == 0#5) (.bnz (fld w 16 5) (fld w 0 16))

/-- Major 0x10 (Table 3.4). -/
def decode10 (w : IWord) : Except Reject Instr :=
  guardField (fld w 24 2 == 0#2 && fld w 16 5 == 0#5 && fld w 12 2 == 0#2) (.rep (fld w 23 1) (fld w 22 1) (fld w 21 1) (fld w 14 2) (fld w 4 8) (fld w 0 4))

/-- Major 0x11 (Table 3.4). -/
def decode11 (w : IWord) : Except Reject Instr :=
  if fld w 0 6 == 0#6 then guardField (fld w 7 4 == 0#4) (.fork (fld w 21 5) (fld w 16 5) (fld w 11 5) (fld w 6 1))
  else if fld w 0 6 == 1#6 then guardField (fld w 21 5 == 0#5 && fld w 11 5 == 0#5 && fld w 6 5 == 0#5) (.join (fld w 16 5))
  else if fld w 0 6 == 2#6 then guardField (fld w 21 5 == 0#5 && fld w 16 5 == 0#5 && fld w 11 5 == 0#5 && fld w 6 5 == 0#5) .quit
  else if fld w 0 6 == 3#6 then guardField (fld w 21 5 == 0#5 && fld w 16 5 == 0#5 && fld w 6 5 == 0#5) (.yield (fld w 11 5))
  else .error .reservedCode

/-- Major 0x12 (Table 3.4). -/
def decode12 (w : IWord) : Except Reject Instr :=
  .ok (.ld (fld w 21 5) (fld w 16 5) (fld w 13 3) (fld w 0 13))

/-- Major 0x13 (Table 3.4). -/
def decode13 (w : IWord) : Except Reject Instr :=
  guardField (fld w 15 1 == 0#1) (.st (fld w 21 5) (fld w 16 5) (fld w 13 2) (fld w 0 13))

/-- Major 0x14 (Table 3.4). -/
def decode14 (w : IWord) : Except Reject Instr :=
  if fld w 0 4 == 0#4 then guardField (fld w 5 6 == 0#6) (.amoadd (fld w 21 5) (fld w 16 5) (fld w 11 5) (fld w 4 1))
  else if fld w 0 4 == 1#4 then guardField (fld w 5 6 == 0#6) (.amoswap (fld w 21 5) (fld w 16 5) (fld w 11 5) (fld w 4 1))
  else if fld w 0 4 == 2#4 then guardField (fld w 5 6 == 0#6) (.amocas (fld w 21 5) (fld w 16 5) (fld w 11 5) (fld w 4 1))
  else if fld w 0 4 == 3#4 then guardField (fld w 5 6 == 0#6) (.amoand (fld w 21 5) (fld w 16 5) (fld w 11 5) (fld w 4 1))
  else if fld w 0 4 == 4#4 then guardField (fld w 5 6 == 0#6) (.amoor (fld w 21 5) (fld w 16 5) (fld w 11 5) (fld w 4 1))
  else if fld w 0 4 == 5#4 then guardField (fld w 5 6 == 0#6) (.amoxor (fld w 21 5) (fld w 16 5) (fld w 11 5) (fld w 4 1))
  else if fld w 0 4 == 6#4 then guardField (fld w 5 6 == 0#6) (.amomin (fld w 21 5) (fld w 16 5) (fld w 11 5) (fld w 4 1))
  else if fld w 0 4 == 7#4 then guardField (fld w 5 6 == 0#6) (.amomax (fld w 21 5) (fld w 16 5) (fld w 11 5) (fld w 4 1))
  else .error .reservedCode

/-- Major 0x15 (Table 3.4). -/
def decode15 (w : IWord) : Except Reject Instr :=
  if fld w 0 7 == 0#7 then .ok (.vld (fld w 19 7) (fld w 14 5) (fld w 9 5) (fld w 7 2))
  else if fld w 0 7 == 1#7 then .ok (.vst (fld w 19 7) (fld w 14 5) (fld w 9 5) (fld w 7 2))
  else if fld w 0 7 == 2#7 then .ok (.vlds (fld w 19 7) (fld w 14 5) (fld w 9 5) (fld w 7 2))
  else if fld w 0 7 == 3#7 then .ok (.vsts (fld w 19 7) (fld w 14 5) (fld w 9 5) (fld w 7 2))
  else .error .reservedCode

/-- Major 0x16 (Table 3.4). -/
def decode16 (w : IWord) : Except Reject Instr :=
  if fld w 0 7 == 0#7 then .ok (.vgath (fld w 19 7) (fld w 14 5) (fld w 9 5) (fld w 7 2))
  else if fld w 0 7 == 1#7 then .ok (.vscat (fld w 19 7) (fld w 14 5) (fld w 9 5) (fld w 7 2))
  else .error .reservedCode

/-- Major 0x17 (Table 3.4). -/
def decode17 (w : IWord) : Except Reject Instr :=
  if fld w 0 7 == 0#7 then guardField (fld w 7 2 == 0#2) (.vldsh (fld w 19 7) (fld w 14 5) (fld w 9 5))
  else if fld w 0 7 == 1#7 then guardField (fld w 7 2 == 0#2) (.vstsh (fld w 19 7) (fld w 14 5) (fld w 9 5))
  else .error .reservedCode

/-- Major 0x18 (Table 3.4). -/
def decode18 (w : IWord) : Except Reject Instr :=
  if fld w 0 3 == 0#3 then .ok (.vadd (fld w 19 7) (fld w 12 7) (fld w 5 7) (fld w 3 2))
  else if fld w 0 3 == 1#3 then .ok (.vsub (fld w 19 7) (fld w 12 7) (fld w 5 7) (fld w 3 2))
  else if fld w 0 3 == 2#3 then .ok (.vmul (fld w 19 7) (fld w 12 7) (fld w 5 7) (fld w 3 2))
  else if fld w 0 3 == 3#3 then .ok (.vmulh (fld w 19 7) (fld w 12 7) (fld w 5 7) (fld w 3 2))
  else if fld w 0 3 == 4#3 then .ok (.vmin (fld w 19 7) (fld w 12 7) (fld w 5 7) (fld w 3 2))
  else if fld w 0 3 == 5#3 then .ok (.vmax (fld w 19 7) (fld w 12 7) (fld w 5 7) (fld w 3 2))
  else if fld w 0 3 == 6#3 then .ok (.vadds (fld w 19 7) (fld w 12 7) (fld w 5 7) (fld w 3 2))
  else if fld w 0 3 == 7#3 then .ok (.vsubs (fld w 19 7) (fld w 12 7) (fld w 5 7) (fld w 3 2))
  else .error .reservedCode

/-- Major 0x19 (Table 3.4). -/
def decode19 (w : IWord) : Except Reject Instr :=
  if fld w 0 3 == 0#3 then .ok (.vand (fld w 19 7) (fld w 12 7) (fld w 5 7) (fld w 3 2))
  else if fld w 0 3 == 1#3 then .ok (.vor (fld w 19 7) (fld w 12 7) (fld w 5 7) (fld w 3 2))
  else if fld w 0 3 == 2#3 then .ok (.vxor (fld w 19 7) (fld w 12 7) (fld w 5 7) (fld w 3 2))
  else if fld w 0 3 == 3#3 then .ok (.vandn (fld w 19 7) (fld w 12 7) (fld w 5 7) (fld w 3 2))
  else if fld w 0 3 == 4#3 then .ok (.vsll (fld w 19 7) (fld w 12 7) (fld w 5 7) (fld w 3 2))
  else if fld w 0 3 == 5#3 then .ok (.vsrl (fld w 19 7) (fld w 12 7) (fld w 5 7) (fld w 3 2))
  else if fld w 0 3 == 6#3 then .ok (.vsra (fld w 19 7) (fld w 12 7) (fld w 5 7) (fld w 3 2))
  else .error .reservedCode

/-- Major 0x1A (Table 3.4). -/
def decode1A (w : IWord) : Except Reject Instr :=
  guardField (fld w 22 4 == 0#4) (.vcmp (fld w 19 3) (fld w 12 7) (fld w 5 7) (fld w 3 2) (fld w 0 3))

/-- Major 0x1B (Table 3.4). -/
def decode1B (w : IWord) : Except Reject Instr :=
  if fld w 0 3 == 0#3 then .ok (.vperm (fld w 19 7) (fld w 12 7) (fld w 5 7) (fld w 3 2))
  else if fld w 0 3 == 1#3 then .ok (.vsel (fld w 19 7) (fld w 12 7) (fld w 5 7) (fld w 3 2))
  else if fld w 0 3 == 2#3 then .ok (.vshuf (fld w 19 7) (fld w 12 7) (fld w 5 7) (fld w 3 2))
  else if fld w 0 3 == 3#3 then .ok (.vslup (fld w 19 7) (fld w 12 7) (fld w 5 7) (fld w 3 2))
  else if fld w 0 3 == 4#3 then .ok (.vsldn (fld w 19 7) (fld w 12 7) (fld w 5 7) (fld w 3 2))
  else if fld w 0 3 == 5#3 then .ok (.vbcast (fld w 19 7) (fld w 12 7) (fld w 5 7) (fld w 3 2))
  else .error .reservedCode

/-- Major 0x1C (Table 3.4). -/
def decode1C (w : IWord) : Except Reject Instr :=
  if fld w 0 3 == 0#3 then guardField (fld w 5 7 == 0#7) (.vrsum (fld w 19 7) (fld w 12 7) (fld w 3 2))
  else if fld w 0 3 == 1#3 then guardField (fld w 5 7 == 0#7) (.vrmax (fld w 19 7) (fld w 12 7) (fld w 3 2))
  else if fld w 0 3 == 2#3 then guardField (fld w 5 7 == 0#7) (.vrmin (fld w 19 7) (fld w 12 7) (fld w 3 2))
  else if fld w 0 3 == 3#3 then guardField (fld w 5 7 == 0#7) (.vhist (fld w 19 7) (fld w 12 7) (fld w 3 2))
  else if fld w 0 3 == 4#3 then guardField (fld w 5 7 == 0#7) (.vcmpr (fld w 19 7) (fld w 12 7) (fld w 3 2))
  else if fld w 0 3 == 5#3 then guardField (fld w 15 4 == 0#4 && fld w 5 7 == 0#7) (.vpopc (fld w 19 7) (fld w 12 3) (fld w 3 2))
  else if fld w 0 3 == 6#3 then guardField (fld w 15 4 == 0#4 && fld w 5 7 == 0#7) (.viota (fld w 19 7) (fld w 12 3) (fld w 3 2))
  else .error .reservedCode

/-- Major 0x1D (Table 3.4). -/
def decode1D (w : IWord) : Except Reject Instr :=
  if fld w 0 3 == 0#3 then .ok (.vfadd (fld w 19 7) (fld w 12 7) (fld w 5 7) (fld w 3 2))
  else if fld w 0 3 == 1#3 then .ok (.vfsub (fld w 19 7) (fld w 12 7) (fld w 5 7) (fld w 3 2))
  else if fld w 0 3 == 2#3 then .ok (.vfmul (fld w 19 7) (fld w 12 7) (fld w 5 7) (fld w 3 2))
  else if fld w 0 3 == 3#3 then .ok (.vfmin (fld w 19 7) (fld w 12 7) (fld w 5 7) (fld w 3 2))
  else if fld w 0 3 == 4#3 then .ok (.vfmax (fld w 19 7) (fld w 12 7) (fld w 5 7) (fld w 3 2))
  else .error .reservedCode

/-- Major 0x1E (Table 3.4). -/
def decode1E (w : IWord) : Except Reject Instr :=
  if fld w 0 3 == 0#3 then .ok (.vfma (fld w 19 7) (fld w 12 7) (fld w 5 7) (fld w 3 2))
  else if fld w 0 3 == 1#3 then .ok (.vfms (fld w 19 7) (fld w 12 7) (fld w 5 7) (fld w 3 2))
  else if fld w 0 3 == 2#3 then .ok (.vfnma (fld w 19 7) (fld w 12 7) (fld w 5 7) (fld w 3 2))
  else if fld w 0 3 == 3#3 then .ok (.vfnms (fld w 19 7) (fld w 12 7) (fld w 5 7) (fld w 3 2))
  else .error .reservedCode

/-- Major 0x1F (Table 3.4). -/
def decode1F (w : IWord) : Except Reject Instr :=
  if fld w 0 3 == 0#3 then guardField (fld w 5 7 == 0#7) (.vexp2 (fld w 19 7) (fld w 12 7) (fld w 3 2))
  else if fld w 0 3 == 1#3 then guardField (fld w 5 7 == 0#7) (.vlog2 (fld w 19 7) (fld w 12 7) (fld w 3 2))
  else if fld w 0 3 == 2#3 then guardField (fld w 5 7 == 0#7) (.vrcp (fld w 19 7) (fld w 12 7) (fld w 3 2))
  else if fld w 0 3 == 3#3 then guardField (fld w 5 7 == 0#7) (.vrsq (fld w 19 7) (fld w 12 7) (fld w 3 2))
  else if fld w 0 3 == 4#3 then guardField (fld w 5 7 == 0#7) (.vtanh (fld w 19 7) (fld w 12 7) (fld w 3 2))
  else if fld w 0 3 == 5#3 then guardField (fld w 5 7 == 0#7) (.vsigm (fld w 19 7) (fld w 12 7) (fld w 3 2))
  else .error .reservedCode

/-- Major 0x20 (Table 3.4). -/
def decode20 (w : IWord) : Except Reject Instr :=
  if fld w 0 3 == 0#3 then guardField (fld w 10 2 == 0#2) (.vcvt (fld w 19 7) (fld w 12 7) (fld w 7 3) (fld w 5 2) (fld w 3 2))
  else if fld w 0 3 == 1#3 then .ok (.vqmx (fld w 19 7) (fld w 12 7) (fld w 5 7) (fld w 3 2))
  else if fld w 0 3 == 2#3 then .ok (.vdqmx (fld w 19 7) (fld w 12 7) (fld w 5 7) (fld w 3 2))
  else if fld w 0 3 == 3#3 then guardField (fld w 10 2 == 0#2) (.vxpnd (fld w 19 7) (fld w 12 7) (fld w 7 3) (fld w 5 2) (fld w 3 2))
  else if fld w 0 3 == 4#3 then guardField (fld w 5 7 == 0#7) (.vord (fld w 19 7) (fld w 12 7) (fld w 3 2))
  else if fld w 0 3 == 5#3 then guardField (fld w 5 7 == 0#7) (.vunord (fld w 19 7) (fld w 12 7) (fld w 3 2))
  else .error .reservedCode

/-- Major 0x21 (Table 3.4). -/
def decode21 (w : IWord) : Except Reject Instr :=
  if fld w 0 7 == 0#7 then .ok (.vins (fld w 19 7) (fld w 14 5) (fld w 9 5) (fld w 7 2))
  else if fld w 0 7 == 1#7 then .ok (.vext (fld w 19 7) (fld w 14 5) (fld w 9 5) (fld w 7 2))
  else if fld w 0 7 == 2#7 then guardField (fld w 9 5 == 0#5) (.vsplt (fld w 19 7) (fld w 14 5) (fld w 7 2))
  else if fld w 0 7 == 3#7 then guardField (fld w 22 4 == 0#4 && fld w 7 2 == 0#2) (.vmrd (fld w 19 3) (fld w 14 5) (fld w 9 5))
  else if fld w 0 7 == 4#7 then guardField (fld w 22 4 == 0#4 && fld w 7 2 == 0#2) (.vmwr (fld w 19 3) (fld w 14 5) (fld w 9 5))
  else if fld w 0 7 == 5#7 then guardField (fld w 22 4 == 0#4 && fld w 9 5 == 0#5 && fld w 7 2 == 0#2) (.shrd (fld w 19 3) (fld w 14 5))
  else if fld w 0 7 == 6#7 then guardField (fld w 22 4 == 0#4 && fld w 9 5 == 0#5 && fld w 7 2 == 0#2) (.shwr (fld w 19 3) (fld w 14 5))
  else .error .reservedCode

/-- Major 0x22 (Table 3.4). -/
def decode22 (w : IWord) : Except Reject Instr :=
  if fld w 0 3 == 0#3 then guardField (fld w 22 4 == 0#4 && fld w 15 4 == 0#4 && fld w 8 4 == 0#4 && fld w 3 2 == 0#2) (.vmand (fld w 19 3) (fld w 12 3) (fld w 5 3))
  else if fld w 0 3 == 1#3 then guardField (fld w 22 4 == 0#4 && fld w 15 4 == 0#4 && fld w 8 4 == 0#4 && fld w 3 2 == 0#2) (.vmor (fld w 19 3) (fld w 12 3) (fld w 5 3))
  else if fld w 0 3 == 2#3 then guardField (fld w 22 4 == 0#4 && fld w 15 4 == 0#4 && fld w 8 4 == 0#4 && fld w 3 2 == 0#2) (.vmxor (fld w 19 3) (fld w 12 3) (fld w 5 3))
  else if fld w 0 3 == 3#3 then guardField (fld w 22 4 == 0#4 && fld w 15 4 == 0#4 && fld w 8 4 == 0#4 && fld w 3 2 == 0#2) (.vmandn (fld w 19 3) (fld w 12 3) (fld w 5 3))
  else if fld w 0 3 == 4#3 then guardField (fld w 22 4 == 0#4 && fld w 15 4 == 0#4 && fld w 8 4 == 0#4 && fld w 5 3 == 0#3 && fld w 3 2 == 0#2) (.vmnot (fld w 19 3) (fld w 12 3))
  else if fld w 0 3 == 5#3 then guardField (fld w 22 4 == 0#4 && fld w 19 3 == 0#3 && fld w 15 4 == 0#4 && fld w 8 4 == 0#4 && fld w 5 3 == 0#3 && fld w 3 2 == 0#2) (.amsel (fld w 12 3))
  else .error .reservedCode

/-- Major 0x23 (Table 3.4). -/
def decode23 (w : IWord) : Except Reject Instr :=
  if fld w 0 7 == 0#7 then guardField (fld w 19 7 == 0#7 && fld w 9 5 == 0#5 && fld w 7 2 == 0#2) (.rng (fld w 14 5))
  else if fld w 0 7 == 1#7 then guardField (fld w 9 5 == 0#5) (.vrng (fld w 19 7) (fld w 14 5) (fld w 7 2))
  else if fld w 0 7 == 2#7 then guardField (fld w 19 7 == 0#7 && fld w 9 5 == 0#5 && fld w 7 2 == 0#2) (.rngkey (fld w 14 5))
  else .error .reservedCode

/-- Major 0x24 (Table 3.4). -/
def decode24 (w : IWord) : Except Reject Instr :=
  if fld w 0 6 == 0#6 then .ok (.mma (fld w 23 3) (fld w 18 5) (fld w 13 5) (fld w 10 3) (fld w 7 3) (fld w 6 1))
  else if fld w 0 6 == 1#6 then .ok (.mmat (fld w 23 3) (fld w 18 5) (fld w 13 5) (fld w 10 3) (fld w 7 3) (fld w 6 1))
  else .error .reservedCode

/-- Major 0x25 (Table 3.4). -/
def decode25 (w : IWord) : Except Reject Instr :=
  if fld w 0 6 == 0#6 then .ok (.mconv (fld w 23 3) (fld w 18 5) (fld w 13 5) (fld w 10 3) (fld w 7 3) (fld w 6 1))
  else .error .reservedCode

/-- Major 0x26 (Table 3.4). -/
def decode26 (w : IWord) : Except Reject Instr :=
  if fld w 0 6 == 0#6 then guardField (fld w 18 5 == 0#5 && fld w 13 5 == 0#5 && fld w 10 3 == 0#3 && fld w 7 3 == 0#3 && fld w 6 1 == 0#1) (.mzero (fld w 23 3))
  else if fld w 0 6 == 1#6 then guardField (fld w 13 5 == 0#5 && fld w 10 3 == 0#3 && fld w 7 3 == 0#3 && fld w 6 1 == 0#1) (.mldacc (fld w 23 3) (fld w 18 5))
  else if fld w 0 6 == 2#6 then guardField (fld w 13 5 == 0#5 && fld w 10 3 == 0#3 && fld w 7 3 == 0#3 && fld w 6 1 == 0#1) (.mstacc (fld w 23 3) (fld w 18 5))
  else if fld w 0 6 == 3#6 then guardField (fld w 23 3 == 0#3 && fld w 18 5 == 0#5 && fld w 13 5 == 0#5 && fld w 10 3 == 0#3 && fld w 7 3 == 0#3 && fld w 6 1 == 0#1) .mwait
  else .error .reservedCode

/-- Major 0x27 (Table 3.4). -/
def decode27 (w : IWord) : Except Reject Instr :=
  if fld w 0 6 == 0#6 then .ok (.semwait (fld w 21 5) (fld w 16 5) (fld w 11 5) (fld w 6 5))
  else if fld w 0 6 == 1#6 then .ok (.semsig (fld w 21 5) (fld w 16 5) (fld w 11 5) (fld w 6 5))
  else if fld w 0 6 == 2#6 then .ok (.semset (fld w 21 5) (fld w 16 5) (fld w 11 5) (fld w 6 5))
  else .error .reservedCode

/-- Major 0x28 (Table 3.4). -/
def decode28 (w : IWord) : Except Reject Instr :=
  if fld w 0 6 == 0#6 then guardField (fld w 20 1 == 0#1) (.ringwait (fld w 21 5) (fld w 16 4) (fld w 11 5) (fld w 6 5))
  else if fld w 0 6 == 1#6 then guardField (fld w 20 1 == 0#1) (.ringrsv (fld w 21 5) (fld w 16 4) (fld w 11 5) (fld w 6 5))
  else if fld w 6 5 == 0#5 && fld w 0 6 == 2#6 then guardField (fld w 20 1 == 0#1) (.ringadvHead (fld w 21 5) (fld w 16 4) (fld w 11 5))
  else if fld w 6 5 == 1#5 && fld w 0 6 == 2#6 then guardField (fld w 20 1 == 0#1) (.ringadvTail (fld w 21 5) (fld w 16 4) (fld w 11 5))
  else if fld w 6 5 == 2#5 && fld w 0 6 == 2#6 then guardField (fld w 20 1 == 0#1 && fld w 11 5 == 0#5) (.ringadvWrite (fld w 21 5) (fld w 16 4))
  else if fld w 6 5 == 3#5 && fld w 0 6 == 2#6 then guardField (fld w 20 1 == 0#1 && fld w 11 5 == 0#5) (.ringadvRead (fld w 21 5) (fld w 16 4))
  else .error .reservedCode

/-- Major 0x29 (Table 3.4). -/
def decode29 (w : IWord) : Except Reject Instr :=
  if fld w 0 6 == 0#6 then guardField (fld w 21 5 == 0#5 && fld w 16 5 == 0#5 && fld w 11 5 == 0#5 && fld w 6 5 == 0#5) .fence
  else if fld w 0 6 == 1#6 then guardField (fld w 21 5 == 0#5 && fld w 20 1 == 0#1 && fld w 16 4 == 0#4 && fld w 11 5 == 0#5 && fld w 8 3 == 0#3) (.qfence (fld w 6 2))
  else .error .reservedCode

/-- Major 0x2A (Table 3.4). -/
def decode2A (w : IWord) : Except Reject Instr :=
  if fld w 0 6 == 0#6 then guardField (fld w 6 5 == 0#5) (.cpy (fld w 21 5) (fld w 16 5) (fld w 11 5))
  else if fld w 0 6 == 1#6 then .ok (.cpysh (fld w 21 5) (fld w 16 5) (fld w 11 5) (fld w 6 5))
  else .error .reservedCode

/-- Major 0x2B (Table 3.4). -/
def decode2B (w : IWord) : Except Reject Instr :=
  if fld w 0 6 == 0#6 then guardField (fld w 6 5 == 0#5) (.xput (fld w 21 5) (fld w 16 5) (fld w 11 5))
  else if fld w 0 6 == 1#6 then guardField (fld w 6 5 == 0#5) (.xget (fld w 21 5) (fld w 16 5) (fld w 11 5))
  else if fld w 0 6 == 2#6 then .ok (.xdeal (fld w 21 5) (fld w 16 5) (fld w 11 5) (fld w 6 5))
  else if fld w 0 6 == 3#6 then .ok (.xmcast (fld w 21 5) (fld w 16 5) (fld w 11 5) (fld w 6 5))
  else .error .reservedCode

/-- Major 0x2C (Table 3.4). -/
def decode2C (w : IWord) : Except Reject Instr :=
  guardField (fld w 6 5 == 0#5 && fld w 3 3 == 0#3) (.xred (fld w 21 5) (fld w 16 5) (fld w 11 5) (fld w 0 3))

/-- Major 0x2D (Table 3.4). -/
def decode2D (w : IWord) : Except Reject Instr :=
  if fld w 0 6 == 0#6 then guardField (fld w 6 5 == 0#5) (.xhfill (fld w 21 5) (fld w 16 5) (fld w 11 5))
  else if fld w 0 6 == 1#6 then guardField (fld w 6 5 == 0#5) (.xhspill (fld w 21 5) (fld w 16 5) (fld w 11 5))
  else if fld w 0 6 == 2#6 then guardField (fld w 11 5 == 0#5 && fld w 9 2 == 0#2) (.xhld (fld w 21 5) (fld w 16 5) (fld w 6 3))
  else .error .reservedCode

/-- Major 0x2E (Table 3.4). -/
def decode2E (w : IWord) : Except Reject Instr :=
  if fld w 0 6 == 0#6 then .ok (.xlsend (fld w 21 5) (fld w 16 5) (fld w 11 5) (fld w 6 5))
  else if fld w 0 6 == 1#6 then .ok (.xlrecv (fld w 21 5) (fld w 16 5) (fld w 11 5) (fld w 6 5))
  else .error .reservedCode

/-- Major 0x2F (Table 3.4). -/
def decode2F (w : IWord) : Except Reject Instr :=
  if fld w 0 6 == 0#6 then guardField (fld w 21 5 == 0#5 && fld w 16 5 == 0#5 && fld w 11 5 == 0#5 && fld w 6 5 == 0#5) .sync
  else if fld w 0 6 == 1#6 then guardField (fld w 21 5 == 0#5 && fld w 16 5 == 0#5 && fld w 11 5 == 0#5 && fld w 6 5 == 0#5) .xend
  else if fld w 0 6 == 2#6 then guardField (fld w 11 5 == 0#5 && fld w 6 5 == 0#5) (.xbar (fld w 21 5) (fld w 16 5))
  else .error .reservedCode

/-- Major 0x30 (Table 3.4). -/
def decode30 (w : IWord) : Except Reject Instr :=
  if fld w 0 6 == 0#6 then guardField (fld w 6 5 == 0#5) (.send (fld w 21 5) (fld w 16 5) (fld w 11 5))
  else if fld w 0 6 == 1#6 then guardField (fld w 6 5 == 0#5) (.spawn (fld w 21 5) (fld w 16 5) (fld w 11 5))
  else if fld w 0 6 == 2#6 then guardField (fld w 11 5 == 0#5 && fld w 6 5 == 0#5) (.migrate (fld w 21 5) (fld w 16 5))
  else .error .reservedCode

/-- Major 0x31 (Table 3.4). -/
def decode31 (w : IWord) : Except Reject Instr :=
  guardField (fld w 7 4 == 0#4 && fld w 4 2 == 0#2) (.rupd (fld w 21 5) (fld w 16 5) (fld w 11 5) (fld w 6 1) (fld w 0 4))

/-- Major 0x32 (Table 3.4). -/
def decode32 (w : IWord) : Except Reject Instr :=
  if fld w 0 6 == 0#6 then .ok (.tqpush (fld w 21 5) (fld w 16 5) (fld w 11 5) (fld w 6 5))
  else if fld w 0 6 == 1#6 then guardField (fld w 11 5 == 0#5 && fld w 6 5 == 0#5) (.tqdec (fld w 21 5) (fld w 16 5))
  else .error .reservedCode

/-- Major 0x33 (Table 3.4). -/
def decode33 (w : IWord) : Except Reject Instr :=
  if fld w 0 6 == 0#6 then guardField (fld w 6 5 == 0#5) (.mbxsend (fld w 21 5) (fld w 16 5) (fld w 11 5))
  else if fld w 0 6 == 1#6 then .ok (.mbxrecv (fld w 21 5) (fld w 16 5) (fld w 11 5) (fld w 6 5))
  else .error .reservedCode

/-- Major 0x34 (Table 3.4). -/
def decode34 (w : IWord) : Except Reject Instr :=
  if fld w 0 6 == 0#6 then .ok (.sfork (fld w 21 5) (fld w 16 5) (fld w 11 5) (fld w 6 5))
  else if fld w 0 6 == 1#6 then guardField (fld w 11 5 == 0#5 && fld w 6 5 == 0#5) (.ssel (fld w 21 5) (fld w 16 5))
  else if fld w 0 6 == 2#6 then guardField (fld w 11 5 == 0#5 && fld w 6 5 == 0#5) (.sadv (fld w 21 5) (fld w 16 5))
  else if fld w 0 6 == 3#6 then guardField (fld w 11 5 == 0#5 && fld w 6 5 == 0#5) (.sactpop (fld w 21 5) (fld w 16 5))
  else if fld w 0 6 == 4#6 then guardField (fld w 11 5 == 0#5 && fld w 6 5 == 0#5) (.sactadd (fld w 21 5) (fld w 16 5))
  else if fld w 0 6 == 5#6 then guardField (fld w 21 5 == 0#5 && fld w 6 5 == 0#5) (.sret (fld w 16 5) (fld w 11 5))
  else if fld w 0 6 == 6#6 then guardField (fld w 11 5 == 0#5 && fld w 6 5 == 0#5) (.sprune (fld w 21 5) (fld w 16 5))
  else if fld w 0 6 == 7#6 then .ok (.smigrate (fld w 21 5) (fld w 16 5) (fld w 11 5) (fld w 6 5))
  else if fld w 0 6 == 8#6 then guardField (fld w 6 5 == 0#5) (.squery (fld w 21 5) (fld w 16 5) (fld w 11 5))
  else .error .reservedCode

/-- Major 0x35 (Table 3.4). -/
def decode35 (w : IWord) : Except Reject Instr :=
  if fld w 0 6 == 0#6 then .ok (.selsub (fld w 21 5) (fld w 16 5) (fld w 11 5) (fld w 6 5))
  else if fld w 0 6 == 1#6 then guardField (fld w 6 5 == 0#5) (.selget (fld w 21 5) (fld w 16 5) (fld w 11 5))
  else if fld w 0 6 == 2#6 then .ok (.redsub (fld w 21 5) (fld w 16 5) (fld w 11 5) (fld w 6 5))
  else if fld w 0 6 == 3#6 then guardField (fld w 6 5 == 0#5) (.sjoin (fld w 21 5) (fld w 16 5) (fld w 11 5))
  else .error .reservedCode

/-- Major 0x36 (Table 3.4). -/
def decode36 (w : IWord) : Except Reject Instr :=
  if fld w 0 6 == 0#6 then guardField (fld w 21 5 == 0#5) (.umsub (fld w 16 5) (fld w 11 5) (fld w 6 5))
  else if fld w 0 6 == 1#6 then guardField (fld w 21 5 == 0#5) (.umcommit (fld w 16 5) (fld w 11 5) (fld w 6 5))
  else if fld w 0 6 == 2#6 then guardField (fld w 6 5 == 0#5) (.umdirty (fld w 21 5) (fld w 16 5) (fld w 11 5))
  else if fld w 11 5 == 0#5 && fld w 0 6 == 3#6 then .ok (.umstateConfigure (fld w 21 5) (fld w 16 5) (fld w 6 5))
  else if fld w 11 5 == 1#5 && fld w 0 6 == 3#6 then .ok (.umstateStatus (fld w 21 5) (fld w 16 5) (fld w 6 5))
  else if fld w 11 5 == 2#5 && fld w 0 6 == 3#6 then .ok (.umstateMask (fld w 21 5) (fld w 16 5) (fld w 6 5))
  else if fld w 11 5 == 3#5 && fld w 0 6 == 3#6 then .ok (.umstateRelease (fld w 21 5) (fld w 16 5) (fld w 6 5))
  else .error .reservedCode

/-- Major 0x37 (Table 3.4). -/
def decode37 (w : IWord) : Except Reject Instr :=
  if fld w 12 4 == 0#4 then guardField (fld w 16 5 == 0#5) (.csrr (fld w 21 5) (fld w 0 12))
  else if fld w 12 4 == 1#4 then guardField (fld w 21 5 == 0#5) (.csrw (fld w 16 5) (fld w 0 12))
  else if fld w 12 4 == 2#4 then guardField (fld w 21 5 == 0#5) (.csrset (fld w 16 5) (fld w 0 12))
  else if fld w 12 4 == 3#4 then guardField (fld w 21 5 == 0#5) (.csrclr (fld w 16 5) (fld w 0 12))
  else .error .reservedCode

/-- Major 0x38 (Table 3.4). -/
def decode38 (w : IWord) : Except Reject Instr :=
  if fld w 12 4 == 0#4 then guardField (fld w 21 5 == 0#5) (.trap (fld w 16 5) (fld w 0 12))
  else if fld w 12 4 == 1#4 then guardField (fld w 21 5 == 0#5 && fld w 16 5 == 0#5 && fld w 0 12 == 0#12) .eret
  else if fld w 12 4 == 2#4 then guardField (fld w 21 5 == 0#5 && fld w 0 12 == 0#12) (.idle (fld w 16 5))
  else if fld w 12 4 == 3#4 then guardField (fld w 21 5 == 0#5 && fld w 16 5 == 0#5) (.dbrk (fld w 0 12))
  else if fld w 12 4 == 4#4 then guardField (fld w 21 5 == 0#5 && fld w 0 12 == 0#12) (.halt (fld w 16 5))
  else .error .reservedCode

/-- Major 0x39 (Table 3.4). -/
def decode39 (w : IWord) : Except Reject Instr :=
  if fld w 0 6 == 0#6 then guardField (fld w 6 5 == 0#5) (.capgive (fld w 21 5) (fld w 16 5) (fld w 11 5))
  else if fld w 0 6 == 1#6 then guardField (fld w 11 5 == 0#5 && fld w 6 5 == 0#5) (.captake (fld w 21 5) (fld w 16 5))
  else if fld w 0 6 == 2#6 then guardField (fld w 11 5 == 0#5 && fld w 6 5 == 0#5) (.capq (fld w 21 5) (fld w 16 5))
  else .error .reservedCode

/-- Major 0x3A (Table 3.4). -/
def decode3A (w : IWord) : Except Reject Instr :=
  guardField (fld w 16 5 == 0#5 && fld w 12 4 == 0#4 && fld w 0 12 == 0#12) (.digest (fld w 21 5))

/-- Major 0x3B (Table 3.4). -/
def decode3B (w : IWord) : Except Reject Instr :=
  if fld w 12 4 == 0#4 && fld w 0 12 == 0#12 then .ok (.quotasetVquota (fld w 21 5) (fld w 16 5))
  else if fld w 12 4 == 0#4 && fld w 0 12 == 1#12 then .ok (.quotasetHquota (fld w 21 5) (fld w 16 5))
  else if fld w 12 4 == 0#4 && fld w 0 12 == 2#12 then .ok (.quotasetSpill (fld w 21 5) (fld w 16 5))
  else if fld w 12 4 == 0#4 && fld w 0 12 == 3#12 then .ok (.quotasetPoolAdd (fld w 21 5) (fld w 16 5))
  else if fld w 12 4 == 0#4 && fld w 0 12 == 4#12 then .ok (.quotasetPoolRemove (fld w 21 5) (fld w 16 5))
  else if fld w 12 4 == 0#4 && fld w 0 12 == 5#12 then .ok (.quotasetSeqRange (fld w 21 5) (fld w 16 5))
  else if fld w 12 4 == 0#4 && fld w 0 12 == 6#12 then .ok (.quotasetTaskRange (fld w 21 5) (fld w 16 5))
  else if fld w 12 4 == 1#4 && fld w 0 12 == 0#12 then .ok (.keyselAssign (fld w 21 5) (fld w 16 5))
  else if fld w 12 4 == 1#4 && fld w 0 12 == 1#12 then .ok (.keyselRelease (fld w 21 5) (fld w 16 5))
  else if fld w 12 4 == 1#4 && fld w 0 12 == 2#12 then .ok (.keyselImport (fld w 21 5) (fld w 16 5))
  else if fld w 12 4 == 2#4 && fld w 0 12 == 0#12 then .ok (.modesetFeatures (fld w 21 5) (fld w 16 5))
  else if fld w 12 4 == 2#4 && fld w 0 12 == 1#12 then .ok (.modesetSeed (fld w 21 5) (fld w 16 5))
  else if fld w 12 4 == 2#4 && fld w 0 12 == 2#12 then .ok (.modesetRoot (fld w 21 5) (fld w 16 5))
  else if fld w 12 4 == 2#4 && fld w 0 12 == 3#12 then .ok (.modesetSystemFlag (fld w 21 5) (fld w 16 5))
  else if fld w 12 4 == 2#4 && fld w 0 12 == 4#12 then .ok (.modesetComputeBudget (fld w 21 5) (fld w 16 5))
  else if fld w 12 4 == 2#4 && fld w 0 12 == 5#12 then .ok (.modesetExchangeBudget (fld w 21 5) (fld w 16 5))
  else if fld w 12 4 == 2#4 && fld w 0 12 == 6#12 then .ok (.modesetFrameMap (fld w 21 5) (fld w 16 5))
  else if fld w 12 4 == 2#4 && fld w 0 12 == 7#12 then .ok (.modesetLeaf (fld w 21 5) (fld w 16 5))
  else if fld w 12 4 == 2#4 && fld w 0 12 == 8#12 then .ok (.modesetRegister (fld w 21 5) (fld w 16 5))
  else if fld w 12 4 == 2#4 && fld w 0 12 == 9#12 then .ok (.modesetUnregister (fld w 21 5) (fld w 16 5))
  else .error .reservedCode

/-- Major 0x3F (Table 3.4). -/
def decode3F (w : IWord) : Except Reject Instr :=
  .ok (.pfx (fld w 0 26))

/-- The fields of a word, before the check of reserved values. -/
def decodeFields (w : IWord) : Except Reject Instr :=
  match (fld w 26 6).toNat with
  | 1 => decode01 w
  | 2 => decode02 w
  | 3 => decode03 w
  | 4 => decode04 w
  | 5 => decode05 w
  | 6 => decode06 w
  | 7 => decode07 w
  | 8 => decode08 w
  | 9 => decode09 w
  | 10 => decode0A w
  | 11 => decode0B w
  | 12 => decode0C w
  | 13 => decode0D w
  | 14 => decode0E w
  | 15 => decode0F w
  | 16 => decode10 w
  | 17 => decode11 w
  | 18 => decode12 w
  | 19 => decode13 w
  | 20 => decode14 w
  | 21 => decode15 w
  | 22 => decode16 w
  | 23 => decode17 w
  | 24 => decode18 w
  | 25 => decode19 w
  | 26 => decode1A w
  | 27 => decode1B w
  | 28 => decode1C w
  | 29 => decode1D w
  | 30 => decode1E w
  | 31 => decode1F w
  | 32 => decode20 w
  | 33 => decode21 w
  | 34 => decode22 w
  | 35 => decode23 w
  | 36 => decode24 w
  | 37 => decode25 w
  | 38 => decode26 w
  | 39 => decode27 w
  | 40 => decode28 w
  | 41 => decode29 w
  | 42 => decode2A w
  | 43 => decode2B w
  | 44 => decode2C w
  | 45 => decode2D w
  | 46 => decode2E w
  | 47 => decode2F w
  | 48 => decode30 w
  | 49 => decode31 w
  | 50 => decode32 w
  | 51 => decode33 w
  | 52 => decode34 w
  | 53 => decode35 w
  | 54 => decode36 w
  | 55 => decode37 w
  | 56 => decode38 w
  | 57 => decode39 w
  | 58 => decode3A w
  | 59 => decode3B w
  | 63 => decode3F w
  | _ => .error .reservedMajor

/-- Decoding of one word (R55, R62 check 1): total, and a rejection has a name. -/
def decode (w : IWord) : Except Reject Instr :=
  match decodeFields w with
  | .ok i => if i.wf then .ok i else .error .reservedValue
  | .error r => .error r

/-- The word of an instruction (Tables 3.1, 3.4, 3.5); a step without an encoding has the word 0, which is illegal. -/
def encode : Instr → IWord
  | .add d a b p s r => packAlu 1#6 d a b p s r 0#8
  | .sub d a b p s r => packAlu 1#6 d a b p s r 1#8
  | .and d a b p s r => packAlu 1#6 d a b p s r 2#8
  | .or d a b p s r => packAlu 1#6 d a b p s r 3#8
  | .xor d a b p s r => packAlu 1#6 d a b p s r 4#8
  | .andn d a b p s r => packAlu 1#6 d a b p s r 5#8
  | .sll d a b p s r => packAlu 1#6 d a b p s r 6#8
  | .srl d a b p s r => packAlu 1#6 d a b p s r 7#8
  | .sra d a b p s r => packAlu 1#6 d a b p s r 8#8
  | .mul d a b p s r => packAlu 1#6 d a b p s r 9#8
  | .mulh d a b p s r => packAlu 1#6 d a b p s r 10#8
  | .div d a b p s r => packAlu 1#6 d a b p s r 11#8
  | .divu d a b p s r => packAlu 1#6 d a b p s r 12#8
  | .rem d a b p s r => packAlu 1#6 d a b p s r 13#8
  | .slt d a b p s r => packAlu 1#6 d a b p s r 14#8
  | .sltu d a b p s r => packAlu 1#6 d a b p s r 15#8
  | .min d a b p s r => packAlu 1#6 d a b p s r 16#8
  | .max d a b p s r => packAlu 1#6 d a b p s r 17#8
  | .minu d a b p s r => packAlu 1#6 d a b p s r 18#8
  | .maxu d a b p s r => packAlu 1#6 d a b p s r 19#8
  | .clz d a p r => packAlu 1#6 d a 0#5 p 0#1 r 20#8
  | .popc d a p r => packAlu 1#6 d a 0#5 p 0#1 r 21#8
  | .addi d a i => packI 2#6 d a i
  | .andi d a i => packI 3#6 d a i
  | .ori d a i => packI 4#6 d a i
  | .xori d a i => packI 5#6 d a i
  | .slli d a n => packShift 6#6 d a 0#8 0#2 n
  | .srli d a n => packShift 6#6 d a 0#8 1#2 n
  | .srai d a n => packShift 6#6 d a 0#8 2#2 n
  | .rori d a n => packShift 6#6 d a 0#8 3#2 n
  | .li d i => packI 7#6 d 0#5 i
  | .lih d a i => packI 8#6 d a i
  | .cskip c k a b => packK 9#6 c k a b 0#11
  | .cskipi c k a i => packK 10#6 c k a 0#5 i
  | .br o => packJ 11#6 o
  | .jal o => packJ 12#6 o
  | .jalr d a o => packI 13#6 d a o
  | .bz a o => packI 14#6 0#5 a o
  | .bnz a o => packI 15#6 0#5 a o
  | .rep z y x s c l => packRep 16#6 0#2 z y x 0#5 s 0#2 c l
  | .fork d a b j => packXj 17#6 d a b 0#4 j 0#6
  | .join a => packX 17#6 0#5 a 0#5 0#5 1#6
  | .quit => packX 17#6 0#5 0#5 0#5 0#5 2#6
  | .yield n => packX 17#6 0#5 0#5 n 0#5 3#6
  | .ld d a s o => packL 18#6 d a s o
  | .st d a s o => packLs 19#6 d a 0#1 s o
  | .amoadd d a b w => packAmo 20#6 d a b 0#6 w 0#4
  | .amoswap d a b w => packAmo 20#6 d a b 0#6 w 1#4
  | .amocas d a b w => packAmo 20#6 d a b 0#6 w 2#4
  | .amoand d a b w => packAmo 20#6 d a b 0#6 w 3#4
  | .amoor d a b w => packAmo 20#6 d a b 0#6 w 4#4
  | .amoxor d a b w => packAmo 20#6 d a b 0#6 w 5#4
  | .amomin d a b w => packAmo 20#6 d a b 0#6 w 6#4
  | .amomax d a b w => packAmo 20#6 d a b 0#6 w 7#4
  | .vld d a b t => packW 21#6 d a b t 0#7
  | .vst d a b t => packW 21#6 d a b t 1#7
  | .vlds d a b t => packW 21#6 d a b t 2#7
  | .vsts d a b t => packW 21#6 d a b t 3#7
  | .vgath d a b t => packW 22#6 d a b t 0#7
  | .vscat d a b t => packW 22#6 d a b t 1#7
  | .vldsh d a b => packW 23#6 d a b 0#2 0#7
  | .vstsh d a b => packW 23#6 d a b 0#2 1#7
  | .vadd d a b t => packV 24#6 d a b t 0#3
  | .vsub d a b t => packV 24#6 d a b t 1#3
  | .vmul d a b t => packV 24#6 d a b t 2#3
  | .vmulh d a b t => packV 24#6 d a b t 3#3
  | .vmin d a b t => packV 24#6 d a b t 4#3
  | .vmax d a b t => packV 24#6 d a b t 5#3
  | .vadds d a b t => packV 24#6 d a b t 6#3
  | .vsubs d a b t => packV 24#6 d a b t 7#3
  | .vand d a b t => packV 25#6 d a b t 0#3
  | .vor d a b t => packV 25#6 d a b t 1#3
  | .vxor d a b t => packV 25#6 d a b t 2#3
  | .vandn d a b t => packV 25#6 d a b t 3#3
  | .vsll d a b t => packV 25#6 d a b t 4#3
  | .vsrl d a b t => packV 25#6 d a b t 5#3
  | .vsra d a b t => packV 25#6 d a b t 6#3
  | .vcmp d a b t c => packVd 26#6 0#4 d a b t c
  | .vperm d a b t => packV 27#6 d a b t 0#3
  | .vsel d a b t => packV 27#6 d a b t 1#3
  | .vshuf d a b t => packV 27#6 d a b t 2#3
  | .vslup d a n t => packV 27#6 d a n t 3#3
  | .vsldn d a n t => packV 27#6 d a n t 4#3
  | .vbcast d a n t => packV 27#6 d a n t 5#3
  | .vrsum d a t => packV 28#6 d a 0#7 t 0#3
  | .vrmax d a t => packV 28#6 d a 0#7 t 1#3
  | .vrmin d a t => packV 28#6 d a 0#7 t 2#3
  | .vhist d a t => packV 28#6 d a 0#7 t 3#3
  | .vcmpr d a t => packV 28#6 d a 0#7 t 4#3
  | .vpopc d a t => packVa 28#6 d 0#4 a 0#7 t 5#3
  | .viota d a t => packVa 28#6 d 0#4 a 0#7 t 6#3
  | .vfadd d a b t => packV 29#6 d a b t 0#3
  | .vfsub d a b t => packV 29#6 d a b t 1#3
  | .vfmul d a b t => packV 29#6 d a b t 2#3
  | .vfmin d a b t => packV 29#6 d a b t 3#3
  | .vfmax d a b t => packV 29#6 d a b t 4#3
  | .vfma d a b t => packV 30#6 d a b t 0#3
  | .vfms d a b t => packV 30#6 d a b t 1#3
  | .vfnma d a b t => packV 30#6 d a b t 2#3
  | .vfnms d a b t => packV 30#6 d a b t 3#3
  | .vexp2 d a t => packV 31#6 d a 0#7 t 0#3
  | .vlog2 d a t => packV 31#6 d a 0#7 t 1#3
  | .vrcp d a t => packV 31#6 d a 0#7 t 2#3
  | .vrsq d a t => packV 31#6 d a 0#7 t 3#3
  | .vtanh d a t => packV 31#6 d a 0#7 t 4#3
  | .vsigm d a t => packV 31#6 d a 0#7 t 5#3
  | .vcvt d a p s t => packVp 32#6 d a 0#2 p s t 0#3
  | .vqmx d a b t => packV 32#6 d a b t 1#3
  | .vdqmx d a b t => packV 32#6 d a b t 2#3
  | .vxpnd d a p k t => packVp 32#6 d a 0#2 p k t 3#3
  | .vord d a t => packV 32#6 d a 0#7 t 4#3
  | .vunord d a t => packV 32#6 d a 0#7 t 5#3
  | .vins d a b t => packW 33#6 d a b t 0#7
  | .vext d a b t => packW 33#6 d a b t 1#7
  | .vsplt d a t => packW 33#6 d a 0#5 t 2#7
  | .vmrd m a b => packWm 33#6 0#4 m a b 0#2 3#7
  | .vmwr m a b => packWm 33#6 0#4 m a b 0#2 4#7
  | .shrd s a => packWm 33#6 0#4 s a 0#5 0#2 5#7
  | .shwr s a => packWm 33#6 0#4 s a 0#5 0#2 6#7
  | .vmand d a b => packVm 34#6 0#4 d 0#4 a 0#4 b 0#2 0#3
  | .vmor d a b => packVm 34#6 0#4 d 0#4 a 0#4 b 0#2 1#3
  | .vmxor d a b => packVm 34#6 0#4 d 0#4 a 0#4 b 0#2 2#3
  | .vmandn d a b => packVm 34#6 0#4 d 0#4 a 0#4 b 0#2 3#3
  | .vmnot d a => packVm 34#6 0#4 d 0#4 a 0#4 0#3 0#2 4#3
  | .amsel n => packVm 34#6 0#4 0#3 0#4 n 0#4 0#3 0#2 5#3
  | .rng a => packW 35#6 0#7 a 0#5 0#2 0#7
  | .vrng d k t => packW 35#6 d k 0#5 t 1#7
  | .rngkey a => packW 35#6 0#7 a 0#5 0#2 2#7
  | .mma c a b x y k => packM 36#6 c a b x y k 0#6
  | .mmat c a b x y k => packM 36#6 c a b x y k 1#6
  | .mconv c a b x y k => packM 37#6 c a b x y k 0#6
  | .mzero c => packM 38#6 c 0#5 0#5 0#3 0#3 0#1 0#6
  | .mldacc c a => packM 38#6 c a 0#5 0#3 0#3 0#1 1#6
  | .mstacc c a => packM 38#6 c a 0#5 0#3 0#3 0#1 2#6
  | .mwait => packM 38#6 0#3 0#5 0#5 0#3 0#3 0#1 3#6
  | .semwait d a n e => packX 39#6 d a n e 0#6
  | .semsig d a n c => packX 39#6 d a n c 1#6
  | .semset d a n c => packX 39#6 d a n c 2#6
  | .ringwait d r n e => packXr 40#6 d 0#1 r n e 0#6
  | .ringrsv d r n e => packXr 40#6 d 0#1 r n e 1#6
  | .ringadvHead d r n => packXr 40#6 d 0#1 r n 0#5 2#6
  | .ringadvTail d r n => packXr 40#6 d 0#1 r n 1#5 2#6
  | .ringadvWrite d r => packXr 40#6 d 0#1 r 0#5 2#5 2#6
  | .ringadvRead d r => packXr 40#6 d 0#1 r 0#5 3#5 2#6
  | .fence => packX 41#6 0#5 0#5 0#5 0#5 0#6
  | .qfence q => packXrm 41#6 0#5 0#1 0#4 0#5 0#3 q 1#6
  | .cpy d a b => packX 42#6 d a b 0#5 0#6
  | .cpysh d a b c => packX 42#6 d a b c 1#6
  | .xput d a b => packX 43#6 d a b 0#5 0#6
  | .xget d a b => packX 43#6 d a b 0#5 1#6
  | .xdeal d a b c => packX 43#6 d a b c 2#6
  | .xmcast d a b c => packX 43#6 d a b c 3#6
  | .xred d a b o => packXo 44#6 d a b 0#5 0#3 o
  | .xhfill d a b => packX 45#6 d a b 0#5 0#6
  | .xhspill d a b => packX 45#6 d a b 0#5 1#6
  | .xhld d a s => packXs 45#6 d a 0#5 0#2 s 2#6
  | .xlsend d a b c => packX 46#6 d a b c 0#6
  | .xlrecv d a b c => packX 46#6 d a b c 1#6
  | .sync => packX 47#6 0#5 0#5 0#5 0#5 0#6
  | .xend => packX 47#6 0#5 0#5 0#5 0#5 1#6
  | .xbar d a => packX 47#6 d a 0#5 0#5 2#6
  | .send d a b => packX 48#6 d a b 0#5 0#6
  | .spawn d a b => packX 48#6 d a b 0#5 1#6
  | .migrate d a => packX 48#6 d a 0#5 0#5 2#6
  | .rupd d a b w o => packXw 49#6 d a b 0#4 w 0#2 o
  | .tqpush d a b c => packX 50#6 d a b c 0#6
  | .tqdec d a => packX 50#6 d a 0#5 0#5 1#6
  | .mbxsend d a b => packX 51#6 d a b 0#5 0#6
  | .mbxrecv d a n e => packX 51#6 d a n e 1#6
  | .sfork d a b c => packX 52#6 d a b c 0#6
  | .ssel d a => packX 52#6 d a 0#5 0#5 1#6
  | .sadv d a => packX 52#6 d a 0#5 0#5 2#6
  | .sactpop d a => packX 52#6 d a 0#5 0#5 3#6
  | .sactadd d a => packX 52#6 d a 0#5 0#5 4#6
  | .sret a b => packX 52#6 0#5 a b 0#5 5#6
  | .sprune d a => packX 52#6 d a 0#5 0#5 6#6
  | .smigrate d a b c => packX 52#6 d a b c 7#6
  | .squery d a n => packX 52#6 d a n 0#5 8#6
  | .selsub d a b c => packX 53#6 d a b c 0#6
  | .selget d a b => packX 53#6 d a b 0#5 1#6
  | .redsub d a b c => packX 53#6 d a b c 2#6
  | .sjoin d a b => packX 53#6 d a b 0#5 3#6
  | .umsub a b c => packX 54#6 0#5 a b c 0#6
  | .umcommit a b c => packX 54#6 0#5 a b c 1#6
  | .umdirty d a b => packX 54#6 d a b 0#5 2#6
  | .umstateConfigure d a c => packX 54#6 d a 0#5 c 3#6
  | .umstateStatus d a c => packX 54#6 d a 1#5 c 3#6
  | .umstateMask d a c => packX 54#6 d a 2#5 c 3#6
  | .umstateRelease d a c => packX 54#6 d a 3#5 c 3#6
  | .csrr d c => packS 55#6 d 0#5 0#4 c
  | .csrw a c => packS 55#6 0#5 a 1#4 c
  | .csrset a c => packS 55#6 0#5 a 2#4 c
  | .csrclr a c => packS 55#6 0#5 a 3#4 c
  | .trap a c => packS 56#6 0#5 a 0#4 c
  | .eret => packS 56#6 0#5 0#5 1#4 0#12
  | .idle a => packS 56#6 0#5 a 2#4 0#12
  | .dbrk c => packS 56#6 0#5 0#5 3#4 c
  | .halt a => packS 56#6 0#5 a 4#4 0#12
  | .capgive d a b => packX 57#6 d a b 0#5 0#6
  | .captake d a => packX 57#6 d a 0#5 0#5 1#6
  | .capq d a => packX 57#6 d a 0#5 0#5 2#6
  | .digest d => packS 58#6 d 0#5 0#4 0#12
  | .quotasetVquota d a => packS 59#6 d a 0#4 0#12
  | .quotasetHquota d a => packS 59#6 d a 0#4 1#12
  | .quotasetSpill d a => packS 59#6 d a 0#4 2#12
  | .quotasetPoolAdd d a => packS 59#6 d a 0#4 3#12
  | .quotasetPoolRemove d a => packS 59#6 d a 0#4 4#12
  | .quotasetSeqRange d a => packS 59#6 d a 0#4 5#12
  | .quotasetTaskRange d a => packS 59#6 d a 0#4 6#12
  | .keyselAssign d a => packS 59#6 d a 1#4 0#12
  | .keyselRelease d a => packS 59#6 d a 1#4 1#12
  | .keyselImport d a => packS 59#6 d a 1#4 2#12
  | .modesetFeatures d a => packS 59#6 d a 2#4 0#12
  | .modesetSeed d a => packS 59#6 d a 2#4 1#12
  | .modesetRoot d a => packS 59#6 d a 2#4 2#12
  | .modesetSystemFlag d a => packS 59#6 d a 2#4 3#12
  | .modesetComputeBudget d a => packS 59#6 d a 2#4 4#12
  | .modesetExchangeBudget d a => packS 59#6 d a 2#4 5#12
  | .modesetFrameMap d a => packS 59#6 d a 2#4 6#12
  | .modesetLeaf d a => packS 59#6 d a 2#4 7#12
  | .modesetRegister d a => packS 59#6 d a 2#4 8#12
  | .modesetUnregister d a => packS 59#6 d a 2#4 9#12
  | .pfx i => packJ 63#6 i
  | .phaseBoundary => 0#32
  | .budgetExpiry _ => 0#32
  | .messageAccept _ _ => 0#32
  | .handlerPreemption _ _ => 0#32
  | .spillFullRecord _ _ => 0#32
  | .continuationTake _ _ => 0#32
  | .remoteUpdateApply _ _ _ => 0#32
  | .mailboxDelivery _ _ => 0#32
  | .capabilityMessageDelivery _ => 0#32
  | .sharingCountRaise _ => 0#32
  | .referenceRelease _ => 0#32
  | .exchangeUnitLanding _ _ _ => 0#32
  | .transferComplete _ _ _ => 0#32
  | .copyComplete _ _ => 0#32
  | .matrixOpComplete _ _ => 0#32
  | .hbmAccessComplete _ _ _ _ => 0#32
  | .pageWalkComplete _ _ _ => 0#32
  | .waitExpired _ _ _ => 0#32
  | .linkTimeout _ _ _ => 0#32
  | .linkTransferComplete _ _ _ => 0#32
  | .linkPartnerStop _ _ _ _ => 0#32
  | .xbarRelease _ _ _ => 0#32
  | .finialRound _ => 0#32
  | .oculusRound _ _ => 0#32
  | .smigrateReply _ _ _ _ => 0#32
  | .launchComplete => 0#32
  | .replicaFlit _ _ _ _ => 0#32
  | .refreshDue _ _ _ _ _ => 0#32
  | .postponedRefreshIssue _ _ _ => 0#32
  | .arbiterInterval _ _ _ _ _ => 0#32
  | .thermalInterval _ _ _ _ => 0#32
  | .thermalHold _ => 0#32
  | .thermalTrip _ => 0#32
  | .patrolScrub _ => 0#32
  | .wearSample _ _ _ _ => 0#32
  | .qtailDoorbell _ _ _ => 0#32
  | .queueEntryFetch _ => 0#32
  | .launch => 0#32
  | .preempt => 0#32
  | .contextSaveComplete => 0#32
  | .restore => 0#32
  | .hold => 0#32
  | .release => 0#32
  | .attest => 0#32
  | .attestationReportDone => 0#32
  | .register => 0#32
  | .unregister => 0#32
  | .debug => 0#32
  | .create => 0#32
  | .destroy => 0#32
  | .bindvf => 0#32
  | .bindlink => 0#32
  | .importkey => 0#32
  | .warm => 0#32
  | .windowRead _ _ _ => 0#32
  | .windowWrite _ _ _ => 0#32
  | .bar0RegisterWrite _ _ _ => 0#32
  | .flitCrcReplay _ => 0#32
  | .portDown _ => 0#32
  | .portUp _ => 0#32
  | .coldStart _ => 0#32
  | .warmStart _ => 0#32
  | .illegalInstructionWord _ => 0#32
  | .instructionFetchFault => 0#32
  | .streamTableRequest _ _ _ => 0#32
  | .streamTableReply _ _ _ => 0#32
  | .taskTableRequest _ _ _ => 0#32
  | .taskTableReply _ _ _ => 0#32
  | .privilegedOperationReply _ _ _ => 0#32
  | .migratedStreamAdmission _ _ => 0#32
  | .linkPartnerIssue _ _ _ _ _ _ => 0#32
  | .refreshComplete _ _ _ => 0#32

/-- Four bytes, the lowest address first, to a word (R6, R55). -/
def wordOfBytes (b0 b1 b2 b3 : Byte) : IWord := b3 ++ b2 ++ b1 ++ b0

/-- The four bytes of a word, the lowest address first (R6). -/
def bytesOfWord (w : IWord) : List Byte := [fld w 0 8, fld w 8 8, fld w 16 8, fld w 24 8]

/-- Decoding of bytes: the instruction and the rest, or nothing where fewer than four bytes stand or the word is
rejected. -/
def decodeBytes : List Byte → Option (Instr × List Byte)
  | b0 :: b1 :: b2 :: b3 :: rest =>
    match decode (wordOfBytes b0 b1 b2 b3) with
    | .ok i => some (i, rest)
    | .error _ => none
  | _ => none

/-- The bytes of the word `w` of `nbits` bits as the hardware stores them (R6), the bits above `nbits` zero. -/
def tableBytes (nbits w : Nat) : List Byte := bytesOfWord (BitVec.ofNat 32 (w % 2 ^ nbits))

/-- What the decoder reads from an instruction whose bits are `w`, numbered as the opcode table numbers them. -/
def decodeTableWord (nbits w : Nat) : Option Instr := (decodeBytes (tableBytes nbits w)).map (·.1)

end Sys2Proof
end

