-- ==== Sys2Proof/Machine/Data.lean ====
section
/-! DEFINITION. The two plain data shapes of the state: a sparse table by key, and memory as a canonical list of cells
(spec/00_scope.md R6; spec/02_state.md R47). -/

namespace Sys2Proof.Machine

/-- A table with keys rising; a key that is not listed has the value the reader of the table names. -/
abbrev TMap (α : Type) := List (Nat × α)

/-- The value under `k`, or `d` where the table lists none. -/
def TMap.get {α : Type} (m : TMap α) (k : Nat) (d : α) : α :=
  match m with
  | [] => d
  | (k', v) :: t => if k = k' then v else TMap.get t k d

/-- The value under `k`, if the table lists one. -/
def TMap.find {α : Type} (m : TMap α) (k : Nat) : Option α :=
  match m with
  | [] => none
  | (k', v) :: t => if k = k' then some v else TMap.find t k

/-- The table with `v` under `k`. -/
def TMap.set {α : Type} (m : TMap α) (k : Nat) (v : α) : TMap α :=
  match m with
  | [] => [(k, v)]
  | (k', v') :: t =>
    if k < k' then (k, v) :: (k', v') :: t
    else if k = k' then (k, v) :: t
    else (k', v') :: TMap.set t k v

/-- The table without `k`. -/
def TMap.del {α : Type} (m : TMap α) (k : Nat) : TMap α := m.filter (fun p => p.1 != k)

/-- The table with `f` applied to the value under `k` (to `d` where none is listed). -/
def TMap.upd {α : Type} (m : TMap α) (k : Nat) (d : α) (f : α → α) : TMap α :=
  TMap.set m k (f (TMap.get m k d))

/-- Memory: cells in rising order of address, no cell holding 0; an address that is not listed reads as 0. -/
abbrev Memory := List Host.Cell

/-- What an unlisted address reads as: vaults are zeroed at start-up (R386); elsewhere the log's choice. -/
def Memory.empty : Byte := 0#8

/-- One byte of memory. DESIGN CHOICE, log entry 2. -/
def Memory.read (m : Memory) (a : Nat) : Byte :=
  match m with
  | [] => Memory.empty
  | (a', b) :: t => if a = a' then b else Memory.read t a

/-- Memory with byte `b` at address `a`, in canonical form. -/
def Memory.write (m : Memory) (a : Nat) (b : Byte) : Memory :=
  match m with
  | [] => if b = Memory.empty then [] else [(a, b)]
  | (a', b') :: t =>
    if a < a' then (if b = Memory.empty then (a', b') :: t else (a, b) :: (a', b') :: t)
    else if a = a' then (if b = Memory.empty then t else (a, b) :: t)
    else (a', b') :: Memory.write t a b

/-- Every address from `lo` on rises and no cell holds the value of an unlisted address. -/
def Memory.wfFrom (lo : Nat) : Memory → Bool
  | [] => true
  | (a, b) :: t => decide (lo ≤ a) && b != Memory.empty && Memory.wfFrom (a + 1) t

/-- The canonical form: addresses strictly rising, no cell that reads as an unlisted one. -/
def Memory.wf (m : Memory) : Bool := Memory.wfFrom 0 m

/-- `n` bytes from `a` upwards. -/
def Memory.readBytes (m : Memory) (a : Nat) : Nat → List Byte
  | 0 => []
  | n + 1 => m.read a :: Memory.readBytes m (a + 1) n

/-- The bytes of `bs` from `a` upwards. -/
def Memory.writeBytes (m : Memory) (a : Nat) : List Byte → Memory
  | [] => m
  | b :: t => Memory.writeBytes (m.write a b) (a + 1) t

/-- Bytes, the lowest address first, as a number (R6). -/
def leNat : List Byte → Nat
  | [] => 0
  | b :: t => b.toNat + 256 * leNat t

/-- The low `n` bytes of a number, the lowest first (R6). -/
def natLe (n v : Nat) : List Byte :=
  match n with
  | 0 => []
  | k + 1 => BitVec.ofNat 8 v :: natLe k (v / 256)

/-- `n` bytes at `a` as a number (R6). -/
def Memory.readNat (m : Memory) (a n : Nat) : Nat := leNat (m.readBytes a n)

/-- The cells of `m` with addresses from `lo` up to and without `hi`. -/
def Memory.slice (m : Memory) (lo hi : Nat) : Memory := m.filter (fun c => lo ≤ c.1 && c.1 < hi)

/-- `m` without its cells from `lo` up to and without `hi`: that range reads as 0. -/
def Memory.clear (m : Memory) (lo hi : Nat) : Memory := m.filter (fun c => c.1 < lo || hi ≤ c.1)

/-- `dst` with the `n` bytes from `d` on replaced by those of `src` from `s` on. -/
def Memory.copyRange (dst src : Memory) (d s n : Nat) : Memory :=
  ((src.slice s (s + n)).map (fun c => (c.1 - s + d, c.2))).foldl (fun m c => Memory.write m c.1 c.2)
    (dst.clear d (d + n))

end Sys2Proof.Machine
end

