-- ==== Sys2Proof/Machine/Crypto.lean ====
section
/-! DEFINITION. The standard functions of the Keep that decide a result: SHA-256 (FIPS 180-4) of the chains of
spec/15_isolation.md R314, AES-256-XTS (FIPS 197, IEEE 1619) of the lines of HBM (R306), and the key unwrap (RFC 3394) of
spec/20_device.md R380. -/

namespace Sys2Proof.Machine

/-! ### SHA-256 -/

/-- The first 64 bits of the fractional part of a root: `v` scaled is searched from below. -/
def rootBelow (p target : Nat) : Nat → Nat → Nat
  | 0, r => r
  | k + 1, r => rootBelow p target k (if (r + 2 ^ k) ^ p ≤ target then r + 2 ^ k else r)

/-- 32 bits of the fraction of the `p`-th root of `n` (square roots give H, cube roots give K). -/
def rootFraction (p n : Nat) : BitVec 32 := BitVec.ofNat 32 (rootBelow p (n * 2 ^ (32 * p)) 40 0)

/-- The first primes, found by trial. -/
def primesFrom : Nat → Nat → List Nat
  | 0, _ => []
  | k + 1, n => if (List.range n).all (fun d => decide (d < 2) || n % d != 0) then n :: primesFrom k (n + 1)
                else primesFrom k (n + 1)

def shaPrimes : List Nat := primesFrom 310 2
def shaInit : List (BitVec 32) := (shaPrimes.take 8).map (rootFraction 2)
def shaConst : List (BitVec 32) := (shaPrimes.take 64).map (rootFraction 3)

def shaSigma (a b : Nat) (c : BitVec 32) (x : BitVec 32) : BitVec 32 := x.rotateRight a ^^^ x.rotateRight b ^^^ c

/-- Words 16 to 63 of a block's schedule, the latest word first. -/
def shaExpand : Nat → List (BitVec 32) → List (BitVec 32)
  | 0, w => w
  | n + 1, w =>
    let g (i : Nat) : BitVec 32 := w.getD i 0#32
    shaExpand n ((shaSigma 17 19 (g 1 >>> 10) (g 1) + g 6 + shaSigma 7 18 (g 14 >>> 3) (g 14) + g 15) :: w)

/-- One round on the eight working variables. -/
def shaRound (h : List (BitVec 32)) (kw : BitVec 32) : List (BitVec 32) :=
  match h with
  | [a, b, c, d, e, f, g, x] =>
    let t1 := x + (e.rotateRight 6 ^^^ e.rotateRight 11 ^^^ e.rotateRight 25) + ((e &&& f) ^^^ (~~~e &&& g)) + kw
    let t2 := (a.rotateRight 2 ^^^ a.rotateRight 13 ^^^ a.rotateRight 22) + ((a &&& b) ^^^ (a &&& c) ^^^ (b &&& c))
    [t1 + t2, a, b, c, d + t1, e, f, g]
  | h => h

/-- A big-endian number of a list of bytes. -/
def beNat (bs : List Byte) : Nat := bs.foldl (fun v b => v * 256 + b.toNat) 0
/-- The low `n` bytes of a number, the highest first. -/
def natBe (n v : Nat) : List Byte := (natLe n v).reverse

def shaBlock (h : List (BitVec 32)) (block : List Byte) : List (BitVec 32) :=
  let w := (List.range 16).map (fun i => BitVec.ofNat 32 (beNat ((block.drop (4 * i)).take 4)))
  let ws := (shaExpand 48 w.reverse).reverse
  let r := ((shaConst.zip ws).map (fun p => p.1 + p.2)).foldl shaRound h
  (h.zip r).map (fun p => p.1 + p.2)

def shaBlocks : Nat → List (BitVec 32) → List Byte → List (BitVec 32)
  | 0, h, _ => h
  | n + 1, h, bs => shaBlocks n (shaBlock h (bs.take 64)) (bs.drop 64)

/-- SHA-256 of a byte string. DEDUCED, log entry 100. -/
def sha256 (bs : List Byte) : List Byte :=
  let zeros := (119 - bs.length % 64) % 64
  let padded := bs ++ [0x80#8] ++ List.replicate zeros 0#8 ++ natBe 8 (8 * bs.length)
  (shaBlocks (padded.length / 64) shaInit padded).flatMap (fun w => natBe 4 w.toNat)

/-- A 32-byte value as bytes and back, byte 0 in the low bits. -/
def bytes256 (v : BitVec 256) : List Byte := natLe 32 v.toNat
def ofBytes256 (bs : List Byte) : BitVec 256 := BitVec.ofNat 256 (leNat bs)

/-! ### AES-256 -/

/-- Product in the field of AES. -/
def gfMul (a b : BitVec 8) : BitVec 8 :=
  ((List.range 8).foldl (fun (acc : BitVec 8 × BitVec 8) i =>
    (if b.getLsbD i then acc.1 ^^^ acc.2 else acc.1,
     (acc.2 <<< 1) ^^^ (if acc.2.getLsbD 7 then 0x1B#8 else 0#8))) (0#8, a)).1

/-- The inverse in the field: the power 254. -/
def gfInv (a : BitVec 8) : BitVec 8 := (List.range 253).foldl (fun x _ => gfMul x a) a

def aesSub (a : BitVec 8) : BitVec 8 :=
  let x := gfInv a
  x ^^^ x.rotateLeft 1 ^^^ x.rotateLeft 2 ^^^ x.rotateLeft 3 ^^^ x.rotateLeft 4 ^^^ 0x63#8

/-- The S-box and its inverse as tables. -/
def aesBox : List (BitVec 8) := (List.range 256).map (fun i => aesSub (BitVec.ofNat 8 i))
def aesInvBox (box : List (BitVec 8)) : List (BitVec 8) :=
  (List.range 256).map (fun i => BitVec.ofNat 8 (box.findIdx (fun y => y == BitVec.ofNat 8 i)))

/-- The words of the expanded key, the latest first; `i` counts them. -/
def aesExpand (box : List (BitVec 8)) : Nat → Nat → BitVec 8 → List (List (BitVec 8)) → List (List (BitVec 8))
  | 0, _, _, w => w
  | n + 1, i, rc, w =>
    let sub (x : List (BitVec 8)) : List (BitVec 8) := x.map (fun b => box.getD b.toNat 0#8)
    let prev := w.getD 0 []
    let t := if i % 8 = 0 then
        (match sub (prev.drop 1 ++ prev.take 1) with
          | b :: r => (b ^^^ rc) :: r
          | [] => [])
      else if i % 8 = 4 then sub prev else prev
    let next := ((w.getD 7 []).zip t).map (fun p => p.1 ^^^ p.2)
    aesExpand box n (i + 1) (if i % 8 = 0 then gfMul rc 2#8 else rc) (next :: w)

/-- The fifteen round keys of a 32-byte key, 16 bytes each. -/
def aesKeys (box : List (BitVec 8)) (key : List Byte) : List (List Byte) :=
  let first := (List.range 8).map (fun i => (key.drop (4 * i)).take 4)
  let ws := (aesExpand box 52 8 1#8 first.reverse).reverse
  (List.range 15).map (fun r => ((ws.drop (4 * r)).take 4).flatten)

def xorBytes (a b : List Byte) : List Byte := (a.zip b).map (fun p => p.1 ^^^ p.2)

/-- The rows of a block shifted back. -/
def aesUnshift (st : List Byte) : List Byte :=
  (List.range 16).map (fun i => st.getD ((i + 16 - 4 * (i % 4)) % 16) 0#8)

/-- The columns of a block mixed back. -/
def aesUnmix (st : List Byte) : List Byte :=
  (List.range 16).map (fun i =>
    let c (j : Nat) : Byte := st.getD (i / 4 * 4 + (i + j) % 4) 0#8
    gfMul (c 0) 14#8 ^^^ gfMul (c 1) 11#8 ^^^ gfMul (c 2) 13#8 ^^^ gfMul (c 3) 9#8)

/-- The rows of a block shifted. -/
def aesShift (st : List Byte) : List Byte :=
  (List.range 16).map (fun i => st.getD ((i + 4 * (i % 4)) % 16) 0#8)

/-- The columns of a block mixed. -/
def aesMix (st : List Byte) : List Byte :=
  (List.range 16).map (fun i =>
    let c (j : Nat) : Byte := st.getD (i / 4 * 4 + (i + j) % 4) 0#8
    gfMul (c 0) 2#8 ^^^ gfMul (c 1) 3#8 ^^^ c 2 ^^^ c 3)

/-- AES-256 encryption of one block. -/
def aesEncrypt (box : List (BitVec 8)) (keys : List (List Byte)) (block : List Byte) : List Byte :=
  let sub (st : List Byte) : List Byte := st.map (fun b => box.getD b.toNat 0#8)
  let k (r : Nat) : List Byte := keys.getD r []
  let st := ((List.range 13).map (1 + ·)).foldl (fun st r => xorBytes (aesMix (aesShift (sub st))) (k r))
    (xorBytes block (k 0))
  xorBytes (aesShift (sub st)) (k 14)

/-- AES-256 decryption of one block. -/
def aesDecrypt (inv : List (BitVec 8)) (keys : List (List Byte)) (block : List Byte) : List Byte :=
  let sub (st : List Byte) : List Byte := st.map (fun b => inv.getD b.toNat 0#8)
  let k (r : Nat) : List Byte := keys.getD r []
  let st := xorBytes block (k 14)
  let st := ((List.range 13).map (13 - ·)).foldl (fun st r => aesUnmix (xorBytes (sub (aesUnshift st)) (k r))) st
  xorBytes (sub (aesUnshift st)) (k 0)

/-! ### AES-256-XTS of a line of HBM (R305, R306) -/

/-- A tweak times α in the field of 2^128. -/
def xtsNext (v : BitVec 128) : BitVec 128 := (v <<< 1) ^^^ (if v.getLsbD 127 then 0x87#128 else 0#128)

/-- The four blocks of a line through the block function `f`, block j under the tweak times α^j. -/
def xtsBlocks (f : List Byte → List Byte) : Nat → BitVec 128 → List Byte → List Byte
  | 0, _, _ => []
  | n + 1, v, bs =>
    let w := natLe 16 v.toNat
    xorBytes (f (xorBytes (bs.take 16) w)) w ++ xtsBlocks f n (xtsNext v) (bs.drop 16)

/-- The data key and the tweak key of a slot's material, the first in its first 32 bytes (R305), and the tweak of a line
(R306). DEDUCED, log entry 3. -/
def xtsTweak (box : List (BitVec 8)) (mat : BitVec 512) (line : Nat) : BitVec 128 :=
  BitVec.ofNat 128 (leNat (aesEncrypt box (aesKeys box (natLe 32 (mat.toNat / 2 ^ 256))) (natLe 16 line)))

/-- The 64 bytes of line number `line` encrypted under key material. DEDUCED, log entry 3, 100. -/
def xtsEncrypt (mat : BitVec 512) (line : Nat) (bs : List Byte) : List Byte :=
  xtsBlocks (aesEncrypt aesBox (aesKeys aesBox (natLe 32 mat.toNat))) 4 (xtsTweak aesBox mat line) bs

/-- What the cipher text of a line decrypts to under key material. DEDUCED, log entry 3. -/
def xtsDecrypt (mat : BitVec 512) (line : Nat) (bs : List Byte) : List Byte :=
  xtsBlocks (aesDecrypt (aesInvBox aesBox) (aesKeys aesBox (natLe 32 mat.toNat))) 4 (xtsTweak aesBox mat line) bs

/-! ### Key unwrap (RFC 3394) -/

/-- One step of the unwrap: A, the registers, and the step number `t`. -/
def unwrapStep (dec : List Byte → List Byte) (n : Nat) (x : List Byte × List (List Byte)) (t : Nat) :
    List Byte × List (List Byte) :=
  let i := (t - 1) % n
  let b := dec (xorBytes x.1 (natBe 8 t) ++ x.2.getD i [])
  (b.take 8, x.2.set i (b.drop 8))

/-- The material that a wrapped key holds, or none where the integrity value does not match. DEDUCED, log entry 100. -/
def keyUnwrap (kek wrapped : List Byte) : Option (List Byte) :=
  let box := aesBox
  let keys := aesKeys box kek
  let inv := aesInvBox box
  let n := wrapped.length / 8 - 1
  let rs := (List.range n).map (fun i => (wrapped.drop (8 * (i + 1))).take 8)
  let r := ((List.range (6 * n)).map (6 * n - ·)).foldl (unwrapStep (aesDecrypt inv keys) n) (wrapped.take 8, rs)
  if r.1 = List.replicate 8 0xA6#8 then some r.2.flatten else none

end Sys2Proof.Machine
end

