-- ==== Sys2Proof/Machine/State.lean ====
section
/-! DEFINITION. The state of the device (spec/02_state.md, and the chapter each field cites), the reasons a step can
stop, and the state after start-up. The state of a tenant is held twice: `cur` is what its own cores see in the
current phase (the holder view, R156) and `com` what the last boundary left (the committed view); a void puts `com`
back (R41, R42, R166). -/

namespace Sys2Proof.Machine

/-- Trap causes of Table 16.3 (R325). -/
inductive Cause where
  | illegalInstruction | illegalRegister | phaseIllegal | typeCombo | misaligned | localUnmapped | writeProtect
  | capability | quota | allowance | residency | translation | waitExpired | randomExhausted | depcountUnderflow
  | straggler | exchTimeout | feature | refcountSaturated | memLost | debugStop | spillFull | spawnLimit | software
  | privilege | deferredUpdate | replicaMismatch
  deriving DecidableEq, Repr

/-- A trap as it arises: cause, TRAPVAL, TRAPAUX, TRAPCAUSE.RES (R319). DEDUCED, log entry 55. -/
structure Trap where
  cause : Cause
  val   : Word := 0#64
  aux   : Word := 0#64
  res   : Bool := false
  /-- TRAPPC where it is not the address of the trapping instruction (R322). -/
  pc    : Option LAddr := none
  deriving DecidableEq, Repr

/-- A slot of a tenant on a core. -/
structure Party where
  tid  : Nat := 0
  core : Nat := 0
  slot : Nat := 0
  deriving DecidableEq, Repr

/-- A repeat frame in progress (R68, R70, R71): `k` and `i` name the execution that comes next. -/
structure RepFrame where
  base : LAddr
  len  : Nat
  cnt  : Nat
  st   : Nat
  fd   : Bool
  fa   : Bool
  fb   : Bool
  k    : Nat := 0
  i    : Nat := 0
  deriving DecidableEq, Repr

/-- What a device structure answers: register writes, or a trap, and whether the thread is freed to go on. -/
structure Reply where
  writes : List (Nat × Word) := []
  trap   : Option Trap := none
  /-- A quota that counts from the reply on: stream, HQUOTA or VQUOTA, value (R333). -/
  quota  : List (Nat × Bool × Nat) := []
  deriving DecidableEq, Repr

/-- A request of a slot to the Stream Table, the task table, the privileged path or HBM, with the operand registers
and the record words read at issue (R252, R258, R332, R195). -/
structure Request where
  instr : Instr
  g     : List Word := []
  recs  : List Word := []
  reply : Option Reply := none
  deriving DecidableEq, Repr

/-- What a thread is doing (R208, R218). -/
inductive Status where
  /-- May issue in its slot's turns. -/
  | ready
  /-- Waits in the instruction named, which is tried again at each turn: a bounded wait, JOIN, QUIT, a fence, XEND (R180,
  R200, R237, R238). -/
  | waiting (i : Instr)
  /-- Waits in MWAIT, FENCE or QFENCE for the operations of its core numbered below `upto` (R147, R183). -/
  | fenced (i : Instr) (upto : Nat)
  /-- Out of the rotation until its matrix operation, copy or link transfer ends (R138, R185, R197). -/
  | engine
  /-- Out of the rotation until the reply to its request arrives. -/
  | asking (r : Request)
  /-- Waits at instance `k` of the barrier of a rectangle, to write `k` to register `d` (R201). -/
  | barrier (rect : BitVec 24) (k d : Nat)
  /-- Executed SYNC or XEND in this phase (R199, R200). -/
  | arrived
  /-- Waits in IDLE for `n` more boundaries (R323). -/
  | idle (n : Nat)
  /-- Gives up `n` more turns (R239). -/
  | yielding (n : Nat)
  /-- Held, counting as arrived, until the slots of its core that took a trap are released; `n` boundaries of an IDLE are
  still to pass (R215). -/
  | held (n : Nat)
  /-- Stopped by debug hold (R354); `exchange` tells the kind of phase it stopped in (R357). -/
  | stopped (exchange : Bool)
  deriving DecidableEq, Repr

/-- A thread: its registers of its own and its progress (R31 to R33, R222). A slot's level-0 thread uses the slot's
vector, mask, shadow and control registers as well. DESIGN CHOICE, log entry 1. -/
structure Thread where
  live   : Bool := false
  status : Status := .ready
  g      : TMap Word := []
  pc     : LAddr := 0#20
  stream : Word := 0#64
  level  : Nat := 0
  origin : Nat := 0
  /-- The join semaphore the thread carries (R235). -/
  join   : Option Nat := none
  /-- The immediate of a prefix that has issued, and the word fetched with it (R65). -/
  pfx    : Option (BitVec 26) := none
  pfxWord : IWord := 0#32
  frame  : Option RepFrame := none
  /-- The resume mark of ERET (R46). -/
  resume : Bool := false
  /-- Launch number of the thread (R32). -/
  launch : Nat := 0
  /-- The model's own: the step at which the thread started, which tells it from others of its slot. -/
  birth  : Nat := 0
  /-- Work-ring entry the thread came from (SLOT.ORIGIN 1, R263). -/
  packet : Nat := 0
  /-- Batch-list index that SSEL selected (R263). -/
  batch  : Nat := 0
  /-- sh0-sh7 and TRAPVEC of a thread of level 1 to 3; those of a level-0 thread are the slot's (R222, R243). -/
  sh      : TMap Word := []
  trapvec : Word := 0#64
  deriving DecidableEq, Repr, Inhabited

/-- A slot with its registers and control registers (R33, R37, R43, R44, R100, R319). DESIGN CHOICE, log entry 1. -/
structure Slot where
  thread   : Thread := {}
  /-- Handler threads of levels 1 to 3 that run in the slot, the highest level first (R222). -/
  handlers : List Thread := []
  v        : TMap VReg := []
  vm       : TMap VMask := []
  sh       : TMap Word := []
  trapvec  : Word := 0#64
  flags    : Word := 0#64
  rngctr   : Word := 0#64
  epoch    : BitVec 48 := 0#48
  rprog    : Word := 0#64
  cause    : Word := 0#64
  trappc   : Word := 0#64
  trapval  : Word := 0#64
  trapaux  : Word := 0#64
  latcnt   : Word := 0#64
  amask    : BitVec 3 := 0#3
  h        : Bool := false
  lane     : Nat := 0
  ptenant  : Word := 0#64
  /-- HBM accesses of the slot that have not completed (R160). -/
  hbmOpen  : Nat := 0
  /-- XBARs that the slot has executed in this phase, by rectangle (R201). -/
  bars     : List (BitVec 24 × Nat) := []
  /-- The banks of handler levels at which no thread is: the registers of the last one, and what a debugger wrote (R222,
  Table 20.10). -/
  banks    : TMap Thread := []
  deriving DecidableEq, Repr, Inhabited

/-- A tenant's share of a core (R296, Table 15.2; R377). -/
structure Share where
  slots : BitVec 16 := 0#16
  acc   : BitVec 8 := 0#8
  q     : BitVec 4 := 0#4
  ring  : BitVec 16 := 0#16
  sem   : BitVec 32 := 0#32
  arrq  : Nat := 0
  sendq : Nat := 0
  deq   : Nat := 0
  tlb   : Nat := 0
  ct    : Nat := 0
  walk  : Nat := 0
  spill : Nat := 0
  reserve : Nat := 0
  deriving DecidableEq, Repr

/-- A continuation of the deque (R235). -/
structure Cont where
  pc      : LAddr
  g       : List Word
  stream  : Word
  trapvec : Word
  join    : Option Nat
  launch  : Nat
  deriving DecidableEq, Repr

/-- Kinds of message (Table 11.4); a system message is one of the device's own, which no instruction sends. -/
inductive MsgKind where
  | send | spawn | migrate | rupd | mbxsend | system
  deriving DecidableEq, Repr

/-- A message (R242), with its destination, the issuing slot and the count of phases it was retried in (R219). -/
structure Message where
  src     : Nat
  typ     : BitVec 6
  kind    : MsgKind
  launch  : Nat
  sid     : BitVec 18
  sv      : Bool
  seq     : BitVec 32
  pc      : LAddr
  payload : List Word
  dest    : Nat
  slot    : Nat
  retries : Nat := 0
  /-- PHASE in which it was last tried. -/
  tried   : Option Word := none
  deriving DecidableEq, Repr

/-- An operand element as the matrix engine reads it: its code, and for mx4 the scale of its block. -/
structure Elem where
  code  : Nat
  scale : Nat := 127
  deriving DecidableEq, Repr

/-- How far the engine has come in a matrix operation: the units of B it has read, the row it is in, the units of that row it
has read (R148, R151). -/
structure MatProg where
  b   : List (List Elem) := []
  row : Nat
  a   : List (List Elem) := []
  /-- The flags of the rows done, which the slot's FLAGS take when the operation completes (R99). -/
  flags : BitVec 6 := 0#6
  deriving DecidableEq, Repr

/-- An operation of the matrix queue (R137, R138); `order` is the step of its issue, `launch` that of the thread that issued
it, which an MZERO may outlast in its slot. -/
structure MatOp where
  id     : Nat
  order  : Nat
  slot   : Nat
  launch : Nat
  instr  : Instr
  a      : Word
  b      : Word
  recs   : List Word
  resume : Bool
  prog   : Option MatProg := none
  deriving DecidableEq, Repr

/-- A local copy (R185, R186); `order` is the step of its issue, `done` counts the units written once it has begun. -/
structure CopyOp where
  id     : Nat
  order  : Nat
  slot   : Nat
  level  : Nat
  instr  : Instr
  d      : Word
  a      : Word
  b      : Word
  c      : Word
  recs   : List Word
  resume : Bool
  done   : Option Nat := none
  deriving DecidableEq, Repr

/-- Six sticky flags. -/
abbrev FlagBits := BitVec 6

/-- What a transfer keeps of the thread that issued it: launch, STREAM, and what selects its window (R49, R188). -/
structure IssueCtx where
  level  : Nat := 0
  origin : Nat := 0
  launch : Nat := 0
  packet : Nat := 0
  batch  : Nat := 0
  stream : Word := 0#64
  deriving DecidableEq, Repr

/-- An exchange transfer from issue to completion (R188 to R190); `order` is the step of its issue. `next`: units landed;
`flight`: the bytes of the units that have left the copy queue and not landed; `injected`: all its units have left it (R189);
`piece`: the source offset and the bytes last read, which an XMCAST sends to every member (R191). -/
structure XferOp where
  id      : Nat
  order   : Nat
  slot    : Nat
  instr   : Instr
  d       : Word
  a       : Word
  b       : Word
  c       : Word
  ctx     : IssueCtx
  next    : Nat := 0
  flags   : FlagBits := 0#6
  flight  : List (List Byte) := []
  injected : Bool := false
  piece   : Option (Nat × List Byte) := none
  deriving DecidableEq, Repr

/-- A link transfer (R196, R197). `far` is what the partner brought: its LEN and, where it sends, its bytes. -/
structure LinkOp where
  /-- Number of the operation on its core, and the step of its issue, which orders the operations of a channel. -/
  id     : Nat
  order  : Nat
  slot   : Nat
  level  : Nat
  sends  : Bool
  d      : Nat
  addr   : Word
  ctl    : Word
  link   : Word
  far    : Option (Nat × List Byte) := none
  /-- Its port has gone down: it runs to its time-out (R385). -/
  stopped : Bool := false
  /-- The bytes of an XLRECV have reached the core and stand in the loop-back port (R170, R197). -/
  landing : Bool := false
  deriving DecidableEq, Repr

/-- A write in the loop-back port of a core: a piece of the XLRECV with number `id` (R170, R197). `last`: the transfer's last
piece, with which it completes (R169). -/
structure PortWrite where
  id   : Nat
  slot : Nat
  ctx  : IssueCtx
  addr : LAddr
  data : List Byte
  last : Bool
  deriving DecidableEq, Repr

/-- A work packet in the ring and the streams of its batch (R226). `ended`: its task has quit. -/
structure Packet where
  launch : Nat
  model  : Nat
  group  : Nat
  sids   : List Nat
  issued : Word := 0#64
  /-- Its place among the packets of the core (Table 2.12). -/
  seq    : BitVec 32 := 0#32
  taken  : Bool := false
  ended  : Bool := false
  deriving DecidableEq, Repr

/-- An entry of the TLB (R300). -/
structure TlbEntry where
  page : Nat
  size : Nat
  pfn  : Nat
  key  : Nat
  deriving DecidableEq, Repr

/-- A tenant on a core: its slots, core registers, frames and queues (R38, R39, R40, R45, R48, R234, R240).
DESIGN CHOICE, log entry 1. -/
structure TCore where
  share   : Share := {}
  slots   : TMap Slot := []
  queues  : TMap (List Word) := []
  sems    : TMap (BitVec 32) := []
  rings   : TMap Word := []
  accs    : TMap (BitVec 32) := []
  /-- Frame-map entries of the tenant's frames by frame number (Table 2.9). -/
  fm      : TMap Word := []
  /-- Frames that tables have stood in, in the order in which the first of each came to stand there (R260). -/
  tframes : List Nat := []
  /-- ALLOW.LIMIT as written, ALLOW.USED, the effective allowance of the phase (R45). -/
  limit   : Nat := 32
  used    : Nat := 0
  allow   : Nat := 0
  /-- The reserve was the smaller term of the effective allowance (R45). -/
  allowRes : Bool := false
  /-- Frames with a shadow of this phase, each with the reserve frame it took (R161, R162). -/
  shadows : TMap Nat := []
  /-- Copies of this phase by copy-on-write: frames, and counts by stream (R111, R261). -/
  copied  : List Nat := []
  charged : TMap Nat := []
  /-- Reference counts to lower at the commit, by frame (Table 7.3). -/
  drops   : TMap Nat := []
  deque   : List Cont := []
  sendq   : List Message := []
  seq     : BitVec 32 := 0#32
  spawns  : Nat := 0
  arrq    : List Message := []
  spill   : List Message := []
  /-- Reserve frames that the spill ring holds, 32 entries to each, and the entries written since the ring was last empty at a
  commit; the last entry written stands in the last frame (R219). -/
  spillFrames : List Nat := []
  spillTail : Nat := 0
  /-- Remote updates accepted and not yet applied (R175). -/
  updates : List Message := []
  mq      : List MatOp := []
  cq      : List CopyOp := []
  xq      : List XferOp := []
  links   : List LinkOp := []
  port    : List PortWrite := []
  packets : TMap Packet := []
  packSeq : BitVec 32 := 0#32
  tlb     : List TlbEntry := []
  /-- Capability messages and SJOINs of this phase (R326, R274). -/
  capSent : Nat := 0
  joins   : Nat := 0
  nextOp  : Nat := 0
  deriving DecidableEq, Repr

/-- A stream descriptor (Table 2.13). `state`: 0 free, 1 live, 2 complete, 3 pruned. -/
structure Desc where
  model    : BitVec 8 := 0#8
  cursor   : BitVec 6 := 0#6
  state    : BitVec 2 := 0#2
  horizon  : BitVec 32 := 0#32
  parent   : BitVec 18 := 0#18
  pv       : Bool := false
  features : BitVec 32 := 0#32
  ret      : BitVec 32 := 0#32
  reward   : BitVec 32 := 0#32
  actbase  : BitVec 42 := 0#42
  actlogn  : BitVec 4 := 0#4
  acthead  : BitVec 16 := 0#16
  acttail  : BitVec 16 := 0#16
  vquota   : BitVec 16 := 0#16
  vused    : BitVec 16 := 0#16
  hquota   : BitVec 32 := 0#32
  hused    : BitVec 32 := 0#32
  home     : BitVec 12 := 0#12
  segrec   : LAddr := 0#20
  mbx      : LAddr := 0#20
  mbxlogn  : BitVec 4 := 0#4
  age      : BitVec 16 := 0#16
  born     : Word := 0#64
  /-- The stream is not batched: its root record is not yet written (R262) or it migrates (R268). -/
  parked   : Bool := false
  migrating : Bool := false
  /-- Its references went with its model, which was unregistered after the stream had completed or been pruned (R267, R379). -/
  freed    : Bool := false
  deriving DecidableEq, Repr

/-- Requests to the Stream Table that become current at commit (R258, R270). -/
inductive StreamReq where
  | advance (sid : Nat)
  | pop (sid : Nat)
  | reward (sid core slot order : Nat) (value : BitVec 32)
  | prune (sid : Nat)
  | fork (child : Nat) (desc : Desc)
  | migrate (sid port noticeCore : Nat) (noticeType : BitVec 6) (core slot launch : Nat)
  deriving DecidableEq, Repr

/-- An entry of the task table (R228, R252): the record's eight words, the count, `ready` with its PHASE. -/
structure Task where
  recs    : List Word
  count   : BitVec 32
  ready   : Option Word := none
  started : Bool := false
  launch  : Nat := 0
  deriving DecidableEq, Repr

/-- One Finial submission (R271 to R273). -/
structure FinSub where
  id     : Nat
  core   : Nat
  order  : Nat
  reduce : Bool
  mode   : Nat
  k      : Nat
  items  : List Word
  deriving DecidableEq, Repr

/-- The result of a committed round (R275). -/
structure FinResult where
  reduce   : Bool
  mode     : Nat
  conflict : Bool
  items    : List Word
  deriving DecidableEq, Repr

/-- One SJOIN (R274). -/
structure JoinSub where
  child : Nat
  op    : Nat
  keep  : Nat
  ret   : BitVec 32
  deriving DecidableEq, Repr

/-- One submission to a sequence (R277): a forced token, or a key with a token. -/
structure SeqSub where
  pos    : Nat
  forced : Bool
  key    : Nat
  token  : Nat
  core   : Nat
  slot   : Nat
  launch : Nat := 0
  /-- The `birth` of the submitting thread. -/
  birth  : Nat := 0
  deriving DecidableEq, Repr

/-- A sequence of the Oculus (R276 to R280): the record's words, mask bits, round counter, dirty bits by group. -/
structure Sequence where
  recs  : List Word
  mask  : Nat := 0
  round : BitVec 32 := 0#32
  dirty : TMap Nat := []
  subs  : List SeqSub := []
  launch : Nat := 0
  deriving DecidableEq, Repr

/-- What is asked of a sequence at commit (R276, R280). -/
inductive SeqReq where
  | configure (seq : Nat) (recs : List Word) (launch : Nat)
  | release (seq : Nat)
  | clean (seq group : Nat) (bits : Nat)
  deriving DecidableEq, Repr

/-- A capability message (R326 to R329). `target` is none where no core is to hold the region. -/
structure CapMsg where
  src    : Nat
  slot   : Nat
  give   : Bool
  region : Word
  /-- The frame, when the region is a frame of the issuing core. -/
  frame  : Option Nat
  target : Option Nat
  done   : Bool := false
  valid  : Bool := true
  launch : Nat := 0
  deriving DecidableEq, Repr

/-- A fresh HBM page of this phase (R163): virtual page base, bytes, old and new physical frame, stream charged. -/
structure Fresh where
  va     : Nat
  bytes  : Nat
  old    : Nat
  new    : Nat
  charge : Option Nat
  deriving DecidableEq, Repr

/-- Privileged changes that become current at a commit of the issuing tenant (R332, R333): selector group, selector,
target tenant, issuing core, operand and record words; `order` is the step of its acceptance. -/
structure PrivReq where
  order : Nat
  instr : Instr
  tid   : Nat
  core  : Nat
  arg   : Word
  recs  : List Word
  deriving DecidableEq, Repr

/-- A migration of a stream under way (R268). -/
structure Migration where
  sid        : Nat
  port       : Nat
  noticeCore : Nat
  noticeType : BitVec 6
  core       : Nat
  slot       : Nat
  launch     : Nat
  /-- The port has gone down since (R385). -/
  failed     : Bool := false
  deriving DecidableEq, Repr

/-- All of a tenant's state that a phase changes and a void restores (Tables 2.5 and 7.3). -/
structure TenantDev where
  cores    : TMap TCore := []
  /-- Vault bytes of the tenant's frames, at core number times 2^20 plus vault offset (R14, R47). -/
  vault    : Memory := []
  /-- Bytes that the device has landed in vaults in this phase for a frame's holder, by vault address: mailbox entries, tokens,
  remote updates. No core reads them before the commit, which writes them (R171, R175). -/
  later    : TMap Byte := []
  /-- Control storage, at core number times 2^14 plus offset from 0x7_C000 (R47). -/
  ctl      : Memory := []
  streams  : TMap Desc := []
  reqs     : List StreamReq := []
  /-- Appends that wait for the commit of the next exchange phase: stream and core (R265). -/
  appends  : List (Nat × Nat) := []
  appendsNew : List (Nat × Nat) := []
  /-- Forked children whose sharing counts are to be raised, and pruned streams to be released (R262, R267). -/
  raises   : List (Nat × Nat) := []
  releases : List Nat := []
  released : List Nat := []
  /-- The Campanile's copies of the sharing counts, by model, group and table position (R260): none that is 0. -/
  counts   : TMap Nat := []
  /-- Table positions whose count REFERENCE_RELEASE has lowered in this phase (R267). -/
  lowered  : List Nat := []
  moves    : List Migration := []
  tasks    : TMap Task := []
  seqs     : TMap Sequence := []
  seqReqs  : List SeqReq := []
  finSubs  : List FinSub := []
  finRes   : TMap FinResult := []
  joinSubs : List JoinSub := []
  /-- Returns and prunes that the last join round asks for at the commit (R274). -/
  joinRes  : List (Nat × BitVec 32 × List Nat) := []
  capMsgs  : List CapMsg := []
  pool     : List (Nat × Nat) := []
  fresh    : List Fresh := []
  digest   : Word := 0#64
  /-- Lines written in this phase: identifier, whether in HBM, and address (R313). -/
  lines    : TMap (Bool × Nat) := []
  /-- Quotas that checks use after a QUOTASET reply and before the commit (R333): the step of the reply, stream, vault or HBM,
  value. -/
  quotas   : List (Nat × Nat × Bool × Nat) := []
  priv     : List PrivReq := []
  groups   : TMap (List Nat) := []
  /-- Admitted launches whose threads start at the next compute-phase start (R42, R377). -/
  toStart  : List Nat := []
  deriving DecidableEq, Repr

/-- Phase states of a tenant (Table 10.1). -/
inductive TPhase where
  | run
  /-- Voided at phase end (R213); `stopped`: a straggler, whose cores issue nothing more (R210). -/
  | voiding (stopped : Bool)
  /-- Sits out a phase; `exchange` is the kind of phase it runs again afterwards. -/
  | sitout (exchange : Bool)
  /-- In hold; `exchange` is the kind of phase it runs again afterwards (R356, R365, R390). -/
  | held (exchange : Bool)
  /-- Pre-empted: out of the phase machine (R345). -/
  | away
  deriving DecidableEq, Repr

/-- A trap that a slot takes when its tenant leaves SITOUT (R164, R198, R214, R215, R361). DEDUCED, log entry 58. -/
structure PendTrap where
  core  : Nat
  slot  : Nat
  cause : Cause
  val   : Word
  aux   : Word
  rank  : Nat
  deriving DecidableEq, Repr

/-- A registered model (Table 12.2); `templates`: the packet template of each group, as registered. -/
structure Model where
  groups : Nat
  rects  : List (BitVec 24)
  b      : Nat
  bmin   : Nat
  a      : Nat
  launch : Nat
  templates : TMap (List Word) := []
  deriving DecidableEq, Repr

/-- Replica pairing (R363 to R366). -/
structure Replica where
  port     : Nat
  ordinal  : Word := 0#64
  misses   : Nat := 0
  /-- The partner's flits that no boundary has used, the oldest first: ordinal, kind, contribution. -/
  partner  : List (Word × Bool × Word) := []
  sent     : Bool := false
  halted   : Bool := false
  deriving DecidableEq, Repr

/-- A tenant (Table 15.1) and its place in the phase machine (Table 10.1). -/
structure Tenant where
  system   : Bool := false
  compute  : Nat := 16777216
  exchange : Nat := 4194304
  root     : Option Nat := none
  tableKey : Nat := 0
  permit   : BitVec 32 := 1#32
  seed     : Word := 0#64
  /-- K0 from the next compute phase on (R333). -/
  seedNext : Option Word := none
  seqBase  : Nat := 0
  seqCount : Nat := 0
  taskBase : Nat := 0
  taskCount : Nat := 0
  chain    : BitVec 256 := 0#256
  importKey : Option (BitVec 256) := none
  models   : TMap Model := []
  phase    : TPhase := .run
  traps    : List PendTrap := []
  /-- Slots that took a trap on leaving SITOUT and have not yet released the others (R215). -/
  trapped  : List (Nat × Nat) := []
  /-- A debug hold asked for or in force, the launches whose slots it is to stop, and its release (R354, R357). -/
  draining : Bool := false
  stopping : List Nat := []
  release  : Bool := false
  /-- HOLD commands that complete when the hold is in force (R379). -/
  holdCmds : List HostCmd := []
  /-- PHASE of the last commit (R315, R349). -/
  committed : Word := 0#64
  /-- The hold is a thermal one (R390). -/
  thermal  : Bool := false
  /-- Launches that HALT has ended in this phase (R324). -/
  halted   : List Nat := []
  /-- Which of the tenant's 64 launch numbers the next admission tries first. -/
  nextLaunch : Nat := 0
  /-- FEATURE and REFCOUNT_SATURATED entries already written, by cause code and stream (R260, R308). -/
  warned   : List (Nat × Nat) := []
  replica  : Option Replica := none
  /-- Captured vector state of stopped slots (R355): core, slot, and the slot with accumulators. -/
  captures : List (Nat × Nat × Slot × TMap (BitVec 32)) := []
  /-- A debugger's writes, current at the next commit, which completes their commands (R356, R379). -/
  debugWrites : List (HostCmd × List Byte) := []
  deriving DecidableEq, Repr

/-- A launch (R297, R377, R378). -/
structure Launch where
  tid      : Nat
  priv     : Bool := false
  det      : Bool := false
  tmode    : Nat := 0
  feats    : BitVec 32 := 1#32
  cores    : List Nat := []
  slots    : BitVec 16 := 0#16
  starts   : BitVec 16 := 0#16
  lanes    : List Nat := []
  entry    : LAddr := 0#20
  sh       : List Word := []
  trapvec  : Word := 0#64
  frec     : Word := 0#64
  entries  : Nat := 0
  written  : BitVec 32 := 0#32
  dropped  : BitVec 32 := 0#32
  /-- Packet templates by 64 times the model plus the group (R259). -/
  templates : TMap (List Word) := []
  desc     : Word := 0#64
  /-- Admitted (true) and not yet completed. -/
  live     : Bool := true
  /-- Waits for its slots to be free; its place in the order of R229 is `since`, the PHASE it was presented in, and
  `rank`. -/
  waiting  : Bool := false
  since    : Word := 0#64
  rank     : Nat := 0
  failed   : Bool := false
  crec     : Word := 0#64
  queue    : Nat := 0
  task     : Option Nat := none
  /-- A debugger is attached (R322). -/
  debugger : Bool := false
  deriving DecidableEq, Repr

/-- A key slot (R305): its owner and its 512 bits of material. -/
structure KeySlot where
  owner    : Option Nat := none
  material : BitVec 512 := 0#512
  deriving DecidableEq, Repr

/-- A launch queue's registers (Table 20.1). -/
structure LQueue where
  base  : BitVec 52 := 0#52
  logn  : Nat := 4
  en    : Bool := false
  owner : Nat := 0
  vec   : BitVec 11 := 0#11
  tail  : BitVec 16 := 0#16
  head  : BitVec 16 := 0#16
  deriving DecidableEq, Repr

/-- A buffered window write (R375). -/
structure WinWrite where
  fn   : Nat
  tid  : Nat
  va   : Nat
  data : List Byte
  deriving DecidableEq, Repr

/-- An attestation request (R315) with the report as it stood when the request was taken. -/
structure Attest where
  cmd    : HostCmd
  report : List Byte
  deriving DecidableEq, Repr

/-- What the host is told of a halted replica pair (R365): the tenant, the commit ordinal, its own contribution and the
partner's. -/
structure Mismatch where
  tid     : Nat
  ordinal : Word
  own     : Word
  partner : Word
  deriving DecidableEq, Repr

/-- The host port (R373 to R382). -/
structure HostPort where
  queues    : TMap LQueue := []
  winBase   : TMap (BitVec 16) := []
  winTenant : BitVec 6 := 0#6
  winErr    : TMap (BitVec 32) := []
  /-- Tenant bound to each virtual function (R373). -/
  vf        : TMap Nat := []
  winBuf    : List WinWrite := []
  /-- Commands fetched and not yet acted on (R376). -/
  cmds      : List HostCmd := []
  /-- Commands of the boundary that runs, in the order they are acted on (R376). -/
  due       : List HostCmd := []
  /-- MSI-X vectors signalled, the latest first: function and vector (R379). -/
  msix      : List (Nat × Nat) := []
  events    : BitVec 4 := 0#4
  startStep : BitVec 8 := 0#8
  startCode : BitVec 8 := 0#8
  cupolaErrs : TMap (BitVec 32) := []
  hbmErrs   : TMap (BitVec 32) := []
  lostOvf   : BitVec 32 := 0#32
  /-- Data of the last window read; none for Unsupported Request (R375). -/
  readData  : Option (List Byte) := none
  attests   : List Attest := []
  /-- The package's prediction has fallen below 6 months (R367). -/
  wearLow   : Bool := false
  /-- Replica mismatches reported to the host, the latest first (R365). -/
  mismatches : List Mismatch := []
  /-- A WARM that completes when the warm start has run (R379), with its queue's owner and vector. -/
  warming   : Option (HostCmd × Nat × Nat) := none
  deriving DecidableEq, Repr

/-- One channel of a Parip port (R384); `met`: the far end has shown that its binding names this one. -/
structure Channel where
  ltid : Nat
  ftid : Nat
  repl : Bool
  fser : Word
  met  : Bool := false
  deriving DecidableEq, Repr

/-- A Parip port (R383 to R385): issues of far ends that have found no partner yet, and consecutive failed replays. -/
structure Port where
  up      : Bool := true
  fails   : Nat := 0
  chans   : TMap Channel := []
  waiting : List (Nat × Bool × BitVec 16 × Nat × List Byte) := []
  /-- What has left the port, the latest first. -/
  sent    : List (List Byte) := []
  deriving DecidableEq, Repr

/-- A die's ceilings, sensors and wear (R29, R30, R367, R390). DESIGN CHOICE, log entry 1. -/
structure Die where
  arbiter : Nat := 16
  theta   : Nat := 16
  temp    : Nat := 0
  hot     : Nat := 0
  wear    : Nat := 65535
  deriving DecidableEq, Repr

/-- Refresh state of a bank group (R157, R158). -/
structure BankGroup where
  postponed : TMap Nat := []
  busyBank  : Option Nat := none
  forced    : Bool := false
  deriving DecidableEq, Repr

/-- A saved context (R348, R349): its save area, the tenant's committed state, live launches and captures, the command that
asked for it, none for a request of the Keep (R345), and the image once it is complete. -/
structure Saved where
  tid       : Nat
  level     : Nat
  area      : Nat
  exchange  : Bool
  phase     : Word
  dev       : TenantDev
  launches  : TMap Launch
  captures  : List (Nat × Nat × Slot × TMap (BitVec 32)) := []
  complete  : Bool := false
  cmd       : Option HostCmd := none
  image     : List Byte := []
  deriving DecidableEq, Repr

/-- The times of a thread in a phase, in turns of its core: the thread's `birth`, when a register or CSR is ready, by its
key, and the first turn in which the thread may issue again (R105, R216). -/
structure SlotTurn where
  birth : Nat := 0
  ready : TMap Nat := []
  next  : Nat := 0
  deriving DecidableEq, Repr

/-- The rotation of a core in a phase: the number of the turn that comes next, when each unit and queue register is ready,
and the threads of its slots, by 16 times the level plus the slot (R105, R216, R222). -/
structure CoreTurn where
  turn  : Nat := 0
  ready : TMap Nat := []
  slots : TMap SlotTurn := []
  deriving DecidableEq, Repr

/-- Who moves next. -/
inductive Mover where
  /-- The next turn of a core (R216). -/
  | turn (core : Nat)
  /-- A slot whose wait is over, or that a debug hold stops (R180, R354). -/
  | wake (p : Party)
  /-- Free slots take what waits for them in throughput mode (R221). -/
  | assign (tid core : Nat)
  | event (e : Instr)
  /-- One unit of the matrix engine's operation of a tenant, or of its copy or transfer in the copy queue (R151, R187, R189). -/
  | matrixUnit (tid core : Nat)
  | copyUnit (tid core : Nat)
  /-- The oldest write in a core's loop-back port takes effect (R170). -/
  | portLanding (tid core : Nat)
  /-- The far end of a channel shows what its binding names (R384). -/
  | farBinding (port : Nat) (far : FarEnd)
  /-- The far end withdraws an issue that has found no partner: it has stopped (R197). -/
  | farStop (port index : Nat)
  /-- SMIGRATE_REPLY with result 3: the port of a migration is down (R385). -/
  | lostMigration (tid port : Nat)
  /-- PORT_DOWN of a port that has failed 64 consecutive replays (R383). -/
  | deadPort (port : Nat)
  /-- THERMAL_HOLD of a die (R390). -/
  | hotDie (die : Nat)
  /-- THERMAL_TRIP of a die: it comes at once (R390). -/
  | trip (die : Nat)
  /-- The Keep asks that a tenant be pre-empted (R345): save area and level. -/
  | keepPreempt (tid area level : Nat)
  /-- A replica that would otherwise have arrived sends its flit (R364). -/
  | sendFlit (tid : Nat)
  deriving DecidableEq, Repr

/-- The device. -/
structure State where
  /-- The model's own: parties that the outside lets move next, in order; where it is empty the arbiter picks. -/
  agenda   : List Mover := []
  /-- The model's own: the slot whose turn it is. -/
  actor    : Party := {}
  /-- The rotation of each core (R216); empty at the start of a phase. -/
  rot      : TMap CoreTurn := []
  /-- A boundary has committed and acts on the host's commands; the next phase has not opened (R376). -/
  opening  : Bool := false
  /-- The model's own counters for the free values of Config. -/
  tick     : Nat := 0
  draw     : Nat := 0
  cycle    : Word := 0#64
  phase    : Word := 0#64
  cur      : TMap TenantDev := []
  com      : TMap TenantDev := []
  tenants  : TMap Tenant := []
  launches : TMap Launch := []
  /-- Launches presented by the host at the boundary that runs, each with the tenant that it acts for as its turn came, none
  where there was none (R376). -/
  presented : List (HostCmd × Option Nat) := []
  hbm      : Memory := []
  /-- The key material under which each 64-byte line of HBM was last written (R306), by line number. -/
  hbmKey   : TMap (BitVec 512) := []
  /-- The page-count array (R302), by physical frame. -/
  pageCnt  : TMap Nat := []
  lostFrames : List (Nat × Nat) := []
  lostPages  : List Nat := []
  /-- Frames and pages that were lost since the last cold start: no new mapping makes them free again (R361). -/
  retiredFrames : List (Nat × Nat) := []
  retiredPages  : List Nat := []
  /-- The Keep's lost-frame list (R387). -/
  lostList : List Nat := []
  keys     : TMap KeySlot := []
  hostMem  : Memory := []
  host     : HostPort := {}
  ports    : TMap Port := []
  dies     : TMap Die := []
  banks    : TMap BankGroup := []
  fwChain  : BitVec 256 := 0#256
  sysChain : BitVec 256 := 0#256
  /-- The tenants that have been pre-empted and not restored. -/
  saves    : TMap Saved := []
  /-- What the device's complete context images stand for, the latest first (R350). -/
  images   : List Saved := []
  /-- Core power is on (R390), and start-up has completed (R388). -/
  powered  : Bool := true
  started  : Bool := true
  deriving DecidableEq, Repr

/-- Why the machine stops. -/
inductive Fault where
  /-- Raised by every instruction with an encoding when the actor's slot holds no thread that may issue. The step
  never lets such a slot move. Safe: nothing is claimed of such a state. -/
  | noThread
  deriving DecidableEq, Repr

/-- Why an instruction has no outcome. -/
inductive Refusal where
  /-- Raised by the dispatcher for an instruction without a meaning. Safe. -/
  | notModelled (mnemonic : String)
  deriving DecidableEq, Repr

/-- The device when cold start has completed (R18, R386): CYCLE and PHASE 0, a compute phase, vaults zero, no tenant,
launch, binding or queue; of the key slots only slot 0 holds material, which start-up drew (R305, R386).
DESIGN CHOICE, log entry 1. -/
def State.reset : State :=
  { keys := [(0, { material := Config.keyMaterial 0 })], draw := 1, host := { startStep := 6#8 } }

end Sys2Proof.Machine
end

