-- ==== Sys2Proof/Machine/Ops.lean ====
section
/-! DEFINITION. The named operations over the state: whose turn it is, registers, HBM and its page tables, fault
records, the end of a thread, taking a trap and the return from one (spec/02_state.md R33 to R44, R50, R51;
spec/15_isolation.md R300 to R306; spec/16_system_isa.md R319 to R321; spec/18_recovery.md R342 to R344). -/

namespace Sys2Proof.Machine

/-- What one instruction answers. -/
abbrev Out := Host.Outcome State Fault Refusal

/-- Number of cores of the device (R11). -/
def coreCount : Nat := 3072

/-! ### Places in the state -/

/-- Tenant `t` as its own cores see it in this phase. -/
def State.dev (s : State) (t : Nat) : TenantDev := s.cur.get t {}
/-- Tenant `t` as of its last commit. -/
def State.old (s : State) (t : Nat) : TenantDev := s.com.get t {}
def State.setDev (s : State) (t : Nat) (d : TenantDev) : State := { s with cur := s.cur.set t d }
def State.modDev (s : State) (t : Nat) (f : TenantDev → TenantDev) : State := s.setDev t (f (s.dev t))

/-- A tenant's state as it stands and as committed, both changed. -/
def modBoth (t : Nat) (f : TenantDev → TenantDev) (s : State) : State :=
  { s with cur := s.cur.upd t {} f, com := s.com.upd t {} f }


def TenantDev.core (d : TenantDev) (c : Nat) : TCore := d.cores.get c {}
def TenantDev.setCore (d : TenantDev) (c : Nat) (k : TCore) : TenantDev := { d with cores := d.cores.set c k }
def TenantDev.modCore (d : TenantDev) (c : Nat) (f : TCore → TCore) : TenantDev := d.setCore c (f (d.core c))

def TCore.slot (k : TCore) (n : Nat) : Slot := k.slots.get n {}
def TCore.setSlot (k : TCore) (n : Nat) (x : Slot) : TCore := { k with slots := k.slots.set n x }

def State.coreOf (s : State) (t c : Nat) : TCore := (s.dev t).core c
def State.setCoreOf (s : State) (t c : Nat) (k : TCore) : State := s.setDev t ((s.dev t).setCore c k)
def State.modCoreOf (s : State) (t c : Nat) (f : TCore → TCore) : State := s.setCoreOf t c (f (s.coreOf t c))

def State.slotOf (s : State) (p : Party) : Slot := (s.coreOf p.tid p.core).slot p.slot
def State.setSlotOf (s : State) (p : Party) (x : Slot) : State :=
  s.setCoreOf p.tid p.core ((s.coreOf p.tid p.core).setSlot p.slot x)
def State.modSlotOf (s : State) (p : Party) (f : Slot → Slot) : State := s.setSlotOf p (f (s.slotOf p))

/-- The thread that runs in a slot: the handler of the highest level, else the level-0 thread (R222). -/
def Slot.top (x : Slot) : Thread :=
  match x.handlers with
  | [] => x.thread
  | h :: _ => h

/-- The slot with the thread that runs in it replaced. -/
def Slot.setTop (x : Slot) (th : Thread) : Slot :=
  match x.handlers with
  | [] => { x with thread := th }
  | _ :: t => { x with handlers := th :: t }

/-- The core of the actor, its slot, and the thread that runs there. -/
def State.here (s : State) : TCore := s.coreOf s.actor.tid s.actor.core
def State.slotHere (s : State) : Slot := s.slotOf s.actor
def State.thr (s : State) : Thread := s.slotHere.top

def State.modHere (s : State) (f : TCore → TCore) : State := s.modCoreOf s.actor.tid s.actor.core f
def State.modSlot (s : State) (f : Slot → Slot) : State := s.modSlotOf s.actor f
def State.modThr (s : State) (f : Thread → Thread) : State := s.modSlot (fun x => x.setTop (f x.top))

def State.tenant (s : State) (t : Nat) : Tenant := s.tenants.get t {}
def State.modTenant (s : State) (t : Nat) (f : Tenant → Tenant) : State :=
  { s with tenants := s.tenants.set t (f (s.tenant t)) }
def State.launchOf (s : State) (n : Nat) : Launch := s.launches.get n { tid := 0 }
def State.modLaunch (s : State) (n : Nat) (f : Launch → Launch) : State :=
  match s.launches.find n with
  | none => s
  | some l => { s with launches := s.launches.set n (f l) }

/-- The launch of the thread whose turn it is. -/
def State.myLaunch (s : State) : Launch := s.launchOf s.thr.launch

/-- A flit has arrived at a port: the replays that failed before it count no more (R383). -/
def State.flitGood (s : State) (port : Nat) : State :=
  { s with ports := s.ports.map (fun p => if p.1 = port then (p.1, { p.2 with fails := 0 }) else p) }

/-- Odd phases are exchange phases (R18). -/
def State.exchange (s : State) : Bool := s.phase.getLsbD 0

/-- The free-value counter, advanced. DESIGN CHOICE, log entry 5. -/
def State.drawn (s : State) : State := { s with draw := s.draw + 1 }

/-- The element of a list that the device takes where the manual leaves the choice (R392). DESIGN CHOICE, log entry 5. -/
def pickFrom (s : State) (xs : List Nat) : Option Nat :=
  match xs with
  | [] => none
  | [x] => some x
  | x :: y :: t => some ((x :: y :: t).getD (Config.pick s.draw % (x :: y :: t).length) x)

/-! ### Registers -/

/-- A scalar register of a thread: g0 reads as zero (R33, R35). -/
def Thread.reg (th : Thread) (r : BitVec 5) : Word := if r = 0#5 then 0#64 else th.g.get r.toNat 0#64
/-- A write to g0 is discarded (R35). -/
def Thread.setReg (th : Thread) (r : BitVec 5) (v : Word) : Thread :=
  if r = 0#5 then th else { th with g := th.g.set r.toNat v }

/-- Scalar register `r` of the thread whose turn it is. -/
def State.reg (s : State) (r : BitVec 5) : Word := s.thr.reg r
def State.setReg (s : State) (r : BitVec 5) (v : Word) : State := s.modThr (fun th => th.setReg r v)

/-- Vector register `r` (R33). -/
def State.vreg (s : State) (r : Nat) : VReg := s.slotHere.v.get r 0#1024
def State.setVreg (s : State) (r : Nat) (x : VReg) : State := s.modSlot (fun sl => { sl with v := sl.v.set r x })

/-- Mask register `r`: vm0 reads as all ones (R33, R35). -/
def State.vmask (s : State) (r : BitVec 3) : VMask :=
  if r = 0#3 then BitVec.allOnes 128 else s.slotHere.vm.get r.toNat 0#128
/-- vm0 is never written; an instruction that names it as destination has trapped before (R35). -/
def State.setVmask (s : State) (r : BitVec 3) (x : VMask) : State :=
  if r = 0#3 then s else s.modSlot (fun sl => { sl with vm := sl.vm.set r.toNat x })
/-- The active mask (R36). -/
def State.amask (s : State) : VMask := s.vmask s.slotHere.amask

/-- Shadow register sh0 to sh7: a thread of level 1 to 3 has its own (R37, R243). -/
def State.shadow (s : State) (n : Nat) : Word := (if s.thr.level = 0 then s.slotHere.sh else s.thr.sh).get n 0#64

/-- TRAPVEC: a thread of level 1 to 3 has its own (R243, R319). -/
def State.trapvec (s : State) : Word := if s.thr.level = 0 then s.slotHere.trapvec else s.thr.trapvec
def State.setTrapvec (s : State) (v : Word) : State :=
  if s.thr.level = 0 then s.modSlot (fun x => { x with trapvec := v }) else s.modThr (fun th => { th with trapvec := v })

/-- A semaphore of the actor's core (R40). -/
def State.sem (s : State) (n : Nat) : BitVec 32 := s.here.sems.get n 0#32
def State.setSem (s : State) (n : Nat) (v : BitVec 32) : State :=
  s.modHere (fun k => { k with sems := k.sems.set n v })

/-- The engine adds 1 to a semaphore, saturating (R179). -/
def bumpSem (s : State) (t c n : Nat) : State :=
  s.modCoreOf t c (fun k =>
    let v := k.sems.get n 0#32
    { k with sems := k.sems.set n (if v = BitVec.allOnes 32 then v else v + 1#32) })

/-- A join semaphore falls by one, never below zero (R238, R245). -/
def lowerSem (s : State) (t c n : Nat) : State :=
  s.modCoreOf t c (fun k =>
    let v := k.sems.get n 0#32
    { k with sems := k.sems.set n (if v = 0#32 then v else v - 1#32) })

/-! ### HBM: lines under keys, page tables (R51, R301, R306) -/

/-- First frame of the device's reserved region, 768 MiB; where it lies is this model's choice (R302).
DESIGN CHOICE, log entry 75. -/
def reservedBase : Nat := 402456576

/-- A physical frame that no tenant may use: in the reserved region or beyond the device's 1,536 GiB (R10, R302).
DESIGN CHOICE, log entry 75. -/
def reservedPfn (p : Nat) : Bool := decide (reservedBase ≤ p)

/-- A range of physical frames holds one that was lost since the last cold start: no such frame is handed out (R361, R387).
DEDUCED, log entry 98. -/
def State.retired (s : State) (p n : Nat) : Bool :=
  s.retiredPages.any (fun q => decide (p ≤ q ∧ q < p + n)) || s.lostList.any (fun q => decide (p ≤ q ∧ q < p + n))

/-- The material of a key slot (R305). -/
def State.material (s : State) (k : Nat) : BitVec 512 := (s.keys.get k {}).material

/-- One byte of HBM at physical address `pa`, decrypted under `mat`: State holds what each line decrypts to under the
material that wrote it, so another key reads that line's cipher text through its own (R306). DEDUCED, log entry 3. -/
def State.hbmByte (s : State) (mat : BitVec 512) (pa : Nat) : Byte :=
  match s.hbmKey.find (pa / 64) with
  | none => s.hbm.read pa
  | some m =>
    if m = mat then s.hbm.read pa
    else (xtsDecrypt mat (pa / 64) (xtsEncrypt m (pa / 64) (s.hbm.readBytes (pa / 64 * 64) 64))).getD (pa % 64) 0#8

def State.hbmBytes (s : State) (mat : BitVec 512) (pa : Nat) : Nat → List Byte
  | 0 => []
  | n + 1 => s.hbmByte mat pa :: State.hbmBytes s mat (pa + 1) n

/-- The line of `pa` held under `mat`: a line of another key is what it decrypts to. DEDUCED, log entry 3. -/
def State.rekeyLine (s : State) (mat : BitVec 512) (pa : Nat) : State :=
  match s.hbmKey.find (pa / 64) with
  | none => { s with hbmKey := s.hbmKey.set (pa / 64) mat }
  | some m =>
    if m = mat then s
    else { s with hbm := s.hbm.writeBytes (pa / 64 * 64) (s.hbmBytes mat (pa / 64 * 64) 64),
                  hbmKey := s.hbmKey.set (pa / 64) mat }

/-- One byte of HBM written under `mat`. -/
def State.hbmPut (s : State) (mat : BitVec 512) (pa : Nat) (b : Byte) : State :=
  let s := s.rekeyLine mat pa
  { s with hbm := s.hbm.write pa b }

def State.hbmPuts (s : State) (mat : BitVec 512) (pa : Nat) : List Byte → State
  | [] => s
  | b :: t => State.hbmPuts (s.hbmPut mat pa b) mat (pa + 1) t

/-- A leaf of a page table (Table 2.10): `size` is 0 for 4 KiB, 1 for 64 KiB, 2 for 2 MiB; `loc` is the physical
address of its entry (for 64 KiB, of the first of the sixteen). -/
structure Leaf where
  pfn    : Nat
  size   : Nat
  w      : Bool
  cow    : Bool
  st     : Bool
  key    : Nat
  holder : Nat
  capv   : Bool
  refcnt : Nat
  loc    : Nat
  deriving DecidableEq, Repr

/-- What a walk finds: a leaf, nothing (TRANSLATION), or a revoked page (MEM_LOST, R361). -/
inductive Walk where
  | ok (l : Leaf)
  | bad
  | lost
  deriving DecidableEq, Repr

/-- Bytes of a page. -/
def pageBytes (size : Nat) : Nat := if size = 0 then 4096 else if size = 1 then 65536 else 2097152

/-- Bits `[lo + n - 1 : lo]` of a number. -/
def bitsOf (v lo n : Nat) : Nat := v / 2 ^ lo % 2 ^ n
/-- Bit `i` of a number. -/
def bitOf (v i : Nat) : Bool := v / 2 ^ i % 2 == 1

/-- The leaf that an entry word describes (Table 2.10). -/
def leafOf (e size loc : Nat) : Leaf :=
  { pfn := bitsOf e 12 29, size := size, w := bitOf e 1, cow := bitOf e 4, st := bitOf e 5, key := bitsOf e 48 13,
    holder := bitsOf e 64 12, capv := bitOf e 76, refcnt := bitsOf e 80 16, loc := loc }

/-- A page-table entry read through the tenant's table key slot (R301): where the tenant does not own the slot no entry
is valid, since no access decrypts under another tenant's key (R306). DEDUCED, log entry 3. -/
def State.tableEntry (s : State) (t table idx : Nat) : Nat :=
  if (s.keys.get (s.tenant t).tableKey {}).owner != some t then 0
  else leNat (s.hbmBytes (s.material (s.tenant t).tableKey) (table * 4096 + idx * 16) 16)

/-- Whether a leaf may be used by the tenant (R301), and whether its page is revoked (R361). DESIGN CHOICE, log entry 75. -/
def State.checkLeaf (s : State) (t : Nat) (l : Leaf) : Walk :=
  if reservedPfn l.pfn then .bad
  else if (s.keys.get l.key {}).owner != some t then .bad
  else if s.lostPages.any (fun p => decide (l.pfn ≤ p ∧ p < l.pfn + pageBytes l.size / 4096)) then .lost
  else .ok l

/-- A leaf entry with its reserved bits zero (Table 2.10, R7). -/
def leafFields (e : Nat) : Nat := e &&& (0x1FFF01FFFFFFF03F + 0x0000003FFFFF1FFF * 2 ^ 64)

/-- A table, of 8 KiB (R51), has an error in one of its frames (R361). -/
def State.tableLost (s : State) (table : Nat) : Bool := s.lostPages.contains table || s.lostPages.contains (table + 1)

/-- The walk of one table with `k` levels below it, down from 3 (R51, R301). -/
def State.walkAt (s : State) (t va : Nat) : Nat → Nat → Walk
  | 0, table =>
    let idx := va / 4096 % 512
    let e := s.tableEntry t table idx
    if reservedPfn table then .bad
    else if s.tableLost table then .lost
    else if !bitOf e 0 || bitsOf e 96 6 != t || !bitOf e 2 then .bad
    else if bitOf e 3 then
      let base := idx / 16 * 16
      if (List.range 16).all (fun j => leafFields (s.tableEntry t table (base + j)) == leafFields e) then
        s.checkLeaf t (leafOf e 1 (table * 4096 + base * 16))
      else .bad
    else s.checkLeaf t (leafOf e 0 (table * 4096 + idx * 16))
  | k + 1, table =>
    let idx := va / 2 ^ (12 + 9 * (k + 1)) % 512
    let e := s.tableEntry t table idx
    if reservedPfn table then .bad
    else if s.tableLost table then .lost
    else if !bitOf e 0 || bitsOf e 96 6 != t then .bad
    else if bitOf e 2 then
      (if k = 0 then s.checkLeaf t (leafOf e 2 (table * 4096 + idx * 16)) else .bad)
    else State.walkAt s t va k (bitsOf e 12 29)

/-- First address above the tenant's HBM space (R50). -/
def hbmLimit : Nat := 0xFE0000000000

/-- The committed translation of an HBM address of tenant `t` (R51, R156). -/
def State.walk (s : State) (t va : Nat) : Walk :=
  if hbmLimit ≤ va then .bad
  else match (s.tenant t).root with
    | none => .bad
    | some root => s.walkAt t va 3 root

/-- Physical address of `va` in the page of a leaf. -/
def Leaf.phys (l : Leaf) (va : Nat) : Nat := l.pfn * 4096 + va % pageBytes l.size

/-- The bytes at `va` of tenant `t` as committed, none where a page does not translate. -/
def State.hbmRead (s : State) (t va : Nat) : Nat → Option (List Byte)
  | 0 => some []
  | n + 1 =>
    match s.walk t va with
    | .ok l => (State.hbmRead s t (va + 1) n).map (fun bs => s.hbmByte (s.material l.key) (l.phys va) :: bs)
    | _ => none

/-- Whether `n` bytes from `va` on are mapped writable and not revoked (R344). -/
def State.hbmWritable (s : State) (t va n : Nat) : Bool :=
  (List.range ((va + n + 4095) / 4096 - va / 4096)).all (fun i =>
    match s.walk t ((va / 4096 + i) * 4096) with
    | .ok l => l.w
    | _ => false)

/-- Bytes written in place at `va` of tenant `t` under each leaf's key, outside any phase (R344, R375).
DESIGN CHOICE, log entry 166. -/
def State.hbmWrite (s : State) (t va : Nat) : List Byte → State
  | [] => s
  | b :: bs =>
    match s.walk t va with
    | .ok l => State.hbmWrite (s.hbmPut (s.material l.key) (l.phys va) b) t (va + 1) bs
    | _ => State.hbmWrite s t (va + 1) bs

/-! ### Fault records (R342 to R344) -/

/-- A trap cause's code (Table 16.3). -/
def Cause.code : Cause → Nat
  | .illegalInstruction => 0x01 | .illegalRegister => 0x02 | .phaseIllegal => 0x03 | .typeCombo => 0x04
  | .misaligned => 0x05 | .localUnmapped => 0x06 | .writeProtect => 0x07 | .capability => 0x08 | .quota => 0x09
  | .allowance => 0x0A | .residency => 0x0B | .translation => 0x0C | .waitExpired => 0x0D
  | .randomExhausted => 0x0E | .depcountUnderflow => 0x0F | .straggler => 0x10 | .exchTimeout => 0x11
  | .feature => 0x12 | .refcountSaturated => 0x13 | .memLost => 0x14 | .debugStop => 0x15 | .spillFull => 0x16
  | .spawnLimit => 0x17 | .software => 0x18 | .privilege => 0x19 | .deferredUpdate => 0x1A
  | .replicaMismatch => 0x1B

/-- One event for a fault record (Table 18.1). -/
structure FaultEvent where
  cause : Cause
  under : Nat := 0
  core  : Nat := 0
  slot  : Nat := 0
  deferred : Bool := false
  ended : Bool := false
  value : Word := 0#64
  pc    : LAddr := 0#20
  aux   : Word := 0#64
  deriving DecidableEq, Repr

/-- The 32 bytes of an entry (Table 18.1). -/
def FaultEvent.bytes (e : FaultEvent) (launch tid : Nat) (phase : Word) : List Byte :=
  natLe 4 (e.cause.code + e.under % 256 * 2 ^ 8 + e.core % 4096 * 2 ^ 16 + e.slot % 16 * 2 ^ 28) ++
  natLe 4 (launch % 4096 + tid % 64 * 2 ^ 12 + e.deferred.toNat * 2 ^ 18 + e.ended.toNat * 2 ^ 19) ++
  natLe 8 phase.toNat ++ natLe 8 e.value.toNat ++ natLe 8 (e.pc.toNat + e.aux.toNat % 2 ^ 32 * 2 ^ 32)

/-- The header of a fault record as the device's own counts have it (R342). -/
def putHeader (s : State) (n : Nat) : State :=
  let l := s.launchOf n
  if s.hbmWritable l.tid l.frec.toNat 64 then
    s.hbmWrite l.tid l.frec.toNat (natLe 4 l.written.toNat ++ natLe 4 l.dropped.toNat ++ List.replicate 56 0#8)
  else s

/-- One event entered in the fault record of launch `n`: an entry while there is room and its page takes it, else one
more dropped (R342, R344). No phase and no void touches it (R343). -/
def record (n : Nat) (e : FaultEvent) (s : State) : State :=
  match s.launches.find n with
  | none => s
  | some l =>
    let va := l.frec.toNat + 64 + 32 * l.written.toNat
    let s :=
      if l.written.toNat < l.entries && s.hbmWritable l.tid va 32 then
        (s.hbmWrite l.tid va (e.bytes n l.tid s.phase)).modLaunch n
          (fun l => { l with written := l.written + 1#32, failed := true })
      else s.modLaunch n (fun l => { l with dropped := l.dropped + 1#32, failed := true })
    putHeader s n

/-- The live launches of a tenant, in order of number. -/
def State.liveLaunches (s : State) (t : Nat) : List Nat :=
  (s.launches.filter (fun p => p.2.live && p.2.tid == t)).map (·.1)

/-- One event in the record of every live launch of a tenant. -/
def recordAll (t : Nat) (e : FaultEvent) (s : State) : State :=
  (s.liveLaunches t).foldl (fun s n => record n e s) s

/-! ### Progress of a thread -/

/-- The address of the word after the prefix, where a prefix has issued (R63, R109). -/
def Thread.wordAddr (th : Thread) : LAddr := if th.pfx.isSome then th.pc + 4#20 else th.pc

/-- The thread at the next instruction: inside a frame at its next execution, whatever the word was (R70), else after the word.
DESIGN CHOICE, log entry 135. -/
def Thread.advance (th : Thread) : Thread :=
  match th.frame with
  | none => { th with pc := th.wordAddr + 4#20, pfx := none, status := .ready, resume := false }
  | some f =>
    if f.i + 1 < f.len then
      { th with pc := th.pc + 4#20, frame := some { f with i := f.i + 1 }, status := .ready, resume := false }
    else if f.k + 1 < f.cnt then
      { th with pc := f.base, frame := some { f with k := f.k + 1, i := 0 }, status := .ready, resume := false }
    else
      { th with pc := f.base + BitVec.ofNat 20 (4 * f.len), frame := none, status := .ready, resume := false }

/-- The instruction has had its effect: the thread stands at the next one. -/
def retire (s : State) : State := s.modThr Thread.advance

/-- The thread goes on at `a`; REP lets no branch into a frame (R69), and one that stands in a frame all the same keeps the
frame. DESIGN CHOICE, log entry 135. -/
def jump (a : LAddr) (s : State) : State :=
  s.modThr (fun th => { th with pc := a, pfx := none, status := .ready, resume := false })

/-- The thread stays at its instruction with the status given. DEDUCED, log entry 57. -/
def wait (st : Status) (s : State) : State := s.modThr (fun th => { th with status := st })

/-- The instruction has had its effect and the thread is out of the rotation with the status given. -/
def retireInto (st : Status) (s : State) : State := (retire s).modThr (fun th => { th with status := st })

/-! ### The end of a thread -/

/-- What a slot keeps of a thread that has ended: its registers, until another thread starts or the slot leaves the tenant
(R243, R299, R371). -/
def Thread.ended (th : Thread) : Thread := { g := th.g, pc := th.pc, stream := th.stream }

/-- A slot whose running thread has gone: the thread it pre-empted runs again, the handler's bank keeping its registers, or the
slot is free (R222, R238). DEDUCED, log entry 26. -/
def Slot.free (x : Slot) : Slot :=
  match x.handlers with
  | [] => { x with thread := x.thread.ended, h := false }
  | h :: t => { x with handlers := t, banks := x.banks.set h.level h.ended }

/-- The packet of a work-packet thread is ended: its entry frees at the commit (R226). -/
def endPacket (s : State) (th : Thread) : State :=
  if th.level = 0 && th.origin = 1 then
    match s.here.packets.find th.packet with
    | none => s
    | some p => s.modHere (fun k => { k with packets := k.packets.set th.packet { p with ended := true } })
  else s

/-- Every thread of a slot changed. -/
def Slot.modThreads (x : Slot) (f : Thread → Thread) : Slot := { x with thread := f x.thread, handlers := x.handlers.map f }

/-- A held thread goes on, or back to its IDLE (R215). -/
def Thread.unhold (th : Thread) : Thread :=
  match th.status with
  | .held n => { th with status := if n = 0 then .ready else .idle n }
  | _ => th

/-- Slots of a core that took a trap on leaving SITOUT release the held ones when the last of them has executed ERET,
QUIT, SYNC or XEND (R215). -/
def releaseHeld (s : State) : State :=
  let a := s.actor
  let tn := s.tenant a.tid
  if tn.trapped.contains (a.core, a.slot) then
    let left := tn.trapped.filter (fun p => p != (a.core, a.slot))
    let s := s.modTenant a.tid (fun t => { t with trapped := left })
    if left.any (fun p => p.1 == a.core) then s
    else s.modHere (fun k => { k with slots := k.slots.map (fun p => (p.1, p.2.modThreads Thread.unhold)) })
  else s

/-- The running thread ends and its slot is free; its join semaphore falls (R238, R245, R320). A thread that took a trap on
leaving SITOUT releases the held slots however it ends: by a trap or by MIGRATE too (R215). DEDUCED, log entry 140. -/
def freeThread (s : State) : State :=
  let th := s.thr
  let s := endPacket s th
  let s := (match th.join with
    | none => s
    | some n => lowerSem s s.actor.tid s.actor.core n)
  releaseHeld (s.modSlot Slot.free)

/-! ### Traps (R319 to R322) -/

/-- The bits that a trap inside a frame adds to TRAPAUX (R71). -/
def frameAux (th : Thread) : Word :=
  match th.frame with
  | none => 0#64
  | some f => BitVec.ofNat 64 (f.k % 256 * 2 ^ 48 + f.i % 16 * 2 ^ 56 + 2 ^ 60)

/-- TRAPPC of a trap (R63, R71, R322). -/
def Trap.pcOf (t : Trap) (th : Thread) : LAddr :=
  match t.pc with
  | none => th.pc
  | some p => p

/-- The thread is ended by a trap it cannot take, and its launch's fault record says so (R222, R320). -/
def endByTrap (t : Trap) (s : State) : State :=
  let th := s.thr
  let e : FaultEvent :=
    { cause := t.cause, core := s.actor.core, slot := s.actor.slot, ended := true, value := t.val, pc := t.pcOf th,
      aux := t.aux ||| frameAux th }
  freeThread (record th.launch e s)

/-- Taking a trap: the one entry for every cause (R319, R320, R222). A wait, a prefix, a frame and a resume mark of the
thread end with it. DEDUCED, log entry 55. -/
def takeTrap (t : Trap) (s : State) : State :=
  let th := s.thr
  let x := s.slotHere
  if th.level ≠ 0 || x.h || x.trapvec.extractLsb' 0 20 = 0#20 then endByTrap t s
  else
    s.modSlot (fun x =>
      { x with
        cause := BitVec.ofNat 64 (t.cause.code + t.res.toNat * 256)
        trappc := (t.pcOf th).setWidth 64
        trapval := t.val
        trapaux := t.aux ||| frameAux th
        h := true
        thread := { th with pc := x.trapvec.extractLsb' 0 20, status := .ready, pfx := none, frame := none,
                            resume := false } })

/-- The answer of an instruction that traps. -/
def trapOut (t : Trap) (s : State) : Out := .next (takeTrap t s)

/-- The return from a trap, once its checks have passed (R321): H falls, PC is TRAPPC, the resume mark is set where
TRAPCAUSE.RES and RPROG.ACT are (R46), and a frame goes on where TRAPAUX [60] is (R71). DEDUCED, log entry 50. -/
def trapReturn (frame : Option RepFrame) (s : State) : State :=
  let s := s.modSlot (fun x =>
    { x with
      h := false
      thread := { x.thread with
        pc := x.trappc.extractLsb' 0 20, pfx := none, status := .ready, frame := frame,
        resume := x.cause.getLsbD 8 && x.rprog.getLsbD 31 } })
  releaseHeld s

/-! ### A tenant's phase -/

/-- The tenant's phase is to be voided at its end (R164, R213). -/
def voidTenant (t : Nat) (s : State) : State :=
  s.modTenant t (fun tn => { tn with phase := match tn.phase with
    | .run => .voiding false
    | p => p })

/-- A deferred fault: an entry in the launch's record, the void, and the trap at the next phase of the same kind
(R164, R198, R215, R361). Only the first cause of a slot in the order of R215 is taken. DEDUCED, log entry 58. -/
def deferFault (t launch : Nat) (e : FaultEvent) (rank : Nat) (s : State) : State :=
  let s := voidTenant t (record launch { e with deferred := true, aux := e.aux ||| 4#64 } s)
  s.modTenant t (fun tn => { tn with traps := tn.traps ++
    [{ core := e.core, slot := e.slot, cause := e.cause, val := e.value, aux := e.aux ||| 4#64, rank := rank }] })

/-- An access of the running thread reached a revoked frame: its slot stops as a straggler's does, the phase is voided,
and MEM_LOST follows (R361). -/
def lostStop (addr : Word) (s : State) : State :=
  let a := s.actor
  let s' := deferFault a.tid s.thr.launch { cause := .memLost, core := a.core, slot := a.slot, value := addr } 1 s
  s'.modThr (fun th => { th with status := .arrived })

end Sys2Proof.Machine
end

