-- ==== Sys2Proof/Machine/Flags.lean ====
section
/-! DEFINITION. FLAGS (spec/02_state.md R44; spec/04_numbers.md R99). Bits: NV 0, DZ 1, OF 2, UF 3, NX 4, CL 5. -/

namespace Sys2Proof.Machine

/-- A set of flags. -/
abbrev FlagSet := BitVec 6

def flagNV : FlagSet := 1#6
def flagDZ : FlagSet := 2#6
def flagOF : FlagSet := 4#6
def flagUF : FlagSet := 8#6
def flagNX : FlagSet := 16#6
def flagCL : FlagSet := 32#6

/-- Flags are sticky: an instruction ORs what its results raise into the slot's FLAGS (R99). -/
def raiseFlags (f : FlagSet) (s : State) : State :=
  if f = 0#6 then s else s.modSlot (fun x => { x with flags := x.flags ||| f.setWidth 64 })

/-- Flags that an engine raises for slot `p` when its operation completes (R99). -/
def raiseFlagsOf (p : Party) (f : FlagSet) (s : State) : State :=
  if f = 0#6 then s else s.modSlotOf p (fun x => { x with flags := x.flags ||| f.setWidth 64 })

end Sys2Proof.Machine
end

