-- ==== Sys2Proof/Machine/Local.lean ====
section
/-! DEFINITION. Local addresses: translation through the frame map and the stream window, the views of a vault frame,
loads and stores with copy-on-write and shadows, and the lines of the digest (spec/02_state.md R47 to R49;
spec/05_scalar_vector.md R110, R111; spec/07_ordering.md R156, R161; spec/15_isolation.md R311, R313). -/

namespace Sys2Proof.Machine

/-! ### Frame-map entries (Table 2.9) -/

def fmPage (e : Word) : Nat := (e.extractLsb' 0 7).toNat
def fmPv (e : Word) : Bool := e.getLsbD 7
def fmV (e : Word) : Bool := e.getLsbD 8
def fmW (e : Word) : Bool := e.getLsbD 9
def fmCow (e : Word) : Bool := e.getLsbD 10
def fmRsv (e : Word) : Bool := e.getLsbD 11
def fmTenant (e : Word) : Nat := (e.extractLsb' 12 6).toNat
def fmHolder (e : Word) : Nat := (e.extractLsb' 18 12).toNat
def fmCapv (e : Word) : Bool := e.getLsbD 30
def fmRef (e : Word) : Nat := (e.extractLsb' 32 16).toNat

/-- A frame-map entry from its fields (Table 2.9). -/
def mkFm (page : Nat) (pv v w cow rsv : Bool) (tid holder : Nat) (capv : Bool) (ref : Nat) : Word :=
  BitVec.ofNat 64 (page % 128 + pv.toNat * 2 ^ 7 + v.toNat * 2 ^ 8 + w.toNat * 2 ^ 9 + cow.toNat * 2 ^ 10 +
    rsv.toNat * 2 ^ 11 + tid % 64 * 2 ^ 12 + holder % 4096 * 2 ^ 18 + capv.toNat * 2 ^ 30 + ref % 65536 * 2 ^ 32)

/-- The entry with another count. -/
def fmSetRef (e : Word) (n : Nat) : Word :=
  mkFm (fmPage e) (fmPv e) (fmV e) (fmW e) (fmCow e) (fmRsv e) (fmTenant e) (fmHolder e) (fmCapv e) n
/-- The entry with another holder, or with CAPV = 0. -/
def fmSetCap (e : Word) (h : Option Nat) : Word :=
  mkFm (fmPage e) (fmPv e) (fmV e) (fmW e) (fmCow e) (fmRsv e) (fmTenant e) (h.getD (fmHolder e)) h.isSome (fmRef e)
/-- A reserve frame of a tenant. -/
def fmReserve (tid : Nat) : Word := mkFm 0 false true false false true tid 0 false 0

/-- The entry of a frame. -/
def TCore.frame (k : TCore) (f : Nat) : Word := k.fm.get f 0#64
/-- An entry written: a frame that enters the reserve is none of the table frames (R260). -/
def TCore.setFrame (k : TCore) (f : Nat) (e : Word) : TCore :=
  { k with fm := k.fm.set f e, tframes := if fmRsv e then k.tframes.filter (fun x => x != f) else k.tframes }

/-- The core holds the writer capability of the frame (R156, R174). -/
def holds (k : TCore) (c f : Nat) : Bool := fmCapv (k.frame f) && fmHolder (k.frame f) == c

/-- The frames of the reserve that nothing has taken (R45, R162, R219). -/
def TCore.freeReserve (k : TCore) : List Nat :=
  (k.fm.filter (fun p => fmV p.2 && fmRsv p.2 && !k.spillFrames.contains p.1 &&
    !k.shadows.any (fun x => x.2 == p.1))).map (·.1)

/-- The frames of a tenant's reserve on a core that the device may take: no lost one is handed out (R361, R392). -/
def reserveOf (s : State) (t c : Nat) : List Nat :=
  (s.coreOf t c).freeReserve.filter (fun f => !s.retiredFrames.contains (c, f))

/-! ### Translation (R47 to R49) -/

/-- Where a local address leads on its core. -/
inductive Place where
  | vault (frame off : Nat)
  | control (off : Nat)
  deriving DecidableEq, Repr

/-- The frame of private page `p` (R48). DEDUCED, log entry 105. -/
def privFrame (k : TCore) (p : Nat) : Option Nat :=
  (k.fm.find? (fun e => fmV e.2 && fmPv e.2 && fmPage e.2 == p)).map (·.1)

/-- A control byte address of a tenant on core `c`. -/
def ctlAddr (c off : Nat) : Nat := c * 16384 + off
/-- A vault byte address of core `c`. -/
def vaultAddr (c f off : Nat) : Nat := c * 1048576 + f * 4096 + off

/-- The index of an element of a list. -/
def indexIn (xs : List Nat) (x : Nat) : Option Nat :=
  match xs with
  | [] => none
  | y :: t => if y = x then some 0 else (indexIn t x).map (· + 1)

/-- The batch-list entry whose segment table the thread uses (R49): packet and index. -/
def batchEntry (k : TCore) (th : Thread) (sid : Nat) : Option (Nat × Nat) :=
  if th.level = 0 && th.origin = 1 then some (th.packet, th.batch)
  else k.packets.findSome? (fun p => (indexIn p.2.sids sid).map (fun j => (p.1, j)))

/-- A stream is free, or of another tenant, as of the last commit (R49, R111). -/
def streamGone (s : State) (t sid : Nat) : Bool :=
  ((s.old t).streams.get sid {}).state == 0#2

/-- The stream that the thread's STREAM names (R44). -/
def Thread.sid (th : Thread) : Option Nat :=
  if th.stream.getLsbD 31 then some (th.stream.extractLsb' 0 18).toNat else none

/-- Vault offset of the segment table that the thread's window uses on core `c` (R49). -/
def segTable (s : State) (t c : Nat) (th : Thread) : Option Nat :=
  match th.sid with
  | none => none
  | some sid =>
    if streamGone s t sid then none
    else (batchEntry (s.coreOf t c) th sid).map (fun (p, j) =>
      let e := (s.dev t).ctl.readNat (ctlAddr c (p * 2048 + j * 8)) 8
      bitsOf e 20 8 * 4096 + bitsOf e 28 4 * 256)

/-- The segment table by which a window address translates lies in a revoked frame (R361). -/
def segLost (s : State) (t c : Nat) (th : Thread) (a : LAddr) : Bool :=
  decide (0x80 ≤ a.toNat / 4096) && (segTable s t c th).any (fun seg => s.lostFrames.contains (c, seg / 4096))

/-- Where local address `a` leads for a thread of tenant `t` on core `c` (R47 to R49): a window access that needs a segment
table in a revoked frame reaches that frame (R361). DEDUCED, log entry 40. -/
def xlate (s : State) (t c : Nat) (th : Thread) (a : LAddr) : Option Place :=
  let page := a.toNat / 4096
  let off := a.toNat % 4096
  if 0x7C ≤ page && page < 0x80 then some (.control ((page - 0x7C) * 4096 + off))
  else if page < 0x80 then (privFrame (s.coreOf t c) page).map (fun f => .vault f off)
  else if page = 0xFF then none
  else match segTable s t c th with
    | none => none
    | some seg =>
      if segLost s t c th a then some (.vault (seg / 4096) (seg % 4096)) else
      let e := (s.dev t).vault.readNat (vaultAddr c 0 seg + 2 * (page - 0x80)) 2
      let f := e % 256
      let fe := (s.coreOf t c).frame f
      if bitOf e 8 && fmV fe && !fmRsv fe then some (.vault f off) else none

/-! ### Views (R156) -/

/-- The bytes of a frame of core `c` as the core itself reads them: the holder view where it holds the frame, else the
committed value (R156). -/
def readPlace (s : State) (t c : Nat) (p : Place) (n : Nat) : List Byte :=
  match p with
  | .control off => (s.dev t).ctl.readBytes (ctlAddr c off) n
  | .vault f off =>
    if holds (s.coreOf t c) c f then (s.dev t).vault.readBytes (vaultAddr c f off) n
    else (s.old t).vault.readBytes (vaultAddr c f off) n

/-- What an access answers: a value, a trap, or a stop at a revoked frame (R361). -/
inductive Acc (α : Type) where
  | ok (a : α)
  | trap (t : Trap)
  | lost (addr : Word)
  deriving DecidableEq, Repr

def Acc.bind {α β : Type} (x : Acc α) (f : α → Acc β) : Acc β :=
  match x with
  | .ok a => f a
  | .trap t => .trap t
  | .lost a => .lost a

/-- The outcome of an access: the continuation, the trap, or the stop. -/
def Acc.out {α : Type} (x : Acc α) (s : State) (f : α → Out) : Out :=
  match x with
  | .ok a => f a
  | .trap t => trapOut t s
  | .lost a => .next (lostStop a s)

def unmapped (a : LAddr) : Trap := { cause := .localUnmapped, val := a.setWidth 64 }
def misalignedAt (a : LAddr) : Trap := { cause := .misaligned, val := a.setWidth 64 }

/-- Translation of an address of the running thread, or LOCAL_UNMAPPED, or the stop at a revoked frame. -/
def place (s : State) (a : LAddr) : Acc Place :=
  match xlate s s.actor.tid s.actor.core s.thr a with
  | none => .trap (unmapped a)
  | some (.control off) => .ok (.control off)
  | some (.vault f off) =>
    if s.lostFrames.contains (s.actor.core, f) then .lost (a.setWidth 64) else .ok (.vault f off)

/-- The bytes of the running thread's core at a place. -/
def readHere (s : State) (p : Place) (n : Nat) : List Byte := readPlace s s.actor.tid s.actor.core p n

/-- A load of `n` bytes at `a` by the running thread: steps 1 and 2 of R110, then the bytes. -/
def loadBytes (s : State) (a : LAddr) (n : Nat) : Acc (List Byte) :=
  if a.toNat % n ≠ 0 then .trap (misalignedAt a)
  else (place s a).bind (fun p => .ok (readHere s p n))

/-- Bytes at consecutive local addresses, each page translated; the first failing address traps. -/
def loadRange (s : State) (a : LAddr) : Nat → Acc (List Byte)
  | 0 => .ok []
  | n + 1 =>
    (place s a).bind (fun p => (loadRange s (a + 1#20) n).bind (fun bs => .ok (readHere s p 1 ++ bs)))

/-! ### Instruction words (R55) -/

/-- A PC is a multiple of 4 (R33): the low bits of an address that becomes one are dropped. -/
def pcOf (a : LAddr) : LAddr := a &&& 0xFFFFC#20

/-- The word at local address `a` of a core: pages 0x00 to 0x7B only, whatever STREAM holds (R55). -/
def fetchFrom (s : State) (t c : Nat) (a : LAddr) : Option (Nat × IWord) :=
  if 0x7C000 ≤ a.toNat then none
  else (privFrame (s.coreOf t c) (a.toNat / 4096)).map (fun f =>
    (f, BitVec.ofNat 32 (leNat (readPlace s t c (.vault f (a.toNat % 4096)) 4))))

/-- The fetch of the running thread: LOCAL_UNMAPPED where the page does not translate (R55), the stop of R361 at a
revoked frame. -/
def fetchHere (s : State) (a : LAddr) : Acc IWord :=
  match fetchFrom s s.actor.tid s.actor.core a with
  | none => .trap (unmapped a)
  | some (f, w) => if s.lostFrames.contains (s.actor.core, f) then .lost (a.setWidth 64) else .ok w

/-! ### Lines written (R311, R313) -/

/-- The identifier of the line at private local address `a` of core `c` (Table 15.6). -/
def privLine (c : Nat) (a : Nat) : Nat :=
  0xFE0000000000 + c % 64 * 2 ^ 26 + c / 64 * 2 ^ 20 + a / 64 * 64
/-- The identifier of a window line of stream `sid` on core `c` (Table 15.6). -/
def windowLine (sid c a : Nat) : Nat := 2 ^ 63 + sid * 2 ^ 31 + c * 2 ^ 19 + a % 2 ^ 19 / 64 * 64

/-- The identifier of the line of local address `a` written by a thread on core `c`. -/
def lineId (th : Thread) (c : Nat) (a : LAddr) : Nat :=
  if a.toNat < 0x80000 then privLine c a.toNat else windowLine (th.sid.getD 0) c a.toNat

/-- A line of tenant `t` has received a byte in this phase. -/
def markLine (s : State) (t id : Nat) (hbm : Bool) (phys : Nat) : State :=
  s.modDev t (fun d => { d with lines := d.lines.set id (hbm, phys / 64 * 64) })

/-- Bytes written into a frame of core `c` and their line marked (within one line). DEDUCED, log entry 102. -/
def putVault (s : State) (t c f off id : Nat) (bs : List Byte) : State :=
  if bs.isEmpty then s
  else markLine (s.modDev t (fun d => { d with vault := d.vault.writeBytes (vaultAddr c f off) bs })) t id false
    (vaultAddr c f off)

/-! ### Stores (R110, R111, R45, R261) -/

/-- The quota of a stream that checks use: that of the latest QUOTASET reply of this phase, whichever tenant issued it, else the
committed one (R333, R261). -/
def quotaOf (s : State) (sid : Nat) (hbm : Bool) (committed : Nat) : Nat :=
  let qs := s.cur.flatMap (fun d => d.2.quotas.filter (fun q => q.2.1 == sid && q.2.2.1 == hbm))
  match qs.find? (fun q => qs.all (fun r => decide (r.1 ≤ q.1))) with
  | some q => q.2.2.2
  | none => committed

/-- The stream charged for a copy (R111): none where SV = 0 or the stream is gone. -/
def chargeTo (s : State) (t : Nat) (th : Thread) : Option Nat :=
  match th.sid with
  | none => none
  | some sid => if streamGone s t sid then none else some sid

/-- Steps 1 to 4 of R110 for a store of `n` bytes at `a`: the frame and offset. -/
def storeCheck (s : State) (a : LAddr) (n : Nat) : Acc (Nat × Nat) :=
  if a.toNat % n ≠ 0 then .trap (misalignedAt a)
  else (place s a).bind (fun p => match p with
    | .control _ => .trap { cause := .writeProtect, val := a.setWidth 64 }
    | .vault f off =>
      let e := s.here.frame f
      if !fmW e then .trap { cause := .writeProtect, val := a.setWidth 64 }
      else if !holds s.here s.actor.core f then .trap { cause := .capability, val := a.setWidth 64 }
      else .ok (f, off))

/-- The copy of a frame by copy-on-write into reserve frame `r` (R111, R261): a private page takes the new frame and
the old one's count falls at once; a window page's segment table takes it and the old count falls at the commit. -/
def copyFrame (s : State) (a : LAddr) (f r : Nat) (charge : Option Nat) : State :=
  let t := s.actor.tid
  let c := s.actor.core
  let th := s.thr
  let e := s.here.frame f
  let s := s.modDev t (fun d => { d with vault := d.vault.copyRange d.vault (vaultAddr c r 0) (vaultAddr c f 0) 4096 })
  let s := s.modHere (fun k => { k with
    copied := k.copied ++ [r], used := k.used + 1,
    charged := match charge with
      | none => k.charged
      | some sid => k.charged.upd sid 0 (· + 1) })
  if a.toNat < 0x80000 then
    s.modHere (fun k => (k.setFrame r (mkFm (a.toNat / 4096) true true true false false t c true 1)).setFrame f
      (mkFm (fmPage e) false (fmV e) (fmW e) (fmCow e) (fmRsv e) t (fmHolder e) (fmCapv e) (fmRef e - 1)))
  else
    let s := s.modHere (fun k => { k.setFrame r (mkFm 0 false true (fmW e) false false t c true 1) with
      drops := k.drops.upd f 0 (· + 1) })
    match segTable s t c th with
    | none => s
    | some seg => s.modDev t (fun d => { d with
        vault := d.vault.writeBytes (vaultAddr c 0 seg + 2 * (a.toNat / 4096 - 0x80)) (natLe 2 (256 + r)) })

/-- Steps 5 and 6 of R110 and the copy or shadow that the first store to a frame takes (R45, R111): the state with the
frame ready to be written, and that frame. DEDUCED, log entry 56. -/
def readyFrame (s : State) (a : LAddr) (f : Nat) : Acc (State × Nat) :=
  let k := s.here
  let e := k.frame f
  if k.copied.contains f || (k.shadows.find f).isSome then .ok (s, f)
  else
    let allowance : Trap := { cause := .allowance, val := a.setWidth 64, aux := if k.allowRes then 1#64 else 0#64 }
    let noReserve : Trap := { cause := .allowance, val := a.setWidth 64, aux := 1#64 }
    if fmCow e && 1 < fmRef e then
      let charge := chargeTo s s.actor.tid s.thr
      let excess : Option Trap := match charge with
        | none => none
        | some sid =>
          let d := (s.old s.actor.tid).streams.get sid {}
          if quotaOf s sid false d.vquota.toNat ≤ d.vused.toNat + k.charged.get sid 0 then
            some { cause := .quota, val := a.setWidth 64, aux := BitVec.ofNat 64 (sid * 2 ^ 24) }
          else none
      match excess with
      | some t => .trap t
      | none =>
        if k.allow < k.used + 1 then .trap allowance
        else match pickFrom s (reserveOf s s.actor.tid s.actor.core) with
          | none => .trap noReserve
          | some r => .ok ((copyFrame s a f r charge).drawn, r)
    else if k.allow < k.used + 1 then .trap allowance
    else match pickFrom s (reserveOf s s.actor.tid s.actor.core) with
      | none => .trap noReserve
      | some r => .ok ((s.modHere (fun k => { k with shadows := k.shadows.set f r, used := k.used + 1 })).drawn, f)

/-- All checks of a store of `n` bytes at `a` (R110) with the frame made ready: the state, the frame and the offset. -/
def prepareStore (s : State) (a : LAddr) (n : Nat) : Acc (State × Nat × Nat) :=
  (storeCheck s a n).bind (fun (f, off) => (readyFrame s a f).bind (fun (s', f') => .ok (s', f', off)))

/-- Bytes stored by the running thread at local address `a`, in a frame made ready. -/
def putHere (s : State) (a : LAddr) (f off : Nat) (bs : List Byte) : State :=
  putVault s s.actor.tid s.actor.core f off (lineId s.thr s.actor.core a) bs

/-- A store of bytes at `a`, all checks included. -/
def storeBytes (s : State) (a : LAddr) (bs : List Byte) : Acc State :=
  (prepareStore s a bs.length).bind (fun (s', f, off) => .ok (putHere s' a f off bs))

/-- Stores to several addresses, all of them checked and made ready before any byte is written (R117). -/
def storeAll (s : State) (w : List (LAddr × List Byte)) : Acc State :=
  let ready : Acc (State × List (LAddr × Nat × Nat × List Byte)) :=
    w.foldl (fun acc x => acc.bind (fun (s', ps) =>
      (prepareStore s' x.1 x.2.length).bind (fun (s'', f, off) => .ok (s'', (x.1, f, off, x.2) :: ps)))) (.ok (s, []))
  ready.bind (fun (s', ps) => .ok (ps.reverse.foldl (fun st p => putHere st p.1 p.2.1 p.2.2.1 p.2.2.2) s'))

end Sys2Proof.Machine
end

