-- ==== Sys2Proof/Machine/Operands.lean ====
section
/-! DEFINITION. Operand forms: immediates with and without a prefix, queue registers, effective addresses, size codes
(spec/03_encoding.md R57, R64; spec/02_state.md R39; spec/05_scalar_vector.md R110, R112). -/

namespace Sys2Proof.Machine

/-- A signed immediate of 11, 13, 16 or 26 bits, below the prefix's 26 bits where there is one (R64, Table 3.7). -/
def immSigned {n : Nat} (s : State) (i : BitVec n) : Word :=
  match s.thr.pfx with
  | none => i.signExtend 64
  | some p => (p ++ i).signExtend 64

/-- An immediate extended with zeros (R64, Table 3.7). -/
def immZero {n : Nat} (s : State) (i : BitVec n) : Word :=
  match s.thr.pfx with
  | none => i.setWidth 64
  | some p => (p ++ i).setWidth 64

/-- The address of the instruction's own word (R64, R109). -/
def State.wordAddr (s : State) : LAddr := s.thr.wordAddr

/-- The address of the instruction's first word (R63). -/
def State.pc (s : State) : LAddr := s.thr.pc

/-- A queue register of the actor's core (R39). -/
def State.queue (s : State) (q : Nat) : List Word := s.here.queues.get q []
def State.setQueue (s : State) (q : Nat) (x : List Word) : State :=
  s.modHere (fun k => { k with queues := k.queues.set q x })

/-- A source of an ALU instruction: a pop of q(field[1:0]) where its flag is set, else a register; none when the queue
is empty (R39, R57). -/
def aluSource (flag : BitVec 1) (field : BitVec 5) (s : State) : Option (Word × State) :=
  if flag = 0#1 then some (s.reg field, s)
  else match s.queue (field.toNat % 4) with
    | [] => none
    | v :: t => some (v, s.setQueue (field.toNat % 4) t)

/-- The destination of an ALU instruction: a push where its flag is set, else a register; none when the queue is full
(R39, R57). DEDUCED, log entry 53. -/
def aluDest (flag : BitVec 1) (field : BitVec 5) (v : Word) (s : State) : Option State :=
  if flag = 0#1 then some (s.setReg field v)
  else if (s.queue (field.toNat % 4)).length < 16 then
    some (s.setQueue (field.toNat % 4) (s.queue (field.toNat % 4) ++ [v]))
  else none

/-- Effective address with an offset of the L format (R110). -/
def effAddr (s : State) (a : BitVec 5) (o : BitVec 13) : LAddr := (s.reg a + immSigned s o).setWidth 20

/-- Bytes of an access of size code `sz` (Table 3.2). -/
def sizeBytes (sz : Nat) : Nat := 2 ^ (sz % 4)

/-- The bytes of a load extended as size code `sz` says (Table 3.2). -/
def extendLoad (sz : Nat) (bs : List Byte) : Word :=
  let v := leNat bs
  match sz with
  | 0 => (BitVec.ofNat 8 v).signExtend 64
  | 1 => (BitVec.ofNat 16 v).signExtend 64
  | 2 => (BitVec.ofNat 32 v).signExtend 64
  | _ => BitVec.ofNat 64 v

end Sys2Proof.Machine
end

