-- ==== Sys2Proof/Machine/Formats.lean ====
section
/-! DEFINITION. Element formats, format shadow registers, vector elements and shape records (spec/02_state.md R34, R37,
R52; spec/04_numbers.md R80, R81, R83, R84, R88; spec/05_scalar_vector.md R114, R119). A format is its code of
Table 2.3: 0 to 3 i8 to i64, 4 to 7 n8 to n64, 8 e4m3, 9 e5m2, 10 bf16, 11 fp16, 12 f32, 13 mx4. -/

namespace Sys2Proof.Machine

/-- Width of an element in bits (Tables 2.3, 4.1, 4.2). -/
def fmtWidth (f : Nat) : Nat :=
  match f with
  | 0 => 8 | 1 => 16 | 2 => 32 | 3 => 64 | 4 => 8 | 5 => 16 | 6 => 32 | 7 => 64
  | 8 => 8 | 9 => 8 | 10 => 16 | 11 => 16 | 12 => 32 | _ => 4
def fmtIsInt (f : Nat) : Bool := f < 8
def fmtSigned (f : Nat) : Bool := f < 4
def fmtIsFloat (f : Nat) : Bool := 8 ≤ f && f < 13
def fmtIsMx (f : Nat) : Bool := f == 13
/-- Any format but mx4. -/
def fmtPlain (f : Nat) : Bool := f < 13
/-- Element count of a register (R34, R114). -/
def fmtCount (f : Nat) : Nat := 1024 / fmtWidth f

/-- The FMT and RND fields of a format shadow register (Table 2.3). -/
def shFmt (w : Word) : Nat := (w.extractLsb' 0 4).toNat
def shRnd (w : Word) : Nat := (w.extractLsb' 4 3).toNat
/-- No reserved code and no reserved bit set (R37). -/
def shOk (w : Word) : Bool := decide (shFmt w < 14) && decide (shRnd w < 5) && w.extractLsb' 7 57 == 0#57
/-- The format and rounding mode that a t field selects. -/
def State.fmt (s : State) (t : BitVec 2) : Nat := shFmt (s.shadow t.toNat)
def State.rnd (s : State) (t : BitVec 2) : Nat := shRnd (s.shadow t.toNat)

/-- Two's complement value of `w` bits. -/
def toSigned (w v : Nat) : Int := if v % 2 ^ w < 2 ^ (w - 1) then (v % 2 ^ w : Nat) else (v % 2 ^ w : Nat) - (2 ^ w : Nat)
/-- The low `w` bits of an integer. -/
def ofSigned (w : Nat) (v : Int) : Nat := (v % ((2 ^ w : Nat) : Int)).toNat
/-- The value of an integer code (R80). -/
def intValue (f v : Nat) : Int := if fmtSigned f then toSigned (fmtWidth f) v else (v : Int)
def intLeast (f : Nat) : Int := if fmtSigned f then -((2 ^ (fmtWidth f - 1) : Nat) : Int) else 0
def intGreatest (f : Nat) : Int :=
  if fmtSigned f then ((2 ^ (fmtWidth f - 1) - 1 : Nat) : Int) else ((2 ^ fmtWidth f - 1 : Nat) : Int)

/-! ### Elements of a vector register (R34) -/

/-- Element `i` of width `w`. -/
def velem (x : VReg) (w i : Nat) : Nat := (x >>> (w * i)).toNat % 2 ^ w
/-- The low `n` elements of width `w`. -/
def velems (x : VReg) (w n : Nat) : List Nat := (List.range n).map (velem x w)
/-- A register from its elements, the lowest first. -/
def vpack (w : Nat) : List Nat → Nat
  | [] => 0
  | e :: t => e % 2 ^ w + 2 ^ w * vpack w t
def vof (w : Nat) (es : List Nat) : VReg := BitVec.ofNat 1024 (vpack w es)
/-- Whether element `i` is active (R36). -/
def active (m : VMask) (i : Nat) : Bool := m.getLsbD i

/-- The bytes of a vector register and back. -/
def vbytes (x : VReg) : List Byte := natLe 128 x.toNat
def vofBytes (bs : List Byte) : VReg := BitVec.ofNat 1024 (leNat bs)

/-! ### Shape records (R52, Table 2.11) -/

structure Shape where
  ext   : List Nat
  str   : List Int
  fmt   : Nat
  ndim  : Nat
  dil0  : Nat
  dil1  : Nat
  win0  : Nat
  win1  : Nat
  clamp : Nat
  pad   : Nat
  base  : Nat
  resvd : Bool
  deriving DecidableEq, Repr

/-- A shape record from its 32 bytes. -/
def Shape.ofBytes (bs : List Byte) : Shape :=
  let n := leNat bs
  { ext := (List.range 4).map (fun i => bitsOf n (16 * i) 16)
    str := (List.range 4).map (fun i => toSigned 16 (bitsOf n (64 + 16 * i) 16))
    fmt := bitsOf n 128 4, ndim := bitsOf n 132 2
    dil0 := bitsOf n 136 4, dil1 := bitsOf n 140 4, win0 := bitsOf n 144 8, win1 := bitsOf n 152 8
    clamp := bitsOf n 160 32, pad := bitsOf n 192 32, base := bitsOf n 224 20
    resvd := bitsOf n 134 2 != 0 || bitsOf n 244 12 != 0 }

/-- The record holds no value that R52, R83, R84 or R88 refuses. DEDUCED, log entry 118. DESIGN CHOICE, log entry 149. -/
def Shape.ok (r : Shape) : Bool :=
  !r.resvd && decide (r.fmt < 14) &&
  (List.range (r.ndim + 1)).all (fun k => r.ext.getD k 0 != 0) &&
  (if fmtIsMx r.fmt then
     r.ext.getD 0 0 % 32 == 0 && r.base % 16 == 0 && bitsOf r.pad 4 8 == 0 && r.clamp == 0 &&
     (List.range (r.ndim + 1)).all (fun k => k == 0 || (r.str.getD k 0) % 16 == 0)
   else
     decide (fmtWidth r.fmt ≥ 32 || r.pad < 2 ^ fmtWidth r.fmt) &&
     (!fmtIsFloat r.fmt || decide (r.clamp ≤ 0x7F800000)))

/-- The record where its CLAMP is ignored (R145, R186); that of an mx4 record is checked all the same (R83).
DEDUCED, log entry 131. -/
def Shape.unclamped (r : Shape) : Shape := if fmtIsMx r.fmt then r else { r with clamp := 0 }

/-- The index tuple of flat index `f`, dimensions above NDIM having extent 1 (R119); none when outside.
DEDUCED, log entry 73. -/
def Shape.index (r : Shape) (f : Nat) : Option (List Nat) :=
  let e (k : Nat) : Nat := if k ≤ r.ndim then r.ext.getD k 1 else 1
  let i0 := f % e 0
  let i1 := f / e 0 % e 1
  let i2 := f / (e 0 * e 1) % e 2
  let i3 := f / (e 0 * e 1 * e 2)
  if i3 < e 3 then some [i0, i1, i2, i3] else none

/-- Local address of the element with index tuple `ix` (R52), mx4 packed two to a byte. -/
def Shape.addr (r : Shape) (ix : List Nat) : LAddr :=
  let st (k : Nat) : Int := if k ≤ r.ndim then r.str.getD k 0 else 0
  let i (k : Nat) : Int := (ix.getD k 0 : Nat)
  let first : Int := if fmtIsMx r.fmt then i 0 / 2 else i 0 * st 0
  BitVec.ofInt 20 ((r.base : Nat) + first + i 1 * st 1 + i 2 * st 2 + i 3 * st 3)

/-- Local address of the scale of the block that holds the element (R83). -/
def Shape.scaleAddr (r : Shape) (ix : List Nat) : LAddr :=
  let st (k : Nat) : Int := if k ≤ r.ndim then r.str.getD k 0 else 0
  let i (k : Nat) : Int := (ix.getD k 0 : Nat)
  BitVec.ofInt 20 ((r.pad / 4096 : Nat) + (i 0 / 32 * 16 + i 1 * st 1 + i 2 * st 2 + i 3 * st 3) / 16)

end Sys2Proof.Machine
end

