-- ==== Sys2Proof/Machine/Checks.lean ====
section
/-! DEFINITION. The issue checks (spec/03_encoding.md R59, R61, R62, R64, R68, R69, R73; spec/02_state.md R34, R35, R37,
R38; spec/10_progress.md R222; spec/06_matrix.md R141, R143, R145): class, features, privilege and registers of every
instruction, and the one way an instruction issues. -/

namespace Sys2Proof.Machine

/-- Phase classes (R59). -/
inductive PhaseClass where
  | compute | exchange | either
  deriving DecidableEq, Repr

/-- A register that an instruction names (R33, R38): a scalar register; an ALU field that its flag turns into a queue
register; a vector register; a mask as source; a mask as destination; a shadow register; an accumulator; a semaphore; a
ring handle. -/
inductive RegName where
  | g (n : BitVec 5)
  | flagged (flag : BitVec 1) (n : BitVec 5)
  | v (n : Nat)
  | m (n : BitVec 3)
  | md (n : BitVec 3)
  | sh
  | acc (n : Nat)
  | sem (n : Nat)
  | ring (n : Nat)
  deriving DecidableEq, Repr

/-- A field raised by `k`, none where the sum does not fit (R69). -/
def addField {n : Nat} (x : BitVec n) (k : Nat) : Option (BitVec n) :=
  if x.toNat + k < 2 ^ n then some (BitVec.ofNat n (x.toNat + k)) else none

/-- An ALU field raised by `k`; a queue register stands (R68). -/
def addFlagged (flag : BitVec 1) (x : BitVec 5) (k : Nat) : Option (BitVec 5) :=
  if flag = 0#1 then addField x k else some x

/-- The phase class of an instruction (Table 3.4); the steps of other agents have none. -/
def classOf : Instr → PhaseClass
  | .add _ _ _ _ _ _ | .sub _ _ _ _ _ _ | .and _ _ _ _ _ _ | .or _ _ _ _ _ _ | .xor _ _ _ _ _ _
  | .andn _ _ _ _ _ _ | .sll _ _ _ _ _ _ | .srl _ _ _ _ _ _ | .sra _ _ _ _ _ _ | .mul _ _ _ _ _ _
  | .mulh _ _ _ _ _ _ | .div _ _ _ _ _ _ | .divu _ _ _ _ _ _ | .rem _ _ _ _ _ _ | .slt _ _ _ _ _ _
  | .sltu _ _ _ _ _ _ | .min _ _ _ _ _ _ | .max _ _ _ _ _ _ | .minu _ _ _ _ _ _ | .maxu _ _ _ _ _ _
  | .clz _ _ _ _ | .popc _ _ _ _ | .addi _ _ _ | .andi _ _ _ | .ori _ _ _ | .xori _ _ _ | .slli _ _ _
  | .srli _ _ _ | .srai _ _ _ | .rori _ _ _ | .li _ _ | .lih _ _ _ | .cskip _ _ _ _ | .cskipi _ _ _ _ | .br _
  | .jal _ | .jalr _ _ _ | .bz _ _ | .bnz _ _ | .rep _ _ _ _ _ _ | .fork _ _ _ _ | .join _ | .quit | .yield _
  | .rng _ | .rngkey _ | .semwait _ _ _ _ | .semsig _ _ _ _ | .semset _ _ _ _ | .ringwait _ _ _ _
  | .ringrsv _ _ _ _ | .ringadvHead _ _ _ | .ringadvTail _ _ _ | .ringadvWrite _ _ | .ringadvRead _ _ | .fence
  | .qfence _ | .mbxrecv _ _ _ _ | .squery _ _ _ | .umstateConfigure _ _ _ | .umstateStatus _ _ _
  | .umstateMask _ _ _ | .umstateRelease _ _ _ | .csrr _ _ | .csrw _ _ | .csrset _ _ | .csrclr _ _ | .trap _ _
  | .eret | .idle _ | .dbrk _ | .halt _ | .capq _ _ | .digest _ | .quotasetVquota _ _ | .quotasetHquota _ _
  | .quotasetSpill _ _ | .quotasetPoolAdd _ _ | .quotasetPoolRemove _ _ | .quotasetSeqRange _ _
  | .quotasetTaskRange _ _ | .keyselAssign _ _ | .keyselRelease _ _ | .keyselImport _ _ | .modesetFeatures _ _
  | .modesetSeed _ _ | .modesetRoot _ _ | .modesetSystemFlag _ _ | .modesetComputeBudget _ _
  | .modesetExchangeBudget _ _ | .modesetFrameMap _ _ | .modesetLeaf _ _ | .modesetRegister _ _
  | .modesetUnregister _ _ | .pfx _ => .either
  | .ld _ _ _ _ | .st _ _ _ _ | .amoadd _ _ _ _ | .amoswap _ _ _ _ | .amocas _ _ _ _ | .amoand _ _ _ _
  | .amoor _ _ _ _ | .amoxor _ _ _ _ | .amomin _ _ _ _ | .amomax _ _ _ _ | .vld _ _ _ _ | .vst _ _ _ _
  | .vlds _ _ _ _ | .vsts _ _ _ _ | .vgath _ _ _ _ | .vscat _ _ _ _ | .vldsh _ _ _ | .vstsh _ _ _
  | .vadd _ _ _ _ | .vsub _ _ _ _ | .vmul _ _ _ _ | .vmulh _ _ _ _ | .vmin _ _ _ _ | .vmax _ _ _ _
  | .vadds _ _ _ _ | .vsubs _ _ _ _ | .vand _ _ _ _ | .vor _ _ _ _ | .vxor _ _ _ _ | .vandn _ _ _ _
  | .vsll _ _ _ _ | .vsrl _ _ _ _ | .vsra _ _ _ _ | .vcmp _ _ _ _ _ | .vperm _ _ _ _ | .vsel _ _ _ _
  | .vshuf _ _ _ _ | .vslup _ _ _ _ | .vsldn _ _ _ _ | .vbcast _ _ _ _ | .vrsum _ _ _ | .vrmax _ _ _
  | .vrmin _ _ _ | .vhist _ _ _ | .vcmpr _ _ _ | .vpopc _ _ _ | .viota _ _ _ | .vfadd _ _ _ _ | .vfsub _ _ _ _
  | .vfmul _ _ _ _ | .vfmin _ _ _ _ | .vfmax _ _ _ _ | .vfma _ _ _ _ | .vfms _ _ _ _ | .vfnma _ _ _ _
  | .vfnms _ _ _ _ | .vexp2 _ _ _ | .vlog2 _ _ _ | .vrcp _ _ _ | .vrsq _ _ _ | .vtanh _ _ _ | .vsigm _ _ _
  | .vcvt _ _ _ _ _ | .vqmx _ _ _ _ | .vdqmx _ _ _ _ | .vxpnd _ _ _ _ _ | .vord _ _ _ | .vunord _ _ _
  | .vins _ _ _ _ | .vext _ _ _ _ | .vsplt _ _ _ | .vmrd _ _ _ | .vmwr _ _ _ | .shrd _ _ | .shwr _ _
  | .vmand _ _ _ | .vmor _ _ _ | .vmxor _ _ _ | .vmandn _ _ _ | .vmnot _ _ | .amsel _ | .vrng _ _ _
  | .mma _ _ _ _ _ _ | .mmat _ _ _ _ _ _ | .mconv _ _ _ _ _ _ | .mzero _ | .mldacc _ _ | .mstacc _ _ | .mwait
  | .cpy _ _ _ | .cpysh _ _ _ _ | .sync | .send _ _ _ | .spawn _ _ _ | .migrate _ _ | .rupd _ _ _ _ _
  | .tqpush _ _ _ _ | .tqdec _ _ | .mbxsend _ _ _ | .sfork _ _ _ _ | .ssel _ _ | .sadv _ _ | .sactpop _ _
  | .sactadd _ _ | .sret _ _ | .sprune _ _ | .smigrate _ _ _ _ | .selsub _ _ _ _ | .selget _ _ _
  | .redsub _ _ _ _ | .sjoin _ _ _ | .umsub _ _ _ | .umcommit _ _ _ | .umdirty _ _ _ | .capgive _ _ _
  | .captake _ _ => .compute
  | .xput _ _ _ | .xget _ _ _ | .xdeal _ _ _ _ | .xmcast _ _ _ _ | .xred _ _ _ _ | .xhfill _ _ _
  | .xhspill _ _ _ | .xhld _ _ _ | .xlsend _ _ _ _ | .xlrecv _ _ _ _ | .xend | .xbar _ _ => .exchange
  | .phaseBoundary | .budgetExpiry _ | .messageAccept _ _ | .handlerPreemption _ _ | .spillFullRecord _ _
  | .continuationTake _ _ | .remoteUpdateApply _ _ _ | .mailboxDelivery _ _ | .capabilityMessageDelivery _
  | .sharingCountRaise _ | .referenceRelease _ | .exchangeUnitLanding _ _ _ | .transferComplete _ _ _
  | .copyComplete _ _ | .matrixOpComplete _ _ | .hbmAccessComplete _ _ _ _ | .pageWalkComplete _ _ _
  | .waitExpired _ _ _ | .linkTimeout _ _ _ | .linkTransferComplete _ _ _ | .linkPartnerStop _ _ _ _
  | .xbarRelease _ _ _ | .finialRound _ | .oculusRound _ _ | .smigrateReply _ _ _ _ | .launchComplete
  | .replicaFlit _ _ _ _ | .refreshDue _ _ _ _ _ | .postponedRefreshIssue _ _ _ | .arbiterInterval _ _ _ _ _
  | .thermalInterval _ _ _ _ | .thermalHold _ | .thermalTrip _ | .patrolScrub _ | .wearSample _ _ _ _
  | .qtailDoorbell _ _ _ | .queueEntryFetch _ | .launch | .preempt | .contextSaveComplete | .restore
  | .hold | .release | .attest | .attestationReportDone | .register | .unregister | .debug
  | .create | .destroy | .bindvf | .bindlink | .importkey | .warm | .windowRead _ _ _
  | .windowWrite _ _ _ | .bar0RegisterWrite _ _ _ | .flitCrcReplay _ | .portDown _ | .portUp _ | .coldStart _
  | .warmStart _ | .illegalInstructionWord _ | .instructionFetchFault | .streamTableRequest _ _ _
  | .streamTableReply _ _ _ | .taskTableRequest _ _ _ | .taskTableReply _ _ _ | .privilegedOperationReply _ _ _
  | .migratedStreamAdmission _ _ | .linkPartnerIssue _ _ _ _ _ _ | .refreshComplete _ _ _ => .either

/-- The features that Table 3.4 gives for an instruction, by bit of Table 3.10; mx4 operands add mxblock (R142). -/
def featuresOf (i : Instr) : List Nat :=
  match i with
  | .mma _ _ _ x y _ | .mmat _ _ _ x y _ => if x = 6#3 || y = 6#3 then [6, 7] else [6]
  | .vld _ _ _ _ | .vst _ _ _ _ | .vlds _ _ _ _ | .vsts _ _ _ _ | .vgath _ _ _ _ | .vscat _ _ _ _
  | .vldsh _ _ _ | .vstsh _ _ _ | .vadd _ _ _ _ | .vsub _ _ _ _ | .vmul _ _ _ _ | .vmulh _ _ _ _
  | .vmin _ _ _ _ | .vmax _ _ _ _ | .vadds _ _ _ _ | .vsubs _ _ _ _ | .vand _ _ _ _ | .vor _ _ _ _
  | .vxor _ _ _ _ | .vandn _ _ _ _ | .vsll _ _ _ _ | .vsrl _ _ _ _ | .vsra _ _ _ _ | .vcmp _ _ _ _ _
  | .vperm _ _ _ _ | .vsel _ _ _ _ | .vshuf _ _ _ _ | .vslup _ _ _ _ | .vsldn _ _ _ _ | .vbcast _ _ _ _
  | .vrsum _ _ _ | .vrmax _ _ _ | .vrmin _ _ _ | .vhist _ _ _ | .vcmpr _ _ _ | .vpopc _ _ _ | .viota _ _ _
  | .vins _ _ _ _ | .vext _ _ _ _ | .vsplt _ _ _ | .vmrd _ _ _ | .vmwr _ _ _ | .shrd _ _ | .shwr _ _
  | .vmand _ _ _ | .vmor _ _ _ | .vmxor _ _ _ | .vmandn _ _ _ | .vmnot _ _ | .amsel _ => [1]
  | .vfadd _ _ _ _ | .vfsub _ _ _ _ | .vfmul _ _ _ _ | .vfmin _ _ _ _ | .vfmax _ _ _ _ | .vfma _ _ _ _
  | .vfms _ _ _ _ | .vfnma _ _ _ _ | .vfnms _ _ _ _ => [2]
  | .vexp2 _ _ _ | .vlog2 _ _ _ | .vrcp _ _ _ | .vrsq _ _ _ | .vtanh _ _ _ | .vsigm _ _ _ => [3]
  | .vcvt _ _ _ _ _ | .vxpnd _ _ _ _ _ | .vord _ _ _ | .vunord _ _ _ => [4]
  | .vqmx _ _ _ _ | .vdqmx _ _ _ _ => [4, 7]
  | .rng _ | .vrng _ _ _ | .rngkey _ => [5]
  | .mzero _ | .mldacc _ _ | .mstacc _ _ | .mwait => [6]
  | .mconv _ _ _ _ _ _ => [8]
  | .xput _ _ _ | .xget _ _ _ | .xdeal _ _ _ _ | .xmcast _ _ _ _ | .xred _ _ _ _ | .xbar _ _ => [9]
  | .xhfill _ _ _ | .xhspill _ _ _ | .xhld _ _ _ => [10]
  | .xlsend _ _ _ _ | .xlrecv _ _ _ _ => [11]
  | .send _ _ _ | .spawn _ _ _ | .migrate _ _ | .rupd _ _ _ _ _ => [12]
  | .tqpush _ _ _ _ | .tqdec _ _ => [13]
  | .mbxsend _ _ _ | .mbxrecv _ _ _ _ => [14]
  | .sfork _ _ _ _ | .ssel _ _ | .sadv _ _ | .sactpop _ _ | .sactadd _ _ | .sret _ _ | .sprune _ _
  | .squery _ _ _ => [15]
  | .smigrate _ _ _ _ => [15, 11]
  | .selsub _ _ _ _ | .selget _ _ _ | .redsub _ _ _ _ | .sjoin _ _ _ => [16]
  | .umsub _ _ _ | .umcommit _ _ _ | .umdirty _ _ _ | .umstateConfigure _ _ _ | .umstateStatus _ _ _
  | .umstateMask _ _ _ | .umstateRelease _ _ _ => [17]
  | .capgive _ _ _ | .captake _ _ | .capq _ _ => [18]
  | .digest _ => [19]
  | .add _ _ _ _ _ _ | .sub _ _ _ _ _ _ | .and _ _ _ _ _ _ | .or _ _ _ _ _ _ | .xor _ _ _ _ _ _
  | .andn _ _ _ _ _ _ | .sll _ _ _ _ _ _ | .srl _ _ _ _ _ _ | .sra _ _ _ _ _ _ | .mul _ _ _ _ _ _
  | .mulh _ _ _ _ _ _ | .div _ _ _ _ _ _ | .divu _ _ _ _ _ _ | .rem _ _ _ _ _ _ | .slt _ _ _ _ _ _
  | .sltu _ _ _ _ _ _ | .min _ _ _ _ _ _ | .max _ _ _ _ _ _ | .minu _ _ _ _ _ _ | .maxu _ _ _ _ _ _
  | .clz _ _ _ _ | .popc _ _ _ _ | .addi _ _ _ | .andi _ _ _ | .ori _ _ _ | .xori _ _ _ | .slli _ _ _
  | .srli _ _ _ | .srai _ _ _ | .rori _ _ _ | .li _ _ | .lih _ _ _ | .cskip _ _ _ _ | .cskipi _ _ _ _ | .br _
  | .jal _ | .jalr _ _ _ | .bz _ _ | .bnz _ _ | .rep _ _ _ _ _ _ | .fork _ _ _ _ | .join _ | .quit | .yield _
  | .ld _ _ _ _ | .st _ _ _ _ | .amoadd _ _ _ _ | .amoswap _ _ _ _ | .amocas _ _ _ _ | .amoand _ _ _ _
  | .amoor _ _ _ _ | .amoxor _ _ _ _ | .amomin _ _ _ _ | .amomax _ _ _ _ | .semwait _ _ _ _ | .semsig _ _ _ _
  | .semset _ _ _ _ | .ringwait _ _ _ _ | .ringrsv _ _ _ _ | .ringadvHead _ _ _ | .ringadvTail _ _ _
  | .ringadvWrite _ _ | .ringadvRead _ _ | .fence | .qfence _ | .cpy _ _ _ | .cpysh _ _ _ _ | .sync | .xend
  | .csrr _ _ | .csrw _ _ | .csrset _ _ | .csrclr _ _ | .trap _ _ | .eret | .idle _ | .dbrk _ | .halt _
  | .quotasetVquota _ _ | .quotasetHquota _ _ | .quotasetSpill _ _ | .quotasetPoolAdd _ _
  | .quotasetPoolRemove _ _ | .quotasetSeqRange _ _ | .quotasetTaskRange _ _ | .keyselAssign _ _
  | .keyselRelease _ _ | .keyselImport _ _ | .modesetFeatures _ _ | .modesetSeed _ _ | .modesetRoot _ _
  | .modesetSystemFlag _ _ | .modesetComputeBudget _ _ | .modesetExchangeBudget _ _ | .modesetFrameMap _ _
  | .modesetLeaf _ _ | .modesetRegister _ _ | .modesetUnregister _ _ | .pfx _ | .phaseBoundary
  | .budgetExpiry _ | .messageAccept _ _ | .handlerPreemption _ _ | .spillFullRecord _ _
  | .continuationTake _ _ | .remoteUpdateApply _ _ _ | .mailboxDelivery _ _ | .capabilityMessageDelivery _
  | .sharingCountRaise _ | .referenceRelease _ | .exchangeUnitLanding _ _ _ | .transferComplete _ _ _
  | .copyComplete _ _ | .matrixOpComplete _ _ | .hbmAccessComplete _ _ _ _ | .pageWalkComplete _ _ _
  | .waitExpired _ _ _ | .linkTimeout _ _ _ | .linkTransferComplete _ _ _ | .linkPartnerStop _ _ _ _
  | .xbarRelease _ _ _ | .finialRound _ | .oculusRound _ _ | .smigrateReply _ _ _ _ | .launchComplete
  | .replicaFlit _ _ _ _ | .refreshDue _ _ _ _ _ | .postponedRefreshIssue _ _ _ | .arbiterInterval _ _ _ _ _
  | .thermalInterval _ _ _ _ | .thermalHold _ | .thermalTrip _ | .patrolScrub _ | .wearSample _ _ _ _
  | .qtailDoorbell _ _ _ | .queueEntryFetch _ | .launch | .preempt | .contextSaveComplete | .restore
  | .hold | .release | .attest | .attestationReportDone | .register | .unregister | .debug
  | .create | .destroy | .bindvf | .bindlink | .importkey | .warm | .windowRead _ _ _
  | .windowWrite _ _ _ | .bar0RegisterWrite _ _ _ | .flitCrcReplay _ | .portDown _ | .portUp _ | .coldStart _
  | .warmStart _ | .illegalInstructionWord _ | .instructionFetchFault | .streamTableRequest _ _ _
  | .streamTableReply _ _ _ | .taskTableRequest _ _ _ | .taskTableReply _ _ _ | .privilegedOperationReply _ _ _
  | .migratedStreamAdmission _ _ | .linkPartnerIssue _ _ _ _ _ _ | .refreshComplete _ _ _ => [0]

/-- The privileged instructions (R61). -/
def privilegedOf : Instr → Bool
  | .halt _ | .quotasetVquota _ _ | .quotasetHquota _ _ | .quotasetSpill _ _ | .quotasetPoolAdd _ _
  | .quotasetPoolRemove _ _ | .quotasetSeqRange _ _ | .quotasetTaskRange _ _ | .keyselAssign _ _
  | .keyselRelease _ _ | .keyselImport _ _ | .modesetFeatures _ _ | .modesetSeed _ _ | .modesetRoot _ _
  | .modesetSystemFlag _ _ | .modesetComputeBudget _ _ | .modesetExchangeBudget _ _ | .modesetFrameMap _ _
  | .modesetLeaf _ _ | .modesetRegister _ _ | .modesetUnregister _ _ => true
  | .add _ _ _ _ _ _ | .sub _ _ _ _ _ _ | .and _ _ _ _ _ _ | .or _ _ _ _ _ _ | .xor _ _ _ _ _ _
  | .andn _ _ _ _ _ _ | .sll _ _ _ _ _ _ | .srl _ _ _ _ _ _ | .sra _ _ _ _ _ _ | .mul _ _ _ _ _ _
  | .mulh _ _ _ _ _ _ | .div _ _ _ _ _ _ | .divu _ _ _ _ _ _ | .rem _ _ _ _ _ _ | .slt _ _ _ _ _ _
  | .sltu _ _ _ _ _ _ | .min _ _ _ _ _ _ | .max _ _ _ _ _ _ | .minu _ _ _ _ _ _ | .maxu _ _ _ _ _ _
  | .clz _ _ _ _ | .popc _ _ _ _ | .addi _ _ _ | .andi _ _ _ | .ori _ _ _ | .xori _ _ _ | .slli _ _ _
  | .srli _ _ _ | .srai _ _ _ | .rori _ _ _ | .li _ _ | .lih _ _ _ | .cskip _ _ _ _ | .cskipi _ _ _ _ | .br _
  | .jal _ | .jalr _ _ _ | .bz _ _ | .bnz _ _ | .rep _ _ _ _ _ _ | .fork _ _ _ _ | .join _ | .quit | .yield _
  | .ld _ _ _ _ | .st _ _ _ _ | .amoadd _ _ _ _ | .amoswap _ _ _ _ | .amocas _ _ _ _ | .amoand _ _ _ _
  | .amoor _ _ _ _ | .amoxor _ _ _ _ | .amomin _ _ _ _ | .amomax _ _ _ _ | .vld _ _ _ _ | .vst _ _ _ _
  | .vlds _ _ _ _ | .vsts _ _ _ _ | .vgath _ _ _ _ | .vscat _ _ _ _ | .vldsh _ _ _ | .vstsh _ _ _
  | .vadd _ _ _ _ | .vsub _ _ _ _ | .vmul _ _ _ _ | .vmulh _ _ _ _ | .vmin _ _ _ _ | .vmax _ _ _ _
  | .vadds _ _ _ _ | .vsubs _ _ _ _ | .vand _ _ _ _ | .vor _ _ _ _ | .vxor _ _ _ _ | .vandn _ _ _ _
  | .vsll _ _ _ _ | .vsrl _ _ _ _ | .vsra _ _ _ _ | .vcmp _ _ _ _ _ | .vperm _ _ _ _ | .vsel _ _ _ _
  | .vshuf _ _ _ _ | .vslup _ _ _ _ | .vsldn _ _ _ _ | .vbcast _ _ _ _ | .vrsum _ _ _ | .vrmax _ _ _
  | .vrmin _ _ _ | .vhist _ _ _ | .vcmpr _ _ _ | .vpopc _ _ _ | .viota _ _ _ | .vfadd _ _ _ _ | .vfsub _ _ _ _
  | .vfmul _ _ _ _ | .vfmin _ _ _ _ | .vfmax _ _ _ _ | .vfma _ _ _ _ | .vfms _ _ _ _ | .vfnma _ _ _ _
  | .vfnms _ _ _ _ | .vexp2 _ _ _ | .vlog2 _ _ _ | .vrcp _ _ _ | .vrsq _ _ _ | .vtanh _ _ _ | .vsigm _ _ _
  | .vcvt _ _ _ _ _ | .vqmx _ _ _ _ | .vdqmx _ _ _ _ | .vxpnd _ _ _ _ _ | .vord _ _ _ | .vunord _ _ _
  | .vins _ _ _ _ | .vext _ _ _ _ | .vsplt _ _ _ | .vmrd _ _ _ | .vmwr _ _ _ | .shrd _ _ | .shwr _ _
  | .vmand _ _ _ | .vmor _ _ _ | .vmxor _ _ _ | .vmandn _ _ _ | .vmnot _ _ | .amsel _ | .rng _ | .vrng _ _ _
  | .rngkey _ | .mma _ _ _ _ _ _ | .mmat _ _ _ _ _ _ | .mconv _ _ _ _ _ _ | .mzero _ | .mldacc _ _
  | .mstacc _ _ | .mwait | .semwait _ _ _ _ | .semsig _ _ _ _ | .semset _ _ _ _ | .ringwait _ _ _ _
  | .ringrsv _ _ _ _ | .ringadvHead _ _ _ | .ringadvTail _ _ _ | .ringadvWrite _ _ | .ringadvRead _ _ | .fence
  | .qfence _ | .cpy _ _ _ | .cpysh _ _ _ _ | .xput _ _ _ | .xget _ _ _ | .xdeal _ _ _ _ | .xmcast _ _ _ _
  | .xred _ _ _ _ | .xhfill _ _ _ | .xhspill _ _ _ | .xhld _ _ _ | .xlsend _ _ _ _ | .xlrecv _ _ _ _ | .sync
  | .xend | .xbar _ _ | .send _ _ _ | .spawn _ _ _ | .migrate _ _ | .rupd _ _ _ _ _ | .tqpush _ _ _ _
  | .tqdec _ _ | .mbxsend _ _ _ | .mbxrecv _ _ _ _ | .sfork _ _ _ _ | .ssel _ _ | .sadv _ _ | .sactpop _ _
  | .sactadd _ _ | .sret _ _ | .sprune _ _ | .smigrate _ _ _ _ | .squery _ _ _ | .selsub _ _ _ _
  | .selget _ _ _ | .redsub _ _ _ _ | .sjoin _ _ _ | .umsub _ _ _ | .umcommit _ _ _ | .umdirty _ _ _
  | .umstateConfigure _ _ _ | .umstateStatus _ _ _ | .umstateMask _ _ _ | .umstateRelease _ _ _ | .csrr _ _
  | .csrw _ _ | .csrset _ _ | .csrclr _ _ | .trap _ _ | .eret | .idle _ | .dbrk _ | .capgive _ _ _
  | .captake _ _ | .capq _ _ | .digest _ | .pfx _ | .phaseBoundary | .budgetExpiry _ | .messageAccept _ _
  | .handlerPreemption _ _ | .spillFullRecord _ _ | .continuationTake _ _ | .remoteUpdateApply _ _ _
  | .mailboxDelivery _ _ | .capabilityMessageDelivery _ | .sharingCountRaise _ | .referenceRelease _
  | .exchangeUnitLanding _ _ _ | .transferComplete _ _ _ | .copyComplete _ _ | .matrixOpComplete _ _
  | .hbmAccessComplete _ _ _ _ | .pageWalkComplete _ _ _ | .waitExpired _ _ _ | .linkTimeout _ _ _
  | .linkTransferComplete _ _ _ | .linkPartnerStop _ _ _ _ | .xbarRelease _ _ _ | .finialRound _
  | .oculusRound _ _ | .smigrateReply _ _ _ _ | .launchComplete | .replicaFlit _ _ _ _
  | .refreshDue _ _ _ _ _ | .postponedRefreshIssue _ _ _ | .arbiterInterval _ _ _ _ _
  | .thermalInterval _ _ _ _ | .thermalHold _ | .thermalTrip _ | .patrolScrub _ | .wearSample _ _ _ _
  | .qtailDoorbell _ _ _ | .queueEntryFetch _ | .launch | .preempt | .contextSaveComplete | .restore
  | .hold | .release | .attest | .attestationReportDone | .register | .unregister | .debug
  | .create | .destroy | .bindvf | .bindlink | .importkey | .warm | .windowRead _ _ _
  | .windowWrite _ _ _ | .bar0RegisterWrite _ _ _ | .flitCrcReplay _ | .portDown _ | .portUp _ | .coldStart _
  | .warmStart _ | .illegalInstructionWord _ | .instructionFetchFault | .streamTableRequest _ _ _
  | .streamTableReply _ _ _ | .taskTableRequest _ _ _ | .taskTableReply _ _ _ | .privilegedOperationReply _ _ _
  | .migratedStreamAdmission _ _ | .linkPartnerIssue _ _ _ _ _ _ | .refreshComplete _ _ _ => false

/-- The registers that an instruction names (R34, R35, R38, R57), groups member by member (R115). JAL names g31.
DEDUCED, log entry 52. -/
def regsOf : Instr → List RegName
  | .add d a b p s r => [.flagged p d, .flagged r a, .flagged s b]
  | .sub d a b p s r => [.flagged p d, .flagged r a, .flagged s b]
  | .and d a b p s r => [.flagged p d, .flagged r a, .flagged s b]
  | .or d a b p s r => [.flagged p d, .flagged r a, .flagged s b]
  | .xor d a b p s r => [.flagged p d, .flagged r a, .flagged s b]
  | .andn d a b p s r => [.flagged p d, .flagged r a, .flagged s b]
  | .sll d a b p s r => [.flagged p d, .flagged r a, .flagged s b]
  | .srl d a b p s r => [.flagged p d, .flagged r a, .flagged s b]
  | .sra d a b p s r => [.flagged p d, .flagged r a, .flagged s b]
  | .mul d a b p s r => [.flagged p d, .flagged r a, .flagged s b]
  | .mulh d a b p s r => [.flagged p d, .flagged r a, .flagged s b]
  | .div d a b p s r => [.flagged p d, .flagged r a, .flagged s b]
  | .divu d a b p s r => [.flagged p d, .flagged r a, .flagged s b]
  | .rem d a b p s r => [.flagged p d, .flagged r a, .flagged s b]
  | .slt d a b p s r => [.flagged p d, .flagged r a, .flagged s b]
  | .sltu d a b p s r => [.flagged p d, .flagged r a, .flagged s b]
  | .min d a b p s r => [.flagged p d, .flagged r a, .flagged s b]
  | .max d a b p s r => [.flagged p d, .flagged r a, .flagged s b]
  | .minu d a b p s r => [.flagged p d, .flagged r a, .flagged s b]
  | .maxu d a b p s r => [.flagged p d, .flagged r a, .flagged s b]
  | .clz d a p r => [.flagged p d, .flagged r a]
  | .popc d a p r => [.flagged p d, .flagged r a]
  | .addi d a _ => [.g d, .g a]
  | .andi d a _ => [.g d, .g a]
  | .ori d a _ => [.g d, .g a]
  | .xori d a _ => [.g d, .g a]
  | .slli d a _ => [.g d, .g a]
  | .srli d a _ => [.g d, .g a]
  | .srai d a _ => [.g d, .g a]
  | .rori d a _ => [.g d, .g a]
  | .li d _ => [.g d]
  | .lih d a _ => [.g d, .g a]
  | .cskip _ _ a b => [.g a, .g b]
  | .cskipi _ _ a _ => [.g a]
  | .jal _ => [.g 31#5]
  | .jalr d a _ => [.g d, .g a]
  | .bz a _ => [.g a]
  | .bnz a _ => [.g a]
  | .fork d a b j => (if j = 1#1 then [.sem b.toNat] else []) ++ [.g d, .g a]
  | .join a => [.sem a.toNat]
  | .ld d a _ _ => [.g d, .g a]
  | .st d a _ _ => [.g d, .g a]
  | .amoadd d a b _ => [.g d, .g a, .g b]
  | .amoswap d a b _ => [.g d, .g a, .g b]
  | .amocas d a b _ => [.g d, .g a, .g b]
  | .amoand d a b _ => [.g d, .g a, .g b]
  | .amoor d a b _ => [.g d, .g a, .g b]
  | .amoxor d a b _ => [.g d, .g a, .g b]
  | .amomin d a b _ => [.g d, .g a, .g b]
  | .amomax d a b _ => [.g d, .g a, .g b]
  | .vld d a b _ => [.v d.toNat, .g a, .g b]
  | .vst d a b _ => [.v d.toNat, .g a, .g b]
  | .vlds d a b _ => [.v d.toNat, .g a, .g b]
  | .vsts d a b _ => [.v d.toNat, .g a, .g b]
  | .vgath d a b _ => [.v d.toNat, .g a, .v b.toNat]
  | .vscat d a b _ => [.v d.toNat, .g a, .v b.toNat]
  | .vldsh d a b => [.v d.toNat, .g a, .g b]
  | .vstsh d a b => [.v d.toNat, .g a, .g b]
  | .vadd d a b _ => [.v d.toNat, .v a.toNat, .v b.toNat]
  | .vsub d a b _ => [.v d.toNat, .v a.toNat, .v b.toNat]
  | .vmul d a b _ => [.v d.toNat, .v a.toNat, .v b.toNat]
  | .vmulh d a b _ => [.v d.toNat, .v a.toNat, .v b.toNat]
  | .vmin d a b _ => [.v d.toNat, .v a.toNat, .v b.toNat]
  | .vmax d a b _ => [.v d.toNat, .v a.toNat, .v b.toNat]
  | .vadds d a b _ => [.v d.toNat, .v a.toNat, .v b.toNat]
  | .vsubs d a b _ => [.v d.toNat, .v a.toNat, .v b.toNat]
  | .vand d a b _ => [.v d.toNat, .v a.toNat, .v b.toNat]
  | .vor d a b _ => [.v d.toNat, .v a.toNat, .v b.toNat]
  | .vxor d a b _ => [.v d.toNat, .v a.toNat, .v b.toNat]
  | .vandn d a b _ => [.v d.toNat, .v a.toNat, .v b.toNat]
  | .vsll d a b _ => [.v d.toNat, .v a.toNat, .v b.toNat]
  | .vsrl d a b _ => [.v d.toNat, .v a.toNat, .v b.toNat]
  | .vsra d a b _ => [.v d.toNat, .v a.toNat, .v b.toNat]
  | .vcmp d a b _ _ => [.md d, .v a.toNat, .v b.toNat]
  | .vperm d a b _ => [.v d.toNat, .v a.toNat, .v b.toNat]
  | .vsel d a b _ => [.v d.toNat, .v a.toNat, .v b.toNat]
  | .vshuf d a b _ => [.v d.toNat, .v a.toNat, .v b.toNat]
  | .vslup d a _ _ => [.v d.toNat, .v a.toNat]
  | .vsldn d a _ _ => [.v d.toNat, .v a.toNat]
  | .vbcast d a _ _ => [.v d.toNat, .v a.toNat]
  | .vrsum d a _ => [.v d.toNat, .v a.toNat]
  | .vrmax d a _ => [.v d.toNat, .v a.toNat]
  | .vrmin d a _ => [.v d.toNat, .v a.toNat]
  | .vhist d a _ => [.v d.toNat, .v a.toNat]
  | .vcmpr d a _ => [.v d.toNat, .v a.toNat]
  | .vpopc d a _ => [.v d.toNat, .m a]
  | .viota d a _ => [.v d.toNat, .m a]
  | .vfadd d a b _ => [.v d.toNat, .v a.toNat, .v b.toNat]
  | .vfsub d a b _ => [.v d.toNat, .v a.toNat, .v b.toNat]
  | .vfmul d a b _ => [.v d.toNat, .v a.toNat, .v b.toNat]
  | .vfmin d a b _ => [.v d.toNat, .v a.toNat, .v b.toNat]
  | .vfmax d a b _ => [.v d.toNat, .v a.toNat, .v b.toNat]
  | .vfma d a b _ => [.v d.toNat, .v a.toNat, .v b.toNat]
  | .vfms d a b _ => [.v d.toNat, .v a.toNat, .v b.toNat]
  | .vfnma d a b _ => [.v d.toNat, .v a.toNat, .v b.toNat]
  | .vfnms d a b _ => [.v d.toNat, .v a.toNat, .v b.toNat]
  | .vexp2 d a _ => [.v d.toNat, .v a.toNat]
  | .vlog2 d a _ => [.v d.toNat, .v a.toNat]
  | .vrcp d a _ => [.v d.toNat, .v a.toNat]
  | .vrsq d a _ => [.v d.toNat, .v a.toNat]
  | .vtanh d a _ => [.v d.toNat, .v a.toNat]
  | .vsigm d a _ => [.v d.toNat, .v a.toNat]
  | .vcvt d a _ _ _ => [.v d.toNat, .v a.toNat]
  | .vqmx d a b _ => [.v d.toNat, .v b.toNat] ++ (List.range 8).map (fun j => .v (a.toNat + j))
  | .vdqmx d a b _ => [.v a.toNat, .v b.toNat] ++ (List.range 8).map (fun j => .v (d.toNat + j))
  | .vxpnd d a _ _ _ => [.v d.toNat, .v a.toNat]
  | .vord d a _ => [.v d.toNat, .v a.toNat]
  | .vunord d a _ => [.v d.toNat, .v a.toNat]
  | .vins d a b _ => [.v d.toNat, .g a, .g b]
  | .vext d a b _ => [.v d.toNat, .g a, .g b]
  | .vsplt d a _ => [.v d.toNat, .g a]
  | .vmrd m a b => [.m m, .g a, .g b]
  | .vmwr m a b => [.md m, .g a, .g b]
  | .shrd _ a => [.sh, .g a]
  | .shwr _ a => [.sh, .g a]
  | .vmand d a b => [.md d, .m a, .m b]
  | .vmor d a b => [.md d, .m a, .m b]
  | .vmxor d a b => [.md d, .m a, .m b]
  | .vmandn d a b => [.md d, .m a, .m b]
  | .vmnot d a => [.md d, .m a]
  | .amsel n => [.m n]
  | .rng a => [.g a]
  | .vrng d _ _ => [.v d.toNat]
  | .rngkey a => [.g a]
  | .mma c a b _ _ _ => [.acc c.toNat, .g a, .g b]
  | .mmat c a b _ _ _ => [.acc c.toNat, .g a, .g b]
  | .mconv c a b _ _ _ => [.acc c.toNat, .g a, .g b]
  | .mzero c => [.acc c.toNat]
  | .mldacc c a => [.acc c.toNat, .g a]
  | .mstacc c a => [.acc c.toNat, .g a]
  | .semwait d a _ _ => [.sem a.toNat, .g d]
  | .semsig d a _ c => [.sem a.toNat, .g d, .g c]
  | .semset d a _ c => [.sem a.toNat, .g d, .g c]
  | .ringwait d r _ _ => [.ring r.toNat, .g d]
  | .ringrsv d r _ _ => [.ring r.toNat, .g d]
  | .ringadvHead d r _ => [.ring r.toNat, .g d]
  | .ringadvTail d r _ => [.ring r.toNat, .g d]
  | .ringadvWrite d r => [.ring r.toNat, .g d]
  | .ringadvRead d r => [.ring r.toNat, .g d]
  | .cpy d a b => [.g d, .g a, .g b]
  | .cpysh d a b c => [.g d, .g a, .g b, .g c]
  | .xput d a b => [.g d, .g a, .g b]
  | .xget d a b => [.g d, .g a, .g b]
  | .xdeal d a b c => [.g d, .g a, .g b, .g c]
  | .xmcast d a b c => [.g d, .g a, .g b, .g c]
  | .xred d a b _ => [.g d, .g a, .g b]
  | .xhfill d a b => [.g d, .g a, .g b]
  | .xhspill d a b => [.g d, .g a, .g b]
  | .xhld d a _ => [.g d, .g a]
  | .xlsend d a b c => [.g d, .g a, .g b, .g c]
  | .xlrecv d a b c => [.g d, .g a, .g b, .g c]
  | .xbar d a => [.g d, .g a]
  | .send d a b => [.g d, .g a, .g b]
  | .spawn d a b => [.g d, .g a, .g b]
  | .migrate d a => [.g d, .g a]
  | .rupd d a b _ _ => [.g d, .g a, .g b]
  | .tqpush d a b c => [.g d, .g a, .g b, .g c]
  | .tqdec d a => [.g d, .g a]
  | .mbxsend d a b => [.g d, .g a, .g b]
  | .mbxrecv d a _ _ => [.g d, .g a]
  | .sfork d a b c => [.g d, .g a, .g b, .g c]
  | .ssel d a => [.g d, .g a]
  | .sadv d a => [.g d, .g a]
  | .sactpop d a => [.g d, .g a]
  | .sactadd d a => [.g d, .g a]
  | .sret a b => [.g a, .g b]
  | .sprune d a => [.g d, .g a]
  | .smigrate d a b c => [.g d, .g a, .g b, .g c]
  | .squery d a _ => [.g d, .g a]
  | .selsub d a b c => [.g d, .g a, .g b, .g c]
  | .selget d a b => [.g d, .g a, .g b]
  | .redsub d a b c => [.g d, .g a, .g b, .g c]
  | .sjoin d a b => [.g d, .g a, .g b]
  | .umsub a b c => [.g a, .g b, .g c]
  | .umcommit a b c => [.g a, .g b, .g c]
  | .umdirty d a b => [.g d, .g a, .g b]
  | .umstateConfigure d a c => [.g d, .g a, .g c]
  | .umstateStatus d a c => [.g d, .g a, .g c]
  | .umstateMask d a c => [.g d, .g a, .g c]
  | .umstateRelease d a c => [.g d, .g a, .g c]
  | .csrr d _ => [.g d]
  | .csrw a _ => [.g a]
  | .csrset a _ => [.g a]
  | .csrclr a _ => [.g a]
  | .trap a _ => [.g a]
  | .idle a => [.g a]
  | .halt a => [.g a]
  | .capgive d a b => [.g d, .g a, .g b]
  | .captake d a => [.g d, .g a]
  | .capq d a => [.g d, .g a]
  | .digest d => [.g d]
  | .quotasetVquota d a => [.g d, .g a]
  | .quotasetHquota d a => [.g d, .g a]
  | .quotasetSpill d a => [.g d, .g a]
  | .quotasetPoolAdd d a => [.g d, .g a]
  | .quotasetPoolRemove d a => [.g d, .g a]
  | .quotasetSeqRange d a => [.g d, .g a]
  | .quotasetTaskRange d a => [.g d, .g a]
  | .keyselAssign d a => [.g d, .g a]
  | .keyselRelease d a => [.g d, .g a]
  | .keyselImport d a => [.g d, .g a]
  | .modesetFeatures d a => [.g d, .g a]
  | .modesetSeed d a => [.g d, .g a]
  | .modesetRoot d a => [.g d, .g a]
  | .modesetSystemFlag d a => [.g d, .g a]
  | .modesetComputeBudget d a => [.g d, .g a]
  | .modesetExchangeBudget d a => [.g d, .g a]
  | .modesetFrameMap d a => [.g d, .g a]
  | .modesetLeaf d a => [.g d, .g a]
  | .modesetRegister d a => [.g d, .g a]
  | .modesetUnregister d a => [.g d, .g a]
  | .br _ | .rep _ _ _ _ _ _ | .quit | .yield _ | .mwait | .fence | .qfence _ | .sync | .xend | .eret | .dbrk _
  | .pfx _ | .phaseBoundary | .budgetExpiry _ | .messageAccept _ _ | .handlerPreemption _ _
  | .spillFullRecord _ _ | .continuationTake _ _ | .remoteUpdateApply _ _ _ | .mailboxDelivery _ _
  | .capabilityMessageDelivery _ | .sharingCountRaise _ | .referenceRelease _ | .exchangeUnitLanding _ _ _
  | .transferComplete _ _ _ | .copyComplete _ _ | .matrixOpComplete _ _ | .hbmAccessComplete _ _ _ _
  | .pageWalkComplete _ _ _ | .waitExpired _ _ _ | .linkTimeout _ _ _ | .linkTransferComplete _ _ _
  | .linkPartnerStop _ _ _ _ | .xbarRelease _ _ _ | .finialRound _ | .oculusRound _ _ | .smigrateReply _ _ _ _
  | .launchComplete | .replicaFlit _ _ _ _ | .refreshDue _ _ _ _ _ | .postponedRefreshIssue _ _ _
  | .arbiterInterval _ _ _ _ _ | .thermalInterval _ _ _ _ | .thermalHold _ | .thermalTrip _ | .patrolScrub _
  | .wearSample _ _ _ _ | .qtailDoorbell _ _ _ | .queueEntryFetch _ | .launch | .preempt
  | .contextSaveComplete | .restore | .hold | .release | .attest | .attestationReportDone
  | .register | .unregister | .debug | .create | .destroy | .bindvf | .bindlink | .importkey
  | .warm | .windowRead _ _ _ | .windowWrite _ _ _ | .bar0RegisterWrite _ _ _ | .flitCrcReplay _
  | .portDown _ | .portUp _ | .coldStart _ | .warmStart _ | .illegalInstructionWord _ | .instructionFetchFault
  | .streamTableRequest _ _ _ | .streamTableReply _ _ _ | .taskTableRequest _ _ _ | .taskTableReply _ _ _
  | .privilegedOperationReply _ _ _ | .migratedStreamAdmission _ _ | .linkPartnerIssue _ _ _ _ _ _
  | .refreshComplete _ _ _ => []

/-- Whether an instruction takes a prefix with immediate `p` (R64, Table 3.7). -/
def takesPrefix (p : BitVec 26) : Instr → Bool
  | .lih _ _ _ => p.extractLsb' 16 10 == 0#10
  | .addi _ _ _ | .li _ _ | .andi _ _ _ | .ori _ _ _ | .xori _ _ _ | .cskipi _ _ _ _ | .ld _ _ _ _
  | .st _ _ _ _ | .jalr _ _ _ | .bz _ _ | .bnz _ _ | .br _ | .jal _ => true
  | .add _ _ _ _ _ _ | .sub _ _ _ _ _ _ | .and _ _ _ _ _ _ | .or _ _ _ _ _ _ | .xor _ _ _ _ _ _
  | .andn _ _ _ _ _ _ | .sll _ _ _ _ _ _ | .srl _ _ _ _ _ _ | .sra _ _ _ _ _ _ | .mul _ _ _ _ _ _
  | .mulh _ _ _ _ _ _ | .div _ _ _ _ _ _ | .divu _ _ _ _ _ _ | .rem _ _ _ _ _ _ | .slt _ _ _ _ _ _
  | .sltu _ _ _ _ _ _ | .min _ _ _ _ _ _ | .max _ _ _ _ _ _ | .minu _ _ _ _ _ _ | .maxu _ _ _ _ _ _
  | .clz _ _ _ _ | .popc _ _ _ _ | .slli _ _ _ | .srli _ _ _ | .srai _ _ _ | .rori _ _ _ | .cskip _ _ _ _
  | .rep _ _ _ _ _ _ | .fork _ _ _ _ | .join _ | .quit | .yield _ | .amoadd _ _ _ _ | .amoswap _ _ _ _
  | .amocas _ _ _ _ | .amoand _ _ _ _ | .amoor _ _ _ _ | .amoxor _ _ _ _ | .amomin _ _ _ _ | .amomax _ _ _ _
  | .vld _ _ _ _ | .vst _ _ _ _ | .vlds _ _ _ _ | .vsts _ _ _ _ | .vgath _ _ _ _ | .vscat _ _ _ _
  | .vldsh _ _ _ | .vstsh _ _ _ | .vadd _ _ _ _ | .vsub _ _ _ _ | .vmul _ _ _ _ | .vmulh _ _ _ _
  | .vmin _ _ _ _ | .vmax _ _ _ _ | .vadds _ _ _ _ | .vsubs _ _ _ _ | .vand _ _ _ _ | .vor _ _ _ _
  | .vxor _ _ _ _ | .vandn _ _ _ _ | .vsll _ _ _ _ | .vsrl _ _ _ _ | .vsra _ _ _ _ | .vcmp _ _ _ _ _
  | .vperm _ _ _ _ | .vsel _ _ _ _ | .vshuf _ _ _ _ | .vslup _ _ _ _ | .vsldn _ _ _ _ | .vbcast _ _ _ _
  | .vrsum _ _ _ | .vrmax _ _ _ | .vrmin _ _ _ | .vhist _ _ _ | .vcmpr _ _ _ | .vpopc _ _ _ | .viota _ _ _
  | .vfadd _ _ _ _ | .vfsub _ _ _ _ | .vfmul _ _ _ _ | .vfmin _ _ _ _ | .vfmax _ _ _ _ | .vfma _ _ _ _
  | .vfms _ _ _ _ | .vfnma _ _ _ _ | .vfnms _ _ _ _ | .vexp2 _ _ _ | .vlog2 _ _ _ | .vrcp _ _ _ | .vrsq _ _ _
  | .vtanh _ _ _ | .vsigm _ _ _ | .vcvt _ _ _ _ _ | .vqmx _ _ _ _ | .vdqmx _ _ _ _ | .vxpnd _ _ _ _ _
  | .vord _ _ _ | .vunord _ _ _ | .vins _ _ _ _ | .vext _ _ _ _ | .vsplt _ _ _ | .vmrd _ _ _ | .vmwr _ _ _
  | .shrd _ _ | .shwr _ _ | .vmand _ _ _ | .vmor _ _ _ | .vmxor _ _ _ | .vmandn _ _ _ | .vmnot _ _ | .amsel _
  | .rng _ | .vrng _ _ _ | .rngkey _ | .mma _ _ _ _ _ _ | .mmat _ _ _ _ _ _ | .mconv _ _ _ _ _ _ | .mzero _
  | .mldacc _ _ | .mstacc _ _ | .mwait | .semwait _ _ _ _ | .semsig _ _ _ _ | .semset _ _ _ _
  | .ringwait _ _ _ _ | .ringrsv _ _ _ _ | .ringadvHead _ _ _ | .ringadvTail _ _ _ | .ringadvWrite _ _
  | .ringadvRead _ _ | .fence | .qfence _ | .cpy _ _ _ | .cpysh _ _ _ _ | .xput _ _ _ | .xget _ _ _
  | .xdeal _ _ _ _ | .xmcast _ _ _ _ | .xred _ _ _ _ | .xhfill _ _ _ | .xhspill _ _ _ | .xhld _ _ _
  | .xlsend _ _ _ _ | .xlrecv _ _ _ _ | .sync | .xend | .xbar _ _ | .send _ _ _ | .spawn _ _ _ | .migrate _ _
  | .rupd _ _ _ _ _ | .tqpush _ _ _ _ | .tqdec _ _ | .mbxsend _ _ _ | .mbxrecv _ _ _ _ | .sfork _ _ _ _
  | .ssel _ _ | .sadv _ _ | .sactpop _ _ | .sactadd _ _ | .sret _ _ | .sprune _ _ | .smigrate _ _ _ _
  | .squery _ _ _ | .selsub _ _ _ _ | .selget _ _ _ | .redsub _ _ _ _ | .sjoin _ _ _ | .umsub _ _ _
  | .umcommit _ _ _ | .umdirty _ _ _ | .umstateConfigure _ _ _ | .umstateStatus _ _ _ | .umstateMask _ _ _
  | .umstateRelease _ _ _ | .csrr _ _ | .csrw _ _ | .csrset _ _ | .csrclr _ _ | .trap _ _ | .eret | .idle _
  | .dbrk _ | .halt _ | .capgive _ _ _ | .captake _ _ | .capq _ _ | .digest _ | .quotasetVquota _ _
  | .quotasetHquota _ _ | .quotasetSpill _ _ | .quotasetPoolAdd _ _ | .quotasetPoolRemove _ _
  | .quotasetSeqRange _ _ | .quotasetTaskRange _ _ | .keyselAssign _ _ | .keyselRelease _ _ | .keyselImport _ _
  | .modesetFeatures _ _ | .modesetSeed _ _ | .modesetRoot _ _ | .modesetSystemFlag _ _
  | .modesetComputeBudget _ _ | .modesetExchangeBudget _ _ | .modesetFrameMap _ _ | .modesetLeaf _ _
  | .modesetRegister _ _ | .modesetUnregister _ _ | .pfx _ | .phaseBoundary | .budgetExpiry _
  | .messageAccept _ _ | .handlerPreemption _ _ | .spillFullRecord _ _ | .continuationTake _ _
  | .remoteUpdateApply _ _ _ | .mailboxDelivery _ _ | .capabilityMessageDelivery _ | .sharingCountRaise _
  | .referenceRelease _ | .exchangeUnitLanding _ _ _ | .transferComplete _ _ _ | .copyComplete _ _
  | .matrixOpComplete _ _ | .hbmAccessComplete _ _ _ _ | .pageWalkComplete _ _ _ | .waitExpired _ _ _
  | .linkTimeout _ _ _ | .linkTransferComplete _ _ _ | .linkPartnerStop _ _ _ _ | .xbarRelease _ _ _
  | .finialRound _ | .oculusRound _ _ | .smigrateReply _ _ _ _ | .launchComplete | .replicaFlit _ _ _ _
  | .refreshDue _ _ _ _ _ | .postponedRefreshIssue _ _ _ | .arbiterInterval _ _ _ _ _
  | .thermalInterval _ _ _ _ | .thermalHold _ | .thermalTrip _ | .patrolScrub _ | .wearSample _ _ _ _
  | .qtailDoorbell _ _ _ | .queueEntryFetch _ | .launch | .preempt | .contextSaveComplete | .restore
  | .hold | .release | .attest | .attestationReportDone | .register | .unregister | .debug
  | .create | .destroy | .bindvf | .bindlink | .importkey | .warm | .windowRead _ _ _
  | .windowWrite _ _ _ | .bar0RegisterWrite _ _ _ | .flitCrcReplay _ | .portDown _ | .portUp _ | .coldStart _
  | .warmStart _ | .illegalInstructionWord _ | .instructionFetchFault | .streamTableRequest _ _ _
  | .streamTableReply _ _ _ | .taskTableRequest _ _ _ | .taskTableReply _ _ _ | .privilegedOperationReply _ _ _
  | .migratedStreamAdmission _ _ | .linkPartnerIssue _ _ _ _ _ _ | .refreshComplete _ _ _ => false

/-- Whether a repeat frame may capture the instruction (R69). -/
def repeatable : Instr → Bool
  | .add _ _ _ _ _ _ | .sub _ _ _ _ _ _ | .and _ _ _ _ _ _ | .or _ _ _ _ _ _ | .xor _ _ _ _ _ _
  | .andn _ _ _ _ _ _ | .sll _ _ _ _ _ _ | .srl _ _ _ _ _ _ | .sra _ _ _ _ _ _ | .mul _ _ _ _ _ _
  | .mulh _ _ _ _ _ _ | .div _ _ _ _ _ _ | .divu _ _ _ _ _ _ | .rem _ _ _ _ _ _ | .slt _ _ _ _ _ _
  | .sltu _ _ _ _ _ _ | .min _ _ _ _ _ _ | .max _ _ _ _ _ _ | .minu _ _ _ _ _ _ | .maxu _ _ _ _ _ _
  | .clz _ _ _ _ | .popc _ _ _ _ | .addi _ _ _ | .andi _ _ _ | .ori _ _ _ | .xori _ _ _ | .slli _ _ _
  | .srli _ _ _ | .srai _ _ _ | .rori _ _ _ | .li _ _ | .lih _ _ _ | .vadd _ _ _ _ | .vsub _ _ _ _
  | .vmul _ _ _ _ | .vmulh _ _ _ _ | .vmin _ _ _ _ | .vmax _ _ _ _ | .vadds _ _ _ _ | .vsubs _ _ _ _
  | .vand _ _ _ _ | .vor _ _ _ _ | .vxor _ _ _ _ | .vandn _ _ _ _ | .vsll _ _ _ _ | .vsrl _ _ _ _
  | .vsra _ _ _ _ | .vcmp _ _ _ _ _ | .vperm _ _ _ _ | .vsel _ _ _ _ | .vshuf _ _ _ _ | .vslup _ _ _ _
  | .vsldn _ _ _ _ | .vbcast _ _ _ _ | .vrsum _ _ _ | .vrmax _ _ _ | .vrmin _ _ _ | .vhist _ _ _ | .vcmpr _ _ _
  | .vpopc _ _ _ | .viota _ _ _ | .vfadd _ _ _ _ | .vfsub _ _ _ _ | .vfmul _ _ _ _ | .vfmin _ _ _ _
  | .vfmax _ _ _ _ | .vfma _ _ _ _ | .vfms _ _ _ _ | .vfnma _ _ _ _ | .vfnms _ _ _ _ | .vexp2 _ _ _
  | .vlog2 _ _ _ | .vrcp _ _ _ | .vrsq _ _ _ | .vtanh _ _ _ | .vsigm _ _ _ | .vcvt _ _ _ _ _ | .vqmx _ _ _ _
  | .vdqmx _ _ _ _ | .vxpnd _ _ _ _ _ | .vord _ _ _ | .vunord _ _ _ | .vmand _ _ _ | .vmor _ _ _ | .vmxor _ _ _
  | .vmandn _ _ _ | .vmnot _ _ | .amsel _ | .mma _ _ _ _ _ _ | .mmat _ _ _ _ _ _ | .mconv _ _ _ _ _ _
  | .mzero _ => true
  | .cskip _ _ _ _ | .cskipi _ _ _ _ | .br _ | .jal _ | .jalr _ _ _ | .bz _ _ | .bnz _ _ | .rep _ _ _ _ _ _
  | .fork _ _ _ _ | .join _ | .quit | .yield _ | .ld _ _ _ _ | .st _ _ _ _ | .amoadd _ _ _ _ | .amoswap _ _ _ _
  | .amocas _ _ _ _ | .amoand _ _ _ _ | .amoor _ _ _ _ | .amoxor _ _ _ _ | .amomin _ _ _ _ | .amomax _ _ _ _
  | .vld _ _ _ _ | .vst _ _ _ _ | .vlds _ _ _ _ | .vsts _ _ _ _ | .vgath _ _ _ _ | .vscat _ _ _ _
  | .vldsh _ _ _ | .vstsh _ _ _ | .vins _ _ _ _ | .vext _ _ _ _ | .vsplt _ _ _ | .vmrd _ _ _ | .vmwr _ _ _
  | .shrd _ _ | .shwr _ _ | .rng _ | .vrng _ _ _ | .rngkey _ | .mldacc _ _ | .mstacc _ _ | .mwait
  | .semwait _ _ _ _ | .semsig _ _ _ _ | .semset _ _ _ _ | .ringwait _ _ _ _ | .ringrsv _ _ _ _
  | .ringadvHead _ _ _ | .ringadvTail _ _ _ | .ringadvWrite _ _ | .ringadvRead _ _ | .fence | .qfence _
  | .cpy _ _ _ | .cpysh _ _ _ _ | .xput _ _ _ | .xget _ _ _ | .xdeal _ _ _ _ | .xmcast _ _ _ _ | .xred _ _ _ _
  | .xhfill _ _ _ | .xhspill _ _ _ | .xhld _ _ _ | .xlsend _ _ _ _ | .xlrecv _ _ _ _ | .sync | .xend
  | .xbar _ _ | .send _ _ _ | .spawn _ _ _ | .migrate _ _ | .rupd _ _ _ _ _ | .tqpush _ _ _ _ | .tqdec _ _
  | .mbxsend _ _ _ | .mbxrecv _ _ _ _ | .sfork _ _ _ _ | .ssel _ _ | .sadv _ _ | .sactpop _ _ | .sactadd _ _
  | .sret _ _ | .sprune _ _ | .smigrate _ _ _ _ | .squery _ _ _ | .selsub _ _ _ _ | .selget _ _ _
  | .redsub _ _ _ _ | .sjoin _ _ _ | .umsub _ _ _ | .umcommit _ _ _ | .umdirty _ _ _ | .umstateConfigure _ _ _
  | .umstateStatus _ _ _ | .umstateMask _ _ _ | .umstateRelease _ _ _ | .csrr _ _ | .csrw _ _ | .csrset _ _
  | .csrclr _ _ | .trap _ _ | .eret | .idle _ | .dbrk _ | .halt _ | .capgive _ _ _ | .captake _ _ | .capq _ _
  | .digest _ | .quotasetVquota _ _ | .quotasetHquota _ _ | .quotasetSpill _ _ | .quotasetPoolAdd _ _
  | .quotasetPoolRemove _ _ | .quotasetSeqRange _ _ | .quotasetTaskRange _ _ | .keyselAssign _ _
  | .keyselRelease _ _ | .keyselImport _ _ | .modesetFeatures _ _ | .modesetSeed _ _ | .modesetRoot _ _
  | .modesetSystemFlag _ _ | .modesetComputeBudget _ _ | .modesetExchangeBudget _ _ | .modesetFrameMap _ _
  | .modesetLeaf _ _ | .modesetRegister _ _ | .modesetUnregister _ _ | .pfx _ | .phaseBoundary
  | .budgetExpiry _ | .messageAccept _ _ | .handlerPreemption _ _ | .spillFullRecord _ _
  | .continuationTake _ _ | .remoteUpdateApply _ _ _ | .mailboxDelivery _ _ | .capabilityMessageDelivery _
  | .sharingCountRaise _ | .referenceRelease _ | .exchangeUnitLanding _ _ _ | .transferComplete _ _ _
  | .copyComplete _ _ | .matrixOpComplete _ _ | .hbmAccessComplete _ _ _ _ | .pageWalkComplete _ _ _
  | .waitExpired _ _ _ | .linkTimeout _ _ _ | .linkTransferComplete _ _ _ | .linkPartnerStop _ _ _ _
  | .xbarRelease _ _ _ | .finialRound _ | .oculusRound _ _ | .smigrateReply _ _ _ _ | .launchComplete
  | .replicaFlit _ _ _ _ | .refreshDue _ _ _ _ _ | .postponedRefreshIssue _ _ _ | .arbiterInterval _ _ _ _ _
  | .thermalInterval _ _ _ _ | .thermalHold _ | .thermalTrip _ | .patrolScrub _ | .wearSample _ _ _ _
  | .qtailDoorbell _ _ _ | .queueEntryFetch _ | .launch | .preempt | .contextSaveComplete | .restore
  | .hold | .release | .attest | .attestationReportDone | .register | .unregister | .debug
  | .create | .destroy | .bindvf | .bindlink | .importkey | .warm | .windowRead _ _ _
  | .windowWrite _ _ _ | .bar0RegisterWrite _ _ _ | .flitCrcReplay _ | .portDown _ | .portUp _ | .coldStart _
  | .warmStart _ | .illegalInstructionWord _ | .instructionFetchFault | .streamTableRequest _ _ _
  | .streamTableReply _ _ _ | .taskTableRequest _ _ _ | .taskTableReply _ _ _ | .privilegedOperationReply _ _ _
  | .migratedStreamAdmission _ _ | .linkPartnerIssue _ _ _ _ _ _ | .refreshComplete _ _ _ => false

/-- The instruction with its destination, first and second source fields raised (R68); none where a field cannot hold
the sum. Literals, selectors and queue registers stand as written. -/
def stagger (kd ka kb : Nat) (i : Instr) : Option Instr :=
  match i with
  | .add d a b p s r => (addFlagged p d kd).bind fun d => (addFlagged r a ka).bind fun a => (addFlagged s b kb).bind fun b => some (.add d a b p s r)
  | .sub d a b p s r => (addFlagged p d kd).bind fun d => (addFlagged r a ka).bind fun a => (addFlagged s b kb).bind fun b => some (.sub d a b p s r)
  | .and d a b p s r => (addFlagged p d kd).bind fun d => (addFlagged r a ka).bind fun a => (addFlagged s b kb).bind fun b => some (.and d a b p s r)
  | .or d a b p s r => (addFlagged p d kd).bind fun d => (addFlagged r a ka).bind fun a => (addFlagged s b kb).bind fun b => some (.or d a b p s r)
  | .xor d a b p s r => (addFlagged p d kd).bind fun d => (addFlagged r a ka).bind fun a => (addFlagged s b kb).bind fun b => some (.xor d a b p s r)
  | .andn d a b p s r => (addFlagged p d kd).bind fun d => (addFlagged r a ka).bind fun a => (addFlagged s b kb).bind fun b => some (.andn d a b p s r)
  | .sll d a b p s r => (addFlagged p d kd).bind fun d => (addFlagged r a ka).bind fun a => (addFlagged s b kb).bind fun b => some (.sll d a b p s r)
  | .srl d a b p s r => (addFlagged p d kd).bind fun d => (addFlagged r a ka).bind fun a => (addFlagged s b kb).bind fun b => some (.srl d a b p s r)
  | .sra d a b p s r => (addFlagged p d kd).bind fun d => (addFlagged r a ka).bind fun a => (addFlagged s b kb).bind fun b => some (.sra d a b p s r)
  | .mul d a b p s r => (addFlagged p d kd).bind fun d => (addFlagged r a ka).bind fun a => (addFlagged s b kb).bind fun b => some (.mul d a b p s r)
  | .mulh d a b p s r => (addFlagged p d kd).bind fun d => (addFlagged r a ka).bind fun a => (addFlagged s b kb).bind fun b => some (.mulh d a b p s r)
  | .div d a b p s r => (addFlagged p d kd).bind fun d => (addFlagged r a ka).bind fun a => (addFlagged s b kb).bind fun b => some (.div d a b p s r)
  | .divu d a b p s r => (addFlagged p d kd).bind fun d => (addFlagged r a ka).bind fun a => (addFlagged s b kb).bind fun b => some (.divu d a b p s r)
  | .rem d a b p s r => (addFlagged p d kd).bind fun d => (addFlagged r a ka).bind fun a => (addFlagged s b kb).bind fun b => some (.rem d a b p s r)
  | .slt d a b p s r => (addFlagged p d kd).bind fun d => (addFlagged r a ka).bind fun a => (addFlagged s b kb).bind fun b => some (.slt d a b p s r)
  | .sltu d a b p s r => (addFlagged p d kd).bind fun d => (addFlagged r a ka).bind fun a => (addFlagged s b kb).bind fun b => some (.sltu d a b p s r)
  | .min d a b p s r => (addFlagged p d kd).bind fun d => (addFlagged r a ka).bind fun a => (addFlagged s b kb).bind fun b => some (.min d a b p s r)
  | .max d a b p s r => (addFlagged p d kd).bind fun d => (addFlagged r a ka).bind fun a => (addFlagged s b kb).bind fun b => some (.max d a b p s r)
  | .minu d a b p s r => (addFlagged p d kd).bind fun d => (addFlagged r a ka).bind fun a => (addFlagged s b kb).bind fun b => some (.minu d a b p s r)
  | .maxu d a b p s r => (addFlagged p d kd).bind fun d => (addFlagged r a ka).bind fun a => (addFlagged s b kb).bind fun b => some (.maxu d a b p s r)
  | .clz d a p r => (addFlagged p d kd).bind fun d => (addFlagged r a ka).bind fun a => some (.clz d a p r)
  | .popc d a p r => (addFlagged p d kd).bind fun d => (addFlagged r a ka).bind fun a => some (.popc d a p r)
  | .addi d a i => (addField d kd).bind fun d => (addField a ka).bind fun a => some (.addi d a i)
  | .andi d a i => (addField d kd).bind fun d => (addField a ka).bind fun a => some (.andi d a i)
  | .ori d a i => (addField d kd).bind fun d => (addField a ka).bind fun a => some (.ori d a i)
  | .xori d a i => (addField d kd).bind fun d => (addField a ka).bind fun a => some (.xori d a i)
  | .slli d a n => (addField d kd).bind fun d => (addField a ka).bind fun a => some (.slli d a n)
  | .srli d a n => (addField d kd).bind fun d => (addField a ka).bind fun a => some (.srli d a n)
  | .srai d a n => (addField d kd).bind fun d => (addField a ka).bind fun a => some (.srai d a n)
  | .rori d a n => (addField d kd).bind fun d => (addField a ka).bind fun a => some (.rori d a n)
  | .li d i => (addField d kd).bind fun d => some (.li d i)
  | .lih d a i => (addField d kd).bind fun d => (addField a ka).bind fun a => some (.lih d a i)
  | .vadd d a b t => (addField d kd).bind fun d => (addField a ka).bind fun a => (addField b kb).bind fun b => some (.vadd d a b t)
  | .vsub d a b t => (addField d kd).bind fun d => (addField a ka).bind fun a => (addField b kb).bind fun b => some (.vsub d a b t)
  | .vmul d a b t => (addField d kd).bind fun d => (addField a ka).bind fun a => (addField b kb).bind fun b => some (.vmul d a b t)
  | .vmulh d a b t => (addField d kd).bind fun d => (addField a ka).bind fun a => (addField b kb).bind fun b => some (.vmulh d a b t)
  | .vmin d a b t => (addField d kd).bind fun d => (addField a ka).bind fun a => (addField b kb).bind fun b => some (.vmin d a b t)
  | .vmax d a b t => (addField d kd).bind fun d => (addField a ka).bind fun a => (addField b kb).bind fun b => some (.vmax d a b t)
  | .vadds d a b t => (addField d kd).bind fun d => (addField a ka).bind fun a => (addField b kb).bind fun b => some (.vadds d a b t)
  | .vsubs d a b t => (addField d kd).bind fun d => (addField a ka).bind fun a => (addField b kb).bind fun b => some (.vsubs d a b t)
  | .vand d a b t => (addField d kd).bind fun d => (addField a ka).bind fun a => (addField b kb).bind fun b => some (.vand d a b t)
  | .vor d a b t => (addField d kd).bind fun d => (addField a ka).bind fun a => (addField b kb).bind fun b => some (.vor d a b t)
  | .vxor d a b t => (addField d kd).bind fun d => (addField a ka).bind fun a => (addField b kb).bind fun b => some (.vxor d a b t)
  | .vandn d a b t => (addField d kd).bind fun d => (addField a ka).bind fun a => (addField b kb).bind fun b => some (.vandn d a b t)
  | .vsll d a b t => (addField d kd).bind fun d => (addField a ka).bind fun a => (addField b kb).bind fun b => some (.vsll d a b t)
  | .vsrl d a b t => (addField d kd).bind fun d => (addField a ka).bind fun a => (addField b kb).bind fun b => some (.vsrl d a b t)
  | .vsra d a b t => (addField d kd).bind fun d => (addField a ka).bind fun a => (addField b kb).bind fun b => some (.vsra d a b t)
  | .vcmp d a b t c => (addField d kd).bind fun d => (addField a ka).bind fun a => (addField b kb).bind fun b => some (.vcmp d a b t c)
  | .vperm d a b t => (addField d kd).bind fun d => (addField a ka).bind fun a => (addField b kb).bind fun b => some (.vperm d a b t)
  | .vsel d a b t => (addField d kd).bind fun d => (addField a ka).bind fun a => (addField b kb).bind fun b => some (.vsel d a b t)
  | .vshuf d a b t => (addField d kd).bind fun d => (addField a ka).bind fun a => (addField b kb).bind fun b => some (.vshuf d a b t)
  | .vslup d a n t => (addField d kd).bind fun d => (addField a ka).bind fun a => some (.vslup d a n t)
  | .vsldn d a n t => (addField d kd).bind fun d => (addField a ka).bind fun a => some (.vsldn d a n t)
  | .vbcast d a n t => (addField d kd).bind fun d => (addField a ka).bind fun a => some (.vbcast d a n t)
  | .vrsum d a t => (addField d kd).bind fun d => (addField a ka).bind fun a => some (.vrsum d a t)
  | .vrmax d a t => (addField d kd).bind fun d => (addField a ka).bind fun a => some (.vrmax d a t)
  | .vrmin d a t => (addField d kd).bind fun d => (addField a ka).bind fun a => some (.vrmin d a t)
  | .vhist d a t => (addField d kd).bind fun d => (addField a ka).bind fun a => some (.vhist d a t)
  | .vcmpr d a t => (addField d kd).bind fun d => (addField a ka).bind fun a => some (.vcmpr d a t)
  | .vpopc d a t => (addField d kd).bind fun d => (addField a ka).bind fun a => some (.vpopc d a t)
  | .viota d a t => (addField d kd).bind fun d => (addField a ka).bind fun a => some (.viota d a t)
  | .vfadd d a b t => (addField d kd).bind fun d => (addField a ka).bind fun a => (addField b kb).bind fun b => some (.vfadd d a b t)
  | .vfsub d a b t => (addField d kd).bind fun d => (addField a ka).bind fun a => (addField b kb).bind fun b => some (.vfsub d a b t)
  | .vfmul d a b t => (addField d kd).bind fun d => (addField a ka).bind fun a => (addField b kb).bind fun b => some (.vfmul d a b t)
  | .vfmin d a b t => (addField d kd).bind fun d => (addField a ka).bind fun a => (addField b kb).bind fun b => some (.vfmin d a b t)
  | .vfmax d a b t => (addField d kd).bind fun d => (addField a ka).bind fun a => (addField b kb).bind fun b => some (.vfmax d a b t)
  | .vfma d a b t => (addField d kd).bind fun d => (addField a ka).bind fun a => (addField b kb).bind fun b => some (.vfma d a b t)
  | .vfms d a b t => (addField d kd).bind fun d => (addField a ka).bind fun a => (addField b kb).bind fun b => some (.vfms d a b t)
  | .vfnma d a b t => (addField d kd).bind fun d => (addField a ka).bind fun a => (addField b kb).bind fun b => some (.vfnma d a b t)
  | .vfnms d a b t => (addField d kd).bind fun d => (addField a ka).bind fun a => (addField b kb).bind fun b => some (.vfnms d a b t)
  | .vexp2 d a t => (addField d kd).bind fun d => (addField a ka).bind fun a => some (.vexp2 d a t)
  | .vlog2 d a t => (addField d kd).bind fun d => (addField a ka).bind fun a => some (.vlog2 d a t)
  | .vrcp d a t => (addField d kd).bind fun d => (addField a ka).bind fun a => some (.vrcp d a t)
  | .vrsq d a t => (addField d kd).bind fun d => (addField a ka).bind fun a => some (.vrsq d a t)
  | .vtanh d a t => (addField d kd).bind fun d => (addField a ka).bind fun a => some (.vtanh d a t)
  | .vsigm d a t => (addField d kd).bind fun d => (addField a ka).bind fun a => some (.vsigm d a t)
  | .vcvt d a p s t => (addField d kd).bind fun d => (addField a ka).bind fun a => some (.vcvt d a p s t)
  | .vqmx d a b t => (addField d kd).bind fun d => (addField a ka).bind fun a => (addField b kb).bind fun b => some (.vqmx d a b t)
  | .vdqmx d a b t => (addField d kd).bind fun d => (addField a ka).bind fun a => (addField b kb).bind fun b => some (.vdqmx d a b t)
  | .vxpnd d a p k t => (addField d kd).bind fun d => (addField a ka).bind fun a => some (.vxpnd d a p k t)
  | .vord d a t => (addField d kd).bind fun d => (addField a ka).bind fun a => some (.vord d a t)
  | .vunord d a t => (addField d kd).bind fun d => (addField a ka).bind fun a => some (.vunord d a t)
  | .vmand d a b => (addField d kd).bind fun d => (addField a ka).bind fun a => (addField b kb).bind fun b => some (.vmand d a b)
  | .vmor d a b => (addField d kd).bind fun d => (addField a ka).bind fun a => (addField b kb).bind fun b => some (.vmor d a b)
  | .vmxor d a b => (addField d kd).bind fun d => (addField a ka).bind fun a => (addField b kb).bind fun b => some (.vmxor d a b)
  | .vmandn d a b => (addField d kd).bind fun d => (addField a ka).bind fun a => (addField b kb).bind fun b => some (.vmandn d a b)
  | .vmnot d a => (addField d kd).bind fun d => (addField a ka).bind fun a => some (.vmnot d a)
  | .amsel n => (addField n ka).bind fun n => some (.amsel n)
  | .mma c a b x y k => (addField c kd).bind fun c => (addField a ka).bind fun a => (addField b kb).bind fun b => some (.mma c a b x y k)
  | .mmat c a b x y k => (addField c kd).bind fun c => (addField a ka).bind fun a => (addField b kb).bind fun b => some (.mmat c a b x y k)
  | .mconv c a b x y k => (addField c kd).bind fun c => (addField a ka).bind fun a => (addField b kb).bind fun b => some (.mconv c a b x y k)
  | .mzero c => (addField c kd).bind fun c => some (.mzero c)
  | .cskip _ _ _ _ | .cskipi _ _ _ _ | .br _ | .jal _ | .jalr _ _ _ | .bz _ _ | .bnz _ _ | .rep _ _ _ _ _ _
  | .fork _ _ _ _ | .join _ | .quit | .yield _ | .ld _ _ _ _ | .st _ _ _ _ | .amoadd _ _ _ _ | .amoswap _ _ _ _
  | .amocas _ _ _ _ | .amoand _ _ _ _ | .amoor _ _ _ _ | .amoxor _ _ _ _ | .amomin _ _ _ _ | .amomax _ _ _ _
  | .vld _ _ _ _ | .vst _ _ _ _ | .vlds _ _ _ _ | .vsts _ _ _ _ | .vgath _ _ _ _ | .vscat _ _ _ _
  | .vldsh _ _ _ | .vstsh _ _ _ | .vins _ _ _ _ | .vext _ _ _ _ | .vsplt _ _ _ | .vmrd _ _ _ | .vmwr _ _ _
  | .shrd _ _ | .shwr _ _ | .rng _ | .vrng _ _ _ | .rngkey _ | .mldacc _ _ | .mstacc _ _ | .mwait
  | .semwait _ _ _ _ | .semsig _ _ _ _ | .semset _ _ _ _ | .ringwait _ _ _ _ | .ringrsv _ _ _ _
  | .ringadvHead _ _ _ | .ringadvTail _ _ _ | .ringadvWrite _ _ | .ringadvRead _ _ | .fence | .qfence _
  | .cpy _ _ _ | .cpysh _ _ _ _ | .xput _ _ _ | .xget _ _ _ | .xdeal _ _ _ _ | .xmcast _ _ _ _ | .xred _ _ _ _
  | .xhfill _ _ _ | .xhspill _ _ _ | .xhld _ _ _ | .xlsend _ _ _ _ | .xlrecv _ _ _ _ | .sync | .xend
  | .xbar _ _ | .send _ _ _ | .spawn _ _ _ | .migrate _ _ | .rupd _ _ _ _ _ | .tqpush _ _ _ _ | .tqdec _ _
  | .mbxsend _ _ _ | .mbxrecv _ _ _ _ | .sfork _ _ _ _ | .ssel _ _ | .sadv _ _ | .sactpop _ _ | .sactadd _ _
  | .sret _ _ | .sprune _ _ | .smigrate _ _ _ _ | .squery _ _ _ | .selsub _ _ _ _ | .selget _ _ _
  | .redsub _ _ _ _ | .sjoin _ _ _ | .umsub _ _ _ | .umcommit _ _ _ | .umdirty _ _ _ | .umstateConfigure _ _ _
  | .umstateStatus _ _ _ | .umstateMask _ _ _ | .umstateRelease _ _ _ | .csrr _ _ | .csrw _ _ | .csrset _ _
  | .csrclr _ _ | .trap _ _ | .eret | .idle _ | .dbrk _ | .halt _ | .capgive _ _ _ | .captake _ _ | .capq _ _
  | .digest _ | .quotasetVquota _ _ | .quotasetHquota _ _ | .quotasetSpill _ _ | .quotasetPoolAdd _ _
  | .quotasetPoolRemove _ _ | .quotasetSeqRange _ _ | .quotasetTaskRange _ _ | .keyselAssign _ _
  | .keyselRelease _ _ | .keyselImport _ _ | .modesetFeatures _ _ | .modesetSeed _ _ | .modesetRoot _ _
  | .modesetSystemFlag _ _ | .modesetComputeBudget _ _ | .modesetExchangeBudget _ _ | .modesetFrameMap _ _
  | .modesetLeaf _ _ | .modesetRegister _ _ | .modesetUnregister _ _ | .pfx _ | .phaseBoundary
  | .budgetExpiry _ | .messageAccept _ _ | .handlerPreemption _ _ | .spillFullRecord _ _
  | .continuationTake _ _ | .remoteUpdateApply _ _ _ | .mailboxDelivery _ _ | .capabilityMessageDelivery _
  | .sharingCountRaise _ | .referenceRelease _ | .exchangeUnitLanding _ _ _ | .transferComplete _ _ _
  | .copyComplete _ _ | .matrixOpComplete _ _ | .hbmAccessComplete _ _ _ _ | .pageWalkComplete _ _ _
  | .waitExpired _ _ _ | .linkTimeout _ _ _ | .linkTransferComplete _ _ _ | .linkPartnerStop _ _ _ _
  | .xbarRelease _ _ _ | .finialRound _ | .oculusRound _ _ | .smigrateReply _ _ _ _ | .launchComplete
  | .replicaFlit _ _ _ _ | .refreshDue _ _ _ _ _ | .postponedRefreshIssue _ _ _ | .arbiterInterval _ _ _ _ _
  | .thermalInterval _ _ _ _ | .thermalHold _ | .thermalTrip _ | .patrolScrub _ | .wearSample _ _ _ _
  | .qtailDoorbell _ _ _ | .queueEntryFetch _ | .launch | .preempt | .contextSaveComplete | .restore
  | .hold | .release | .attest | .attestationReportDone | .register | .unregister | .debug
  | .create | .destroy | .bindvf | .bindlink | .importkey | .warm | .windowRead _ _ _
  | .windowWrite _ _ _ | .bar0RegisterWrite _ _ _ | .flitCrcReplay _ | .portDown _ | .portUp _ | .coldStart _
  | .warmStart _ | .illegalInstructionWord _ | .instructionFetchFault | .streamTableRequest _ _ _
  | .streamTableReply _ _ _ | .taskTableRequest _ _ _ | .taskTableReply _ _ _ | .privilegedOperationReply _ _ _
  | .migratedStreamAdmission _ _ | .linkPartnerIssue _ _ _ _ _ _ | .refreshComplete _ _ _ => some i

/-- The words of an instruction for TRAPVAL (R63): its word as it stands in memory, and the prefix above it. -/
def trapWords (s : State) (i : Instr) : Word :=
  (match s.thr.pfx with
    | none => 0#32
    | some p => encode (.pfx p)) ++
  (match s.thr.frame, fetchFrom s s.actor.tid s.actor.core s.thr.pc with
    | some _, some (_, w) => w
    | _, _ => encode i)

/-- Vector registers of a slot (Table 2.2). -/
def State.vectorCount (s : State) : Nat := 16 * 2 ^ s.myLaunch.tmode

/-- Whether the thread may name a register: within its slot's count, its handler bank, and its tenant's share (R34, R35,
R38, R222). DEDUCED, log entry 52. -/
def regOk (s : State) (r : RegName) : Bool :=
  let top := s.thr.level = 0
  let sh := s.here.share
  match r with
  | .g n => top || n.toNat < 9
  | .flagged f n => if f = 0#1 then top || n.toNat < 9 else top && sh.q.getLsbD (n.toNat % 4)
  | .v n => top && n < s.vectorCount
  | .m _ => top
  | .md n => top && n != 0#3
  | .sh => top
  | .acc n => top && sh.acc.getLsbD n
  | .sem n => sh.sem.getLsbD n
  | .ring n => sh.ring.getLsbD n

/-- The 32 bytes of a shape record at `a`, address checks first (R62). DESIGN CHOICE, log entry 119. -/
def shapeAt (s : State) (a : LAddr) : Acc Shape :=
  if a.toNat % 32 ≠ 0 then .trap (misalignedAt a)
  else (place s a).bind (fun p => .ok (Shape.ofBytes (readHere s p 32)))

/-- The registers that an instruction names, with vd + 1 where VLDSH and VSTSH move mx4 data (R115). -/
def regsUsed (s : State) (i : Instr) : List RegName :=
  regsOf i ++ match i with
    | .vldsh d a _ | .vstsh d a _ => match shapeAt s ((s.reg a).setWidth 20) with
      | .ok r => if fmtIsMx r.fmt then [.v (d.toNat + 1)] else []
      | _ => []
    | _ => []

/-- Check 6: the matrix type combinations of Table 6.1, by code of Table 3.3. -/
def typeCombo (mx : Bool) (x y : BitVec 3) (k : BitVec 1) : Bool :=
  let int (c : BitVec 3) : Bool := c.toNat < 2
  let f8 (c : BitVec 3) : Bool := c = 2#3 || c = 3#3
  if k = 1#1 then int x && int y
  else (f8 x && f8 y) || (x = 4#3 && y = 4#3) || (x = 5#3 && y = 5#3) || (mx && x = 6#3 && y = 6#3)

/-- Check 6 of an instruction (R141). -/
def comboOk : Instr → Bool
  | .mma _ _ _ x y k => typeCombo false x y k
  | .mmat _ _ _ x y k => typeCombo true x y k
  | .mconv _ _ _ x y k => typeCombo false x y k
  | _ => true

/-- Whether an instruction reads or writes a CSR numbered above 0x0FF (R43). -/
def highCsr : Instr → Bool
  | .csrr _ c | .csrw _ c | .csrset _ c | .csrclr _ c => decide (0x100 ≤ c.toNat)
  | _ => false

/-- Whether the class fits the phase (R20). -/
def classOk (s : State) (c : PhaseClass) : Bool :=
  match c with
  | .either => true
  | .compute => !s.exchange
  | .exchange => s.exchange

/-- The cause of the first of checks 1 to 6 that fails, with TRAPAUX (Table 3.6). -/
def checks16 (s : State) (i : Instr) : Option (Cause × Word) :=
  if !i.wf then some (.illegalInstruction, 0#64)
  else if !(featuresOf i).all (fun b => s.myLaunch.feats.getLsbD b) then some (.illegalInstruction, 1#64)
  else if (privilegedOf i || highCsr i) && !s.myLaunch.priv then some (.privilege, 0#64)
  else if !classOk s (classOf i) then some (.phaseIllegal, 0#64)
  else if !(regsUsed s i).all (regOk s) then some (.illegalRegister, 0#64)
  else if !comboOk i then some (.typeCombo, 0#64)
  else none

/-! ### Check 7: shadow registers and records -/

/-- The M-format operand types as format codes (Table 3.3). -/
def typeFmt (c : BitVec 3) : Nat :=
  match c.toNat with
  | 0 => 0 | 1 => 4 | 2 => 8 | 3 => 9 | 4 => 10 | 5 => 11 | _ => 13

/-- Which formats an instruction accepts for the shadow register it selects (R114 to R130). -/
inductive FmtUse where
  | none
  | one (t : BitVec 2) (accept : Nat → Bool)

/-- The format a V or W instruction selects and what it accepts; VCVT and VXPND stand apart. -/
def fmtUse : Instr → FmtUse
  | .vld _ _ _ t | .vst _ _ _ t => .one t (fun _ => true)
  | .vlds _ _ _ t | .vsts _ _ _ t | .vgath _ _ _ t | .vscat _ _ _ t => .one t fmtPlain
  | .vadd _ _ _ t | .vsub _ _ _ t | .vmul _ _ _ t | .vmulh _ _ _ t | .vmin _ _ _ t | .vmax _ _ _ t
  | .vadds _ _ _ t | .vsubs _ _ _ t | .vsll _ _ _ t | .vsrl _ _ _ t | .vsra _ _ _ t => .one t fmtIsInt
  | .vand _ _ _ t | .vor _ _ _ t | .vxor _ _ _ t | .vandn _ _ _ t => .one t fmtPlain
  | .vcmp _ _ _ t _ => .one t fmtPlain
  | .vperm _ _ _ t | .vsel _ _ _ t | .vshuf _ _ _ t | .vslup _ _ _ t | .vsldn _ _ _ t | .vbcast _ _ _ t =>
    .one t fmtPlain
  | .vrsum _ _ t | .vrmax _ _ t | .vrmin _ _ t => .one t fmtPlain
  | .vhist _ _ t | .viota _ _ t => .one t fmtIsInt
  | .vcmpr _ _ t | .vpopc _ _ t => .one t fmtPlain
  | .vfadd _ _ _ t | .vfsub _ _ _ t | .vfmul _ _ _ t | .vfmin _ _ _ t | .vfmax _ _ _ t => .one t fmtIsFloat
  | .vfma _ _ _ t | .vfms _ _ _ t | .vfnma _ _ _ t | .vfnms _ _ _ t => .one t fmtIsFloat
  | .vexp2 _ _ t | .vlog2 _ _ t | .vrcp _ _ t | .vrsq _ _ t | .vtanh _ _ t | .vsigm _ _ t => .one t fmtIsFloat
  | .vqmx _ _ _ t | .vdqmx _ _ _ t => .one t fmtIsMx
  | .vord _ _ t | .vunord _ _ t => .one t fmtPlain
  | .vins _ _ _ t | .vext _ _ _ t | .vsplt _ _ t => .one t fmtPlain
  | .vrng _ k t => .one t (fun f => if k = 0#5 then fmtPlain f else f == 12)
  | _ => .none

def illegalAt7 (s : State) (i : Instr) : Trap := { cause := .illegalInstruction, val := trapWords s i }

/-- The 16 bytes of the mx4 scale record that sh4 names (R143, R148). -/
def scaleRecord (s : State) : Acc Nat :=
  let w := s.shadow 4
  let a : LAddr := w.setWidth 20
  if a.toNat % 16 ≠ 0 then .trap { cause := .misaligned, val := w, aux := 2#64 }
  else (place s a).bind (fun p => .ok (leNat (readHere s p 16)))

/-- A record of CPYSH, whose misaligned address is reported as that of CPY: the register's value and the operand's number
(R62, R185, R186). DEDUCED, log entry 122. -/
def copyRecord (s : State) (r : BitVec 5) (aux : Nat) : Acc Shape :=
  if (s.reg r).toNat % 32 ≠ 0 then .trap { cause := .misaligned, val := s.reg r, aux := BitVec.ofNat 64 aux }
  else shapeAt s ((s.reg r).setWidth 20)

/-- Depth K of a convolution (R145). DEDUCED, log entry 73. -/
def convDepth (r : Shape) : Nat := (if 2 ≤ r.ndim then r.ext.getD 2 1 else 1) * (r.win0 + 1) * (r.win1 + 1)

/-- Check 7 of Table 3.6: addresses of records, then reserved and refused values. -/
def check7 (s : State) (i : Instr) : Acc Unit :=
  let bad : Acc Unit := .trap (illegalAt7 s i)
  let ok (b : Bool) : Acc Unit := if b then .ok () else bad
  match i with
  | .vcvt _ _ p sf t =>
    let f := s.fmt t
    let g := s.fmt sf
    ok (shOk (s.shadow t.toNat) && shOk (s.shadow sf.toNat) && fmtPlain f && fmtPlain g &&
      decide (p.toNat < max (fmtWidth f) (fmtWidth g) / min (fmtWidth f) (fmtWidth g)))
  | .vxpnd _ _ p k t =>
    ok (shOk (s.shadow t.toNat) && s.fmt t == 8 && decide (p.toNat < if k = 0#2 || k = 3#2 then 2 else 1))
  | .vldsh _ a _ | .vstsh _ a _ => (shapeAt s ((s.reg a).setWidth 20)).bind (fun r => ok r.ok)
  | .cpysh d a _ _ =>
    (copyRecord s d 0).bind (fun r => (copyRecord s a 1).bind (fun q => ok (r.unclamped.ok && q.unclamped.ok && r.fmt == q.fmt)))
  | .mconv _ a b x y _ =>
    (shapeAt s ((s.reg a).setWidth 20)).bind (fun r => (shapeAt s ((s.reg b).setWidth 20)).bind (fun q =>
      ok (r.ok && q.unclamped.ok && r.fmt == typeFmt x && q.fmt == typeFmt y && decide (convDepth r ≤ 2048))))
  | .mmat _ _ _ x _ _ =>
    if x = 6#3 then (scaleRecord s).bind (fun r =>
      ok ((s.shadow 4).extractLsb' 20 44 == 0#44 && bitsOf r 36 28 == 0 && bitsOf r 100 28 == 0))
    else .ok ()
  | i => match fmtUse i with
    | .none => .ok ()
    | .one t acc => ok (shOk (s.shadow t.toNat) && acc (s.fmt t))

/-- A tenant's slots issue while it runs, or is only to be voided at the phase's end (R210, R213). -/
def TPhase.issues : TPhase → Bool
  | .run | .voiding false => true
  | _ => false

/-- A thread that may issue: ready, or in a wait that is tried again (R216, R180). -/
def Status.issues : Status → Bool
  | .ready | .waiting _ | .fenced _ _ => true
  | _ => false

/-- The actor's slot holds a thread that may issue. -/
def State.mayIssue (s : State) : Bool :=
  s.thr.live && s.thr.status.issues && (s.tenant s.actor.tid).phase.issues

/-- The one way an instruction issues (R62): checks 1 to 6, check 7, then its effect. DESIGN CHOICE, log entry 109. -/
def issue (i : Instr) (s : State) (effect : State → Out) : Out :=
  if !s.mayIssue then .fault .noThread
  else match checks16 s i with
    | some (c, aux) => trapOut { cause := c, val := trapWords s i, aux := aux } s
    | none => (check7 s i).out s (fun _ => effect s)

end Sys2Proof.Machine
end

