-- ==== Sys2Proof/Machine/Alu.lean ====
section
/-! DEFINITION. Scalar arithmetic (spec/05_scalar_vector.md R106 to R108, Tables 5.3 and 5.4). -/

namespace Sys2Proof.Machine

/-- 1 for true, 0 for false. -/
def boolWord (b : Bool) : Word := if b then 1#64 else 0#64

def aluAdd (x y : Word) : Word := x + y
def aluSub (x y : Word) : Word := x - y
def aluAnd (x y : Word) : Word := x &&& y
def aluOr (x y : Word) : Word := x ||| y
def aluXor (x y : Word) : Word := x ^^^ y
def aluAndn (x y : Word) : Word := x &&& ~~~y
/-- Shift amounts are y[5:0] (R106). -/
def aluSll (x y : Word) : Word := x <<< (y.toNat % 64)
def aluSrl (x y : Word) : Word := x >>> (y.toNat % 64)
def aluSra (x y : Word) : Word := x.sshiftRight (y.toNat % 64)
def aluMul (x y : Word) : Word := x * y
/-- Bits [127:64] of the signed product. -/
def aluMulh (x y : Word) : Word := BitVec.ofInt 64 (x.toInt * y.toInt / 2 ^ 64)
/-- Truncated quotient; all ones for division by zero; -2^63 by -1 gives -2^63 (R107). -/
def aluDiv (x y : Word) : Word := if y = 0#64 then BitVec.allOnes 64 else BitVec.ofInt 64 (x.toInt.tdiv y.toInt)
def aluDivu (x y : Word) : Word := if y = 0#64 then BitVec.allOnes 64 else BitVec.ofNat 64 (x.toNat / y.toNat)
/-- The sign follows the dividend; the dividend itself for division by zero (R107). -/
def aluRem (x y : Word) : Word := if y = 0#64 then x else BitVec.ofInt 64 (x.toInt.tmod y.toInt)
def aluSlt (x y : Word) : Word := boolWord (x.slt y)
def aluSltu (x y : Word) : Word := boolWord (x.ult y)
def aluMin (x y : Word) : Word := if x.slt y then x else y
def aluMax (x y : Word) : Word := if x.slt y then y else x
def aluMinu (x y : Word) : Word := if x.ult y then x else y
def aluMaxu (x y : Word) : Word := if x.ult y then y else x
/-- Leading zeros of the low `n` bits of `x`. -/
def leadingZeros (x : Word) : Nat → Nat
  | 0 => 0
  | n + 1 => if x.getLsbD n then 0 else 1 + leadingZeros x n
def aluClz (x : Word) : Word := BitVec.ofNat 64 (leadingZeros x 64)
/-- One bits among the low `n` bits of `x`. -/
def onesBelow (x : Nat) : Nat → Nat
  | 0 => 0
  | n + 1 => (if x.testBit n then 1 else 0) + onesBelow x n
def aluPopc (x : Word) : Word := BitVec.ofNat 64 (onesBelow x.toNat 64)

/-- An ALU instruction with two sources (R106): operand a is taken before operand b (R57); where a queue register is
empty or full the turn changes nothing (R39). -/
def alu2 (i : Instr) (op : Word → Word → Word) (d a b : BitVec 5) (p s r : BitVec 1) (st : State) : Out :=
  issue i st (fun st =>
    match aluSource r a st with
    | none => .next st
    | some (x, st1) => match aluSource s b st1 with
      | none => .next st
      | some (y, st2) => match aluDest p d (op x y) st2 with
        | none => .next st
        | some st3 => .next (retire st3))

/-- An ALU instruction with one source. -/
def alu1 (i : Instr) (op : Word → Word) (d a : BitVec 5) (p r : BitVec 1) (st : State) : Out :=
  issue i st (fun st =>
    match aluSource r a st with
    | none => .next st
    | some (x, st1) => match aluDest p d (op x) st1 with
      | none => .next st
      | some st2 => .next (retire st2))

/-- An immediate form: g[d] := op(g[a]) (R108). -/
def aluImm (i : Instr) (op : State → Word → Word) (d a : BitVec 5) (st : State) : Out :=
  issue i st (fun st => .next (retire (st.setReg d (op st (st.reg a)))))

/-- ADD (Table 5.3). DEDUCED, log entry 53. -/
def execAdd (d a b : BitVec 5) (p s r : BitVec 1) (st : State) : Out := alu2 (.add d a b p s r) aluAdd d a b p s r st
/-- SUB (Table 5.3). -/
def execSub (d a b : BitVec 5) (p s r : BitVec 1) (st : State) : Out := alu2 (.sub d a b p s r) aluSub d a b p s r st
/-- AND (Table 5.3). -/
def execAnd (d a b : BitVec 5) (p s r : BitVec 1) (st : State) : Out := alu2 (.and d a b p s r) aluAnd d a b p s r st
/-- OR (Table 5.3). -/
def execOr (d a b : BitVec 5) (p s r : BitVec 1) (st : State) : Out := alu2 (.or d a b p s r) aluOr d a b p s r st
/-- XOR (Table 5.3). -/
def execXor (d a b : BitVec 5) (p s r : BitVec 1) (st : State) : Out := alu2 (.xor d a b p s r) aluXor d a b p s r st
/-- ANDN (Table 5.3). -/
def execAndn (d a b : BitVec 5) (p s r : BitVec 1) (st : State) : Out := alu2 (.andn d a b p s r) aluAndn d a b p s r st
/-- SLL (Table 5.3). -/
def execSll (d a b : BitVec 5) (p s r : BitVec 1) (st : State) : Out := alu2 (.sll d a b p s r) aluSll d a b p s r st
/-- SRL (Table 5.3). -/
def execSrl (d a b : BitVec 5) (p s r : BitVec 1) (st : State) : Out := alu2 (.srl d a b p s r) aluSrl d a b p s r st
/-- SRA (Table 5.3). -/
def execSra (d a b : BitVec 5) (p s r : BitVec 1) (st : State) : Out := alu2 (.sra d a b p s r) aluSra d a b p s r st
/-- MUL (Table 5.3). -/
def execMul (d a b : BitVec 5) (p s r : BitVec 1) (st : State) : Out := alu2 (.mul d a b p s r) aluMul d a b p s r st
/-- MULH (Table 5.3). -/
def execMulh (d a b : BitVec 5) (p s r : BitVec 1) (st : State) : Out := alu2 (.mulh d a b p s r) aluMulh d a b p s r st
/-- DIV (Table 5.3). -/
def execDiv (d a b : BitVec 5) (p s r : BitVec 1) (st : State) : Out := alu2 (.div d a b p s r) aluDiv d a b p s r st
/-- DIVU (Table 5.3). -/
def execDivu (d a b : BitVec 5) (p s r : BitVec 1) (st : State) : Out := alu2 (.divu d a b p s r) aluDivu d a b p s r st
/-- REM (Table 5.3). -/
def execRem (d a b : BitVec 5) (p s r : BitVec 1) (st : State) : Out := alu2 (.rem d a b p s r) aluRem d a b p s r st
/-- SLT (Table 5.3). -/
def execSlt (d a b : BitVec 5) (p s r : BitVec 1) (st : State) : Out := alu2 (.slt d a b p s r) aluSlt d a b p s r st
/-- SLTU (Table 5.3). -/
def execSltu (d a b : BitVec 5) (p s r : BitVec 1) (st : State) : Out := alu2 (.sltu d a b p s r) aluSltu d a b p s r st
/-- MIN (Table 5.3). -/
def execMin (d a b : BitVec 5) (p s r : BitVec 1) (st : State) : Out := alu2 (.min d a b p s r) aluMin d a b p s r st
/-- MAX (Table 5.3). -/
def execMax (d a b : BitVec 5) (p s r : BitVec 1) (st : State) : Out := alu2 (.max d a b p s r) aluMax d a b p s r st
/-- MINU (Table 5.3). -/
def execMinu (d a b : BitVec 5) (p s r : BitVec 1) (st : State) : Out := alu2 (.minu d a b p s r) aluMinu d a b p s r st
/-- MAXU (Table 5.3). -/
def execMaxu (d a b : BitVec 5) (p s r : BitVec 1) (st : State) : Out := alu2 (.maxu d a b p s r) aluMaxu d a b p s r st
/-- CLZ (Table 5.3). -/
def execClz (d a : BitVec 5) (p r : BitVec 1) (st : State) : Out := alu1 (.clz d a p r) aluClz d a p r st
/-- POPC (Table 5.3). -/
def execPopc (d a : BitVec 5) (p r : BitVec 1) (st : State) : Out := alu1 (.popc d a p r) aluPopc d a p r st

/-- ADDI (Table 5.4). -/
def execAddi (d a : BitVec 5) (i : BitVec 16) (st : State) : Out :=
  aluImm (.addi d a i) (fun st x => x + immSigned st i) d a st
/-- ANDI (Table 5.4). -/
def execAndi (d a : BitVec 5) (i : BitVec 16) (st : State) : Out :=
  aluImm (.andi d a i) (fun st x => x &&& immZero st i) d a st
/-- ORI (Table 5.4). -/
def execOri (d a : BitVec 5) (i : BitVec 16) (st : State) : Out :=
  aluImm (.ori d a i) (fun st x => x ||| immZero st i) d a st
/-- XORI (Table 5.4). -/
def execXori (d a : BitVec 5) (i : BitVec 16) (st : State) : Out :=
  aluImm (.xori d a i) (fun st x => x ^^^ immZero st i) d a st
/-- SLLI (Table 5.4). -/
def execSlli (d a : BitVec 5) (n : BitVec 6) (st : State) : Out :=
  aluImm (.slli d a n) (fun _ x => x <<< n.toNat) d a st
/-- SRLI (Table 5.4). -/
def execSrli (d a : BitVec 5) (n : BitVec 6) (st : State) : Out :=
  aluImm (.srli d a n) (fun _ x => x >>> n.toNat) d a st
/-- SRAI (Table 5.4). -/
def execSrai (d a : BitVec 5) (n : BitVec 6) (st : State) : Out :=
  aluImm (.srai d a n) (fun _ x => x.sshiftRight n.toNat) d a st
/-- RORI (Table 5.4). -/
def execRori (d a : BitVec 5) (n : BitVec 6) (st : State) : Out :=
  aluImm (.rori d a n) (fun _ x => x.rotateRight n.toNat) d a st
/-- LI (Table 5.4). -/
def execLi (d : BitVec 5) (i : BitVec 16) (st : State) : Out :=
  aluImm (.li d i) (fun st _ => immSigned st i) d 0#5 st
/-- LIH (Table 5.4): the immediate's low 32 bits above g[a][31:0]. -/
def execLih (d a : BitVec 5) (i : BitVec 16) (st : State) : Out :=
  aluImm (.lih d a i) (fun st x => (immZero st i).extractLsb' 0 32 ++ x.extractLsb' 0 32) d a st

end Sys2Proof.Machine
end

