-- ==== Sys2Proof/Machine/Threads.lean ====
section
/-! DEFINITION. How threads start: launch threads, work packets, messages, continuations (spec/01_machine.md R31, R32;
spec/10_progress.md R219, R221, R222; spec/11_thread_isa.md R235, R236, R243 to R245; spec/20_device.md R377). -/

namespace Sys2Proof.Machine

/-- A tenant is in deterministic mode when every one of its launches is (R309). DEDUCED, log entry 78. -/
def tenantDet (s : State) (t : Nat) : Bool :=
  !(s.liveLaunches t).isEmpty && (s.liveLaunches t).all (fun n => (s.launchOf n).det)

/-- A slot that holds no thread. -/
def Slot.isFree (x : Slot) : Bool := !x.thread.live && x.handlers.isEmpty

/-- A launch that has been admitted is to start in a slot at the next compute phase (R229, R377). -/
def slotPromised (s : State) (t c n : Nat) : Bool :=
  (s.dev t).toStart.any (fun i => (s.launchOf i).cores.contains c && (s.launchOf i).slots.getLsbD n)

/-- The tenant's free slots on a core, the lowest number first (R221). -/
def freeSlots (s : State) (t c : Nat) : List Nat :=
  (List.range 16).filter (fun n => (s.coreOf t c).share.slots.getLsbD n && ((s.coreOf t c).slot n).isFree &&
    !slotPromised s t c n)

/-- HALT has ended a launch in this phase: nothing of it starts any more (R324). -/
def isHalted (s : State) (t launch : Nat) : Bool := (s.tenant t).halted.contains launch

/-- The slots of a core's share that hold a thread. -/
def liveSlots (k : TCore) : List Nat :=
  (List.range 16).filter (fun n => k.share.slots.getLsbD n && !(k.slot n).isFree)

/-- Registers g1, g2, ... from a list. -/
def regsFrom (first : Nat) (ws : List Word) : TMap Word :=
  (ws.zipIdx first).foldl (fun m p => if p.1 = 0#64 then m else TMap.set m p.2 p.1) []

/-- A slot of tenant `t` made ready for a thread: shadow registers and TRAPVEC as given, every other register and CSR of
the slot zero, PTENANT the tenant; the generator's EPOCH and RNGCTR belong to the slot and go on (R100, R236, R243, R318,
R377). DEDUCED, log entry 49. -/
def Slot.cleared (x : Slot) (t lane : Nat) (sh : List Word) (trapvec : Word) : Slot :=
  { sh := regsFrom 0 sh, trapvec := trapvec &&& 0xFFFFC#64, lane := lane, ptenant := BitVec.ofNat 64 t,
    rngctr := x.rngctr, epoch := x.epoch, bars := x.bars }

/-- SLOT.LANE of slot `n`: the launch's lane, equal to SLOT outside deterministic mode (R44, Table 2.7). -/
def Launch.lane (l : Launch) (n : Nat) : Nat := if l.det then l.lanes.getD n n else n

/-- A thread begins in slot `n` of core `c` (R236, R243, R377). DEDUCED, log entry 49, 54. DESIGN CHOICE, log entry 1. -/
def startThread (t c n : Nat) (th : Thread) (sh : List Word) (trapvec : Word) (s : State) : State :=
  let lane := (s.launchOf th.launch).lane n
  s.modSlotOf { tid := t, core := c, slot := n } (fun x =>
    { x.cleared t lane sh trapvec with
      thread := { th with live := true, status := .ready, pc := pcOf th.pc, birth := s.tick } })

/-! ### Arrivals -/

/-- An entry of the dispatch table of a tenant on a core (Table 2.8). -/
def dispatchEntry (s : State) (t c typ : Nat) : Nat := (s.dev t).ctl.readNat (ctlAddr c (0x3000 + 8 * typ)) 8

/-- The level an arrival is dispatched at: the entry's level for types 56 to 63, else 0 (R243). -/
def arrivalLevel (s : State) (t c : Nat) (m : Message) : Nat :=
  match m.kind with
  | .send => if 56 ≤ m.typ.toNat then bitsOf (dispatchEntry s t c m.typ.toNat) 20 2 else 0
  | _ => 0

/-- A spawn stops being outstanding at its dispatch (R240, R244). -/
def spawnDone (t : Nat) (m : Message) (s : State) : State :=
  match m.kind with
  | .spawn => s.modCoreOf t m.src (fun k => { k with spawns := k.spawns - 1 })
  | _ => s

/-- Whether the handler entry of a SEND is valid (R243). -/
def arrivalValid (s : State) (t c : Nat) (m : Message) : Bool :=
  match m.kind with
  | .send => bitOf (dispatchEntry s t c m.typ.toNat) 22
  | _ => true

/-- A message with an invalid entry leaves a fault-record entry with the type (R243). -/
def discardArrival (c : Nat) (m : Message) (s : State) : State :=
  record m.launch { cause := .illegalInstruction, core := c, slot := 0, value := m.typ.setWidth 64 } s

/-- KIND (Table 11.4). -/
def MsgKind.code : MsgKind → Nat
  | .send => 0 | .spawn => 1 | .migrate => 2 | .rupd => 3 | .mbxsend => 4 | .system => 5

/-- Message bytes 0x00 to 0x07 (Table 11.4). -/
def Message.word0 (t : Nat) (m : Message) : Word :=
  BitVec.ofNat 64 (m.src % 4096 + m.typ.toNat * 2 ^ 12 + m.kind.code * 2 ^ 18 + t % 64 * 2 ^ 21 + m.launch % 4096 * 2 ^ 27 +
    m.sid.toNat * 2 ^ 39 + m.sv.toNat * 2 ^ 57)

/-- The 80 bytes of a message (Table 11.4). -/
def Message.bytes (t : Nat) (m : Message) : List Byte :=
  natLe 8 (m.word0 t).toNat ++ natLe 8 (m.seq.toNat + m.pc.toNat * 2 ^ 32) ++
    (List.range 8).flatMap (fun i => natLe 8 (m.payload.getD i 0#64).toNat)

/-- STREAM with a stream named or not (Table 2.7). -/
def mkStream (sid : Nat) (sv : Bool) : Word := BitVec.ofNat 64 (sid % 262144 + sv.toNat * 2 ^ 31)

/-- The thread that a message starts at level `lv` (R243 to R245). -/
def arrivalThread (s : State) (t c lv : Nat) (m : Message) : Thread :=
  let base : Thread := { launch := m.launch, origin := 2, level := lv, live := true }
  match m.kind with
  | .send =>
    let pc := BitVec.ofNat 20 (dispatchEntry s t c m.typ.toNat)
    if lv = 0 then { base with pc := pc, g := regsFrom 1 (m.payload ++ [m.word0 t, m.seq.setWidth 64]) }
    else { base with pc := pcOf pc, g := regsFrom 1 m.payload }
  | .migrate => { base with pc := m.pc, g := regsFrom 1 m.payload, stream := mkStream m.sid.toNat m.sv }
  | _ => { base with pc := m.pc, g := regsFrom 1 m.payload }

/-- A level-0 arrival dispatched into slot `n` (R221). -/
def dispatchArrival (t c n : Nat) (m : Message) (s : State) : State :=
  let l := s.launchOf m.launch
  spawnDone t m (startThread t c n (arrivalThread s t c 0 m) l.sh l.trapvec s)

/-- Entries of the arrival queue that a tenant may use: its share as its launch set it, up to all 64 where it is the core's
only tenant; that another tenant comes or goes does not change it (R219, R294, R310). DEDUCED, log entry 145. -/
def arrqRoom (s : State) (t c : Nat) : Nat := (s.coreOf t c).share.arrq

/-- Spill-ring entries move into the arrival queue in ring order while its share has room; the reserve frames of the
ring fall free at the commit (R219, R221). -/
def refillQueue (t c : Nat) (s : State) : State :=
  s.modCoreOf t c (fun k =>
    let n := min k.spill.length (arrqRoom s t c - k.arrq.length)
    { k with arrq := k.arrq ++ k.spill.take n, spill := k.spill.drop n })

/-- An arrival taken out of the queue or the spill ring. -/
def removeArrival (t c : Nat) (m : Message) (s : State) : State :=
  s.modCoreOf t c (fun k => if k.arrq.contains m then { k with arrq := k.arrq.erase m }
    else { k with spill := k.spill.erase m })

/-- The order of two messages in deterministic mode: source core, then send sequence (R175, R221). -/
def msgBefore (a b : Message) : Bool := decide (a.src < b.src) || (a.src == b.src && decide (a.seq.toNat ≤ b.seq.toNat))

/-- Insertion into a list kept in the order `le`. -/
def insertBy {α : Type} (le : α → α → Bool) (x : α) : List α → List α
  | [] => [x]
  | y :: t => if le x y then x :: y :: t else y :: insertBy le x t
/-- A list put in the order `le`, equal elements keeping their order. -/
def sortBy {α : Type} (le : α → α → Bool) (xs : List α) : List α := xs.foldr (insertBy le) []

/-- The arrivals of a level in dispatch order: by source and sequence over queue and ring in deterministic mode, else in
queue order with the ring behind (R221). -/
def arrivalsOf (s : State) (t c lv : Nat) : List Message :=
  let k := s.coreOf t c
  let ms := (k.arrq ++ k.spill).filter (fun m => arrivalLevel s t c m == lv && !isHalted s t m.launch)
  if tenantDet s t then sortBy msgBefore ms else ms

/-- Level-0 arrivals given to free slots in order, an invalid one discarded (R221, R243). -/
def dispatchLevel0 (t c : Nat) : Nat → State → State
  | 0, s => s
  | fuel + 1, s =>
    match arrivalsOf s t c 0 with
    | [] => s
    | m :: _ =>
      if !arrivalValid s t c m then
        dispatchLevel0 t c fuel (refillQueue t c (discardArrival c m (removeArrival t c m s)))
      else match freeSlots s t c with
        | [] => s
        | n :: _ => dispatchLevel0 t c fuel (refillQueue t c (dispatchArrival t c n m (removeArrival t c m s)))

/-- Arrivals that a core holds. -/
def TCore.waiting (k : TCore) : Nat := k.arrq.length + k.spill.length

/-! ### Handlers of levels 1 to 3 (R222) -/

/-- Stopped by a debug hold (R354). -/
def Status.isStopped : Status → Bool
  | .stopped _ => true
  | _ => false

/-- The slot that a handler of level `lv` takes: a free one, else the one with the lowest level below `lv`, and among
those the highest number, at its next instruction boundary: between a prefix and its word it is not split, and the handler
waits (R65, R222). A held slot counts like any other: the handler issues there while its own thread is held (R215); one that a
debug hold has stopped issues nothing (R354). DEDUCED, log entry 129, 139. -/
def handlerSlot (s : State) (t c lv : Nat) : Option Nat :=
  match freeSlots s t c with
  | n :: _ => some n
  | [] =>
    let k := s.coreOf t c
    let cand := (liveSlots k).filter (fun n => decide ((k.slot n).top.level < lv) && !(k.slot n).top.status.isStopped)
    let best := cand.foldl (fun m n => min m ((k.slot n).top.level)) 4
    ((cand.filter (fun n => (k.slot n).top.level == best)).getLast?).filter (fun n => (k.slot n).top.pfx.isNone)

/-- A wait that pre-emption abandons: the instruction is executed in full when the slot resumes (R180, R237). -/
def Thread.abandonWait (th : Thread) : Thread :=
  match th.status with
  | .waiting (.semwait _ _ _ _) | .waiting (.ringwait _ _ _ _) | .waiting (.ringrsv _ _ _ _) | .waiting (.mbxrecv _ _ _ _)
  | .waiting (.join _) => { th with status := .ready }
  | _ => th

/-- An arrival of level 1 to 3 dispatched into slot `n` (R222, R243): a free slot is made ready for it with the launch's
initial values; over a thread the slot's registers stand for it, and its wait is abandoned. The handler has sh0-sh7 and TRAPVEC
of its own, with the launch's initial values. DEDUCED, log entry 48, 54. -/
def startHandler (t c n lv : Nat) (m : Message) (s : State) : State :=
  let l := s.launchOf m.launch
  let th := { arrivalThread s t c lv m with
    status := .ready, birth := s.tick, sh := regsFrom 0 l.sh, trapvec := l.trapvec &&& 0xFFFFC#64 }
  s.modSlotOf { tid := t, core := c, slot := n } (fun x =>
    if x.isFree then { x.cleared t (l.lane n) l.sh l.trapvec with handlers := [th] }
    else { x.setTop x.top.abandonWait with handlers := th :: (x.setTop x.top.abandonWait).handlers })

/-- One arrival of level 3, 2 or 1 dispatched where a slot can take it; none when no arrival can. -/
def dispatchHandler (t c : Nat) (s : State) : Option State :=
  [3, 2, 1].findSome? (fun lv =>
    match arrivalsOf s t c lv with
    | [] => none
    | m :: _ =>
      if !arrivalValid s t c m then some (refillQueue t c (discardArrival c m (removeArrival t c m s)))
      else (handlerSlot s t c lv).map (fun n =>
        refillQueue t c (startHandler t c n lv m (removeArrival t c m s))))

/-- All arrivals of levels 3 to 1 that can be dispatched (R221, R222). -/
def dispatchHandlers (t c : Nat) : Nat → State → State
  | 0, s => s
  | fuel + 1, s => match dispatchHandler t c s with
    | none => s
    | some s' => dispatchHandlers t c fuel s'

/-! ### Work packets (R53, R221, R337) -/

/-- Word `j` of work packet `i` of a tenant on a core (Tables 2.8 and 2.12). -/
def packetWord (s : State) (t c i j : Nat) : Word :=
  BitVec.ofNat 64 ((s.dev t).ctl.readNat (ctlAddr c (0x3200 + 64 * i + 8 * j)) 8)

/-- sh0 to sh7 that a packet gives its task (R53). -/
def packetShadows (s : State) (t c i : Nat) : List Word :=
  let f := packetWord s t c i 1
  [f &&& 0xFF#64, (f >>> 8) &&& 0xFF#64, (f >>> 16) &&& 0xFF#64, (f >>> 24) &&& 0xFF#64] ++
    (List.range 4).map (fun j => packetWord s t c i (2 + j))

/-- Packets whose task has not started, in work-ring order: the oldest first. DESIGN CHOICE, log entry 151. -/
def waitingPackets (s : State) (t c : Nat) : List (Nat × Packet) :=
  sortBy (fun a b => decide (a.2.issued < b.2.issued) || (a.2.issued == b.2.issued && decide (a.2.seq ≤ b.2.seq)))
    ((s.coreOf t c).packets.filter (fun p => !p.2.taken && !p.2.ended && !isHalted s t p.2.launch))

/-- The task of packet `i` starts in slot `n` at the entry address of its launch (R337). DEDUCED, log entry 59. -/
def startPacket (t c n i : Nat) (p : Packet) (s : State) : State :=
  let l := s.launchOf p.launch
  let th : Thread := { launch := p.launch, origin := 1, pc := l.entry, packet := i }
  startThread t c n th (packetShadows s t c i) l.trapvec
    (s.modCoreOf t c (fun k => { k with packets := k.packets.set i { p with taken := true } }))

/-- Work packets given to free slots in work-ring order (R221); there are at most four. -/
def dispatchPackets (t c : Nat) (s : State) : State :=
  (waitingPackets s t c).foldl (fun s p => match freeSlots s t c with
    | [] => s
    | n :: _ => startPacket t c n p.1 p.2 s) s

/-- In throughput mode a slot that frees takes the next waiting arrival at the first cycle after the thread's end has retired:
one of levels 3 to 1 in either phase, a packet or one of level 0 in a compute phase (R221, R222); the step does this after a
turn. -/
def slotFreed (t c : Nat) (s : State) : State :=
  if tenantDet s t then s
  else
    let s := dispatchHandlers t c ((s.coreOf t c).waiting + 1) s
    if s.exchange then s else dispatchLevel0 t c ((s.coreOf t c).waiting + 1) (dispatchPackets t c s)

/-! ### Continuations (R235, R236) -/

/-- A continuation started in slot `n`. -/
def startCont (t c n : Nat) (k : Cont) (s : State) : State :=
  let th : Thread :=
    { launch := k.launch, origin := 3, pc := k.pc, g := regsFrom 1 k.g, stream := k.stream, join := k.join }
  startThread t c n th (s.launchOf k.launch).sh k.trapvec s

/-- The oldest continuation of a core that may start, and the lowest-numbered free slot (R236). -/
def nextCont (s : State) (t c : Nat) (slots : List Nat) : Option (Cont × Nat) :=
  match (s.coreOf t c).deque.filter (fun k => !isHalted s t k.launch), slots with
  | k :: _, n :: _ => some (k, n)
  | _, _ => none

/-- A continuation leaves the deque for slot `n`. -/
def takeInto (t c : Nat) (k : Cont) (n : Nat) (s : State) : State :=
  startCont t c n k (s.modCoreOf t c (fun x => { x with deque := x.deque.erase k }))

/-- At a compute-phase start the oldest continuation is taken by the lowest-numbered free slot (R236). -/
def takeCont (t c : Nat) (s : State) : Option State :=
  (nextCont s t c (freeSlots s t c)).map (fun x => takeInto t c x.1 x.2 s)

/-- A free slot is a deterministic one where all live launches of the tenant that name it on the core are (R217).
DEDUCED, log entry 78. -/
def freeSlotDet (s : State) (t c n : Nat) : Bool :=
  let ls := ((s.liveLaunches t).map s.launchOf).filter (fun l => l.cores.contains c && l.slots.getLsbD n)
  !ls.isEmpty && ls.all (·.det)

/-- Active slots of a core: those of the thread mode of the launches that are live on it (Table 2.2). -/
def slotCount (s : State) (c : Nat) : Nat :=
  match s.launches.find? (fun p => p.2.live && !p.2.waiting && p.2.cores.contains c) with
  | some p => 16 / 2 ^ p.2.tmode
  | none => 16

/-- The first turn of slot `n` after turn `k`, of `N` slots (R216). -/
def ownTurn (N n k : Nat) : Nat := k + 1 + (n + N - (k + 1) % N) % N

/-- In throughput mode the oldest continuation is also taken within a phase, by the lowest-numbered free throughput slot; its
thread issues first in the slot's first turn after the take cycle (R236). A continuation of a deterministic launch waits for the
next compute-phase start, and those behind it wait with it. DEDUCED, log entry 78. -/
def takeNow (t c : Nat) (s : State) : Option State :=
  match nextCont s t c ((freeSlots s t c).filter (fun n => !freeSlotDet s t c n)) with
  | none => none
  | some (k, n) =>
    if (s.launchOf k.launch).det then none
    else
      let ct := s.rot.get c {}
      let first : SlotTurn := { birth := s.tick, next := ownTurn (slotCount s c) n ct.turn }
      some { takeInto t c k n s with rot := s.rot.set c { ct with slots := ct.slots.set n first } }

/-! ### Arrival at a phase's end (R139, R199, R200, R208) -/

/-- A thread that counts as arrived. -/
def Status.arrives : Status → Bool
  | .arrived | .idle _ | .held _ | .stopped _ => true
  | _ => false

/-- A slot has arrived (R208). -/
def Slot.hasArrived (x : Slot) : Bool := x.isFree || x.top.status.arrives

/-- A core has arrived for a tenant: its slots have, and no operation of the tenant holds it back (R139, R200, R208). -/
def TCore.hasArrived (k : TCore) : Bool :=
  (List.range 16).all (fun n => !k.share.slots.getLsbD n || (k.slot n).hasArrived) &&
    k.mq.isEmpty && k.cq.isEmpty && k.xq.isEmpty && k.links.isEmpty && k.port.isEmpty

/-- A number put into a rising list, once. -/
def addOnce (x : Nat) : List Nat → List Nat
  | [] => [x]
  | y :: t => if x < y then x :: y :: t else if x = y then y :: t else y :: addOnce x t
/-- The numbers of a list, each once, rising. -/
def sortedSet (xs : List Nat) : List Nat := xs.foldr addOnce []

/-- The cores of the core masks of a tenant's live launches. -/
def tenantCores (s : State) (t : Nat) : List Nat :=
  sortedSet ((s.liveLaunches t).flatMap (fun n => (s.launchOf n).cores))

/-- Every core of a tenant has arrived for it (R208). -/
def coresArrived (s : State) (t : Nat) : Bool := (tenantCores s t).all (fun c => (s.coreOf t c).hasArrived)

end Sys2Proof.Machine
end

