-- ==== Sys2Proof/Machine/Control.lean ====
section
/-! DEFINITION. Branches, compare-skip, repeat frames, the prefix, FORK, JOIN, QUIT and YIELD, and the two ways a fetch
gives no instruction (spec/03_encoding.md R55, R62 to R71; spec/05_scalar_vector.md R109; spec/11_thread_isa.md R235 to
R239). -/

namespace Sys2Proof.Machine

/-! ### Branches (R109) -/

/-- W + 4·off, modulo 2^20. -/
def wordTarget (s : State) (off : Word) : LAddr := s.wordAddr + (off <<< 2).setWidth 20

/-- BR. -/
def execBr (o : BitVec 26) (s : State) : Out :=
  issue (.br o) s (fun s => .next (jump (wordTarget s (immSigned s o)) s))

/-- JAL: g31 holds the address after the branch word. -/
def execJal (o : BitVec 26) (s : State) : Out :=
  issue (.jal o) s (fun s =>
    .next (jump (wordTarget s (immSigned s o)) (s.setReg 31#5 ((s.wordAddr + 4#20).setWidth 64))))

/-- JALR: g[a] is read before g[d] is written; an unaligned target traps with nothing changed. -/
def execJalr (d a : BitVec 5) (o : BitVec 16) (s : State) : Out :=
  issue (.jalr d a o) s (fun s =>
    let t : LAddr := (s.reg a + immSigned s o).setWidth 20
    if t.toNat % 4 ≠ 0 then trapOut (misalignedAt t) s
    else .next (jump t (s.setReg d ((s.wordAddr + 4#20).setWidth 64))))

/-- A branch on whether a register is zero. -/
def branchIf (taken : Bool) (o : BitVec 16) (s : State) : State :=
  jump (if taken then wordTarget s (immSigned s o) else s.wordAddr + 4#20) s

/-- BZ. -/
def execBz (a : BitVec 5) (o : BitVec 16) (s : State) : Out :=
  issue (.bz a o) s (fun s => .next (branchIf (s.reg a == 0#64) o s))

/-- BNZ. -/
def execBnz (a : BitVec 5) (o : BitVec 16) (s : State) : Out :=
  issue (.bnz a o) s (fun s => .next (branchIf (s.reg a != 0#64) o s))

/-! ### Compare-skip (R66, R67) -/

/-- Table 3.8. -/
def skipHolds (c : BitVec 3) (x y : Word) : Bool :=
  match c.toNat with
  | 0 => x == y
  | 1 => x != y
  | 2 => x.slt y
  | 3 => !x.slt y
  | 4 => x.ult y
  | 5 => !x.ult y
  | 6 => x &&& y != 0#64
  | _ => x &&& y == 0#64

/-- The address `n` instruction positions after `p`: a prefix and its word are one position (R66). -/
def skipOver (s : State) (p : LAddr) : Nat → Acc LAddr
  | 0 => .ok p
  | n + 1 => (fetchHere s p).bind (fun w =>
      skipOver s (if w.extractLsb' 26 6 = 0x3F#6 then p + 8#20 else p + 4#20) n)

/-- A compare-skip: where the condition holds it annuls `k` positions and forgoes `k` turns (R67). -/
def compareSkip (c : BitVec 3) (k : BitVec 2) (x y : Word) (s : State) : Out :=
  if skipHolds c x y then
    (skipOver s (s.wordAddr + 4#20) k.toNat).out s (fun p =>
      .next (wait (.yielding k.toNat) (jump p s)))
  else .next (jump (s.wordAddr + 4#20) s)

/-- CSKIP. -/
def execCskip (c : BitVec 3) (k : BitVec 2) (a b : BitVec 5) (s : State) : Out :=
  issue (.cskip c k a b) s (fun s => compareSkip c k (s.reg a) (s.reg b) s)

/-- CSKIPI. -/
def execCskipi (c : BitVec 3) (k : BitVec 2) (a : BitVec 5) (i : BitVec 11) (s : State) : Out :=
  issue (.cskipi c k a i) s (fun s => compareSkip c k (s.reg a) (immSigned s i) s)

/-! ### Repeat frames (R68 to R71) -/

/-- The stagger that a code names (R68). -/
def staggerOf (c : BitVec 2) : Nat := if c = 3#2 then 4 else c.toNat

/-- A captured instruction as replay `k` executes it (R70). -/
def staggered (f : RepFrame) (k : Nat) (i : Instr) : Option Instr :=
  stagger (if f.fd then f.st * k else 0) (if f.fa then f.st * k else 0) (if f.fb then f.st * k else 0) i

/-- The registers whose fields a stagger moves: of a group, the one named (R69, R115). -/
def fieldRegs (i : Instr) : List RegName :=
  match i with
  | .vqmx d a b _ | .vdqmx d a b _ => [.v d.toNat, .v a.toNat, .v b.toNat]
  | i => regsOf i

/-- What R69 finds wrong with one captured word. -/
def checkCaptured (s : State) (f : RepFrame) (w : IWord) : Option (Cause × Word) :=
  match decode w with
  | .error _ => some (.illegalInstruction, 0#64)
  | .ok i =>
    if !repeatable i then some (.illegalInstruction, 0#64)
    else match checks16 s i with
      | some e => some e
      | none => match staggered f (f.cnt - 1) i with
        | none => some (.illegalRegister, 0#64)
        | some j => if (fieldRegs j).all (regOk s) then none else some (.illegalRegister, 0#64)

/-- The captured words checked in order from `a` (R69). DESIGN CHOICE, log entry 120. -/
def checkFrame (s : State) (f : RepFrame) (a : LAddr) : Nat → Acc Unit
  | 0 => .ok ()
  | n + 1 => (fetchHere s a).bind (fun w =>
      match checkCaptured s f w with
      | some (c, aux) => .trap { cause := c, val := w.setWidth 64, aux := aux }
      | none => checkFrame s f (a + 4#20) n)

/-- The frame that a REP word opens after it (R68). -/
def frameOf (base : LAddr) (z y x : BitVec 1) (st : BitVec 2) (c : BitVec 8) (l : BitVec 4) : RepFrame :=
  { base := base, len := l.toNat + 1, cnt := c.toNat + 1, st := staggerOf st, fd := x == 1#1, fa := y == 1#1,
    fb := z == 1#1 }

/-- REP: the captured words are checked, then the frame begins (R69, R70). -/
def execRep (z y x : BitVec 1) (st : BitVec 2) (c : BitVec 8) (l : BitVec 4) (s : State) : Out :=
  issue (.rep z y x st c l) s (fun s =>
    let base := s.wordAddr + 4#20
    let f := frameOf base z y x st c l
    (checkFrame s f base f.len).out s (fun _ =>
      .next ((jump base s).modThr (fun th => { th with frame := some f }))))

/-! ### The prefix (R64, R65) -/

/-- The prefix: check 1 on the pair, then one turn that changes no state but that the pair is under way. The pair traps
as one, with the following word in TRAPVAL (R63). Where the following word does not translate, it traps at the prefix with
LOCAL_UNMAPPED and that word's address (R65). DEDUCED, log entry 136. -/
def execPfx (p : BitVec 26) (s : State) : Out :=
  if !s.mayIssue then .fault .noThread
  else (fetchHere s (s.pc + 4#20)).out s (fun w =>
    let bad := trapOut { cause := .illegalInstruction, val := encode (.pfx p) ++ w } s
    match decode w with
    | .error _ => bad
    | .ok i =>
      if takesPrefix p i then .next (s.modThr (fun th => { th with pfx := some p, pfxWord := w, status := .ready }))
      else bad)

/-! ### Fetches that give no instruction -/

/-- A word that is no instruction: check 1 of Table 3.6 (R62, R63). -/
def execIllegalInstructionWord (w : BitVec 32) (s : State) : Out :=
  if !s.mayIssue then .fault .noThread
  else trapOut { cause := .illegalInstruction, val := w.setWidth 64 } s

/-- A fetch at a PC that does not translate: LOCAL_UNMAPPED with TRAPPC and TRAPVAL the PC (R55). At a PC that does,
nothing is due. -/
def execInstructionFetchFault (s : State) : Out :=
  if !s.mayIssue then .fault .noThread
  else (fetchHere s s.pc).out s (fun _ => .next s)

/-! ### Threads (R235 to R239) -/

/-- FORK (R235). -/
def execFork (d a b : BitVec 5) (j : BitVec 1) (s : State) : Out :=
  issue (.fork d a b j) s (fun s =>
    let t : LAddr := (s.reg a).setWidth 20
    if t.toNat % 4 ≠ 0 then trapOut { cause := .misaligned, val := s.reg a } s
    else if s.here.share.deq ≤ s.here.deque.length then .next (retire (s.setReg d 1#64))
    else if j = 1#1 ∧ s.sem b.toNat = BitVec.allOnes 32 then .next (retire (s.setReg d 2#64))
    else
      let k : Cont :=
        { pc := t, g := [s.reg 1#5, s.reg 2#5, s.reg 3#5, s.reg 4#5], stream := s.thr.stream,
          trapvec := s.trapvec, join := if j = 1#1 then some b.toNat else none, launch := s.thr.launch }
      let s := if j = 1#1 then s.setSem b.toNat (s.sem b.toNat + 1#32) else s
      let s := s.modHere (fun c => { c with deque := c.deque ++ [k] })
      .next (retire (s.setReg d 0#64)))

/-- JOIN: passes when the semaphore is zero (R237). -/
def execJoin (a : BitVec 5) (s : State) : Out :=
  issue (.join a) s (fun s =>
    if s.sem a.toNat = 0#32 then .next (retire s) else .next (wait (.waiting (.join a)) s))

/-- No operation that the slot issued is under way (R200, R238). -/
def slotQuiet (s : State) : Bool :=
  let n := s.actor.slot
  !s.here.xq.any (fun x => x.slot == n) && !s.here.mq.any (fun x => x.slot == n) &&
    !s.here.cq.any (fun x => x.slot == n) && !s.here.links.any (fun x => x.slot == n) &&
    !s.here.port.any (fun x => x.slot == n)

/-- QUIT (R238). -/
def execQuit (s : State) : Out :=
  issue .quit s (fun s =>
    if slotQuiet s then .next (freeThread s) else .next (wait (.waiting .quit) s))

/-- YIELD gives up the next n turns (R239). -/
def execYield (n : BitVec 5) (s : State) : Out :=
  issue (.yield n) s (fun s =>
    .next (retireInto (if n = 0#5 then .ready else .yielding n.toNat) s))

end Sys2Proof.Machine
end

