-- ==== Sys2Proof/Machine/Numbers.lean ====
section
/-! DEFINITION. The arithmetic promise (spec/04_numbers.md): exact values, one rounding, saturation, NaNs, special
functions. A finite value is a sign, a magnitude `m`·2^`e`, and a mark that something non-zero lies below the last bit
of `m`, which makes results that no fraction can hold exact enough for one rounding. -/

namespace Sys2Proof.Machine

/-! ### Exact values -/

/-- A finite real: `(-1)^neg · (m + ε) · 2^e`, with 0 < ε < 1 when `sticky` and ε = 0 otherwise. -/
structure Real where
  neg    : Bool
  m      : Nat
  e      : Int
  sticky : Bool := false
  deriving DecidableEq, Repr

/-- What a floating code stands for (R81). -/
inductive FVal where
  | nan
  | inf (neg : Bool)
  | fin (x : Real)
  deriving DecidableEq, Repr

/-- Bits of a number. -/
def bitLen (n : Nat) : Nat := if n = 0 then 0 else Nat.log2 n + 1

/-- The integer `m·2^k` for an integer exponent, rounded down. -/
def shiftInt (m : Nat) (k : Int) : Nat := if 0 ≤ k then m * 2 ^ k.toNat else m / 2 ^ (-k).toNat

/-- The signed magnitude of an exact value at exponent `q`, at or below its own. -/
def Real.scaled (x : Real) (q : Int) : Int :=
  let n : Int := (x.m * 2 ^ (x.e - q).toNat : Nat)
  if x.neg then -n else n

/-- An exact value from a signed integer at exponent `q`. -/
def realOf (v : Int) (q : Int) : Real := { neg := decide (v < 0), m := v.natAbs, e := q }

/-- Exact sum of two exact values; a zero sum has `neg` false and the caller gives its sign (R86). -/
def Real.add (x y : Real) : Real :=
  let q := min x.e y.e
  realOf (x.scaled q + y.scaled q) q

/-- Exact product. -/
def Real.mul (x y : Real) : Real := { neg := x.neg != y.neg, m := x.m * y.m, e := x.e + y.e }
def Real.negate (x : Real) : Real := { x with neg := !x.neg }
/-- Order of two exact values. -/
def Real.lt (x y : Real) : Bool :=
  let q := min x.e y.e
  decide (x.scaled q < y.scaled q)
def Real.eq (x y : Real) : Bool :=
  let q := min x.e y.e
  x.scaled q == y.scaled q

/-! ### Formats (Table 4.2) -/

/-- Fraction bits. -/
def fracBits (f : Nat) : Nat :=
  match f with
  | 8 => 3 | 9 => 2 | 10 => 7 | 11 => 10 | 12 => 23 | _ => 1
def expBias (f : Nat) : Nat :=
  match f with
  | 8 => 7 | 9 => 15 | 10 => 127 | 11 => 15 | 12 => 127 | _ => 1
/-- Code of the largest finite magnitude. -/
def maxCode (f : Nat) : Nat :=
  match f with
  | 8 => 0x7E | 9 => 0x7B | 10 => 0x7F7F | 11 => 0x7BFF | 12 => 0x7F7FFFFF | _ => 0x7
/-- Code of +∞, where the format has one. -/
def infCode (f : Nat) : Option Nat :=
  match f with
  | 9 => some 0x7C | 10 => some 0x7F80 | 11 => some 0x7C00 | 12 => some 0x7F800000 | _ => none
/-- The canonical NaN without sign (R91, R94). -/
def nanCode (f : Nat) : Nat :=
  match f with
  | 8 => 0x7F | 9 => 0x7E | 10 => 0x7FC0 | 11 => 0x7E00 | _ => 0x7FC00000
/-- The quiet bit, zero for e4m3 (R91). -/
def quietBit (f : Nat) : Nat :=
  match f with
  | 9 => 2 | 10 => 0x40 | 11 => 0x200 | 12 => 0x400000 | _ => 0
/-- The sign bit's weight. -/
def signBit (f : Nat) : Nat := 2 ^ (fmtWidth f - 1)
/-- Exponent of the least significant bit of a subnormal. -/
def leastExp (f : Nat) : Int := 1 - (expBias f : Int) - (fracBits f : Int)

def codeNeg (f c : Nat) : Bool := decide (signBit f ≤ c % (2 * signBit f))
def codeMag (f c : Nat) : Nat := c % signBit f
/-- A NaN code: above infinity, or above the largest finite code where there is no infinity (Table 4.2). -/
def isNan (f c : Nat) : Bool := decide ((infCode f).getD (maxCode f) < codeMag f c)
/-- A signalling NaN (Table 4.2); e4m3 has none. -/
def isSignalling (f c : Nat) : Bool := isNan f c && quietBit f != 0 && (c / quietBit f % 2 == 0)

/-- The value of a code (R81). -/
def fvalue (f c : Nat) : FVal :=
  let mag := codeMag f c
  if isNan f c then .nan
  else if infCode f = some mag then .inf (codeNeg f c)
  else
    let ef := mag / 2 ^ fracBits f
    let fr := mag % 2 ^ fracBits f
    if ef = 0 then .fin { neg := codeNeg f c, m := fr, e := leastExp f }
    else .fin { neg := codeNeg f c, m := 2 ^ fracBits f + fr, e := (ef : Int) - (expBias f : Int) - (fracBits f : Int) }

/-- A code from sign and magnitude code. -/
def mkCode (f : Nat) (neg : Bool) (mag : Nat) : Nat := if neg then signBit f + mag else mag

/-! ### Rounding (R86, R87) -/

/-- The magnitude of `x` rounded to a multiple of 2^q, in units of 2^q, and whether that is inexact. `draw` serves
stochastic rounding. -/
def roundAt (q : Int) (mode draw : Nat) (x : Real) : Nat × Bool :=
  let sh := (q - x.e).toNat
  let n := shiftInt x.m (x.e - q)
  let rem := x.m % 2 ^ sh
  let inexact := decide (rem ≠ 0) || x.sticky
  let half := 2 ^ sh / 2
  let up : Bool :=
    match mode with
    | 0 => if sh = 0 then false
           else decide (half < rem) || (rem == half && (x.sticky || n % 2 == 1))
    | 1 => false
    | 2 => inexact && !x.neg
    | 3 => inexact && x.neg
    | _ => decide (2 ^ 32 ≤ rem * 2 ^ 32 / 2 ^ sh + draw)
  (if up then n + 1 else n, inexact)

/-- The exponent of the last bit of the candidates around `x` in format `f`, exponents unbounded above. -/
def quantum (f : Nat) (x : Real) : Int :=
  max (leastExp f) ((bitLen x.m : Int) - 1 + x.e - (fracBits f : Int))

/-- The magnitude code of `x` rounded into `f`, codes running on above the largest finite one, and inexactness. -/
def roundCode (f mode draw : Nat) (x : Real) : Nat × Bool :=
  let q := quantum f x
  let (n, inexact) := roundAt q mode draw x
  ((q - leastExp f).toNat * 2 ^ fracBits f + n, inexact)

/-- A result: a code and the flags it raises. -/
structure Res where
  code  : Nat
  flags : FlagSet := 0#6
  deriving DecidableEq, Repr

/-- The mode in which a value is rounded: one above the largest finite value is not rounded by its draw (R87). -/
def effectiveMode (f mode : Nat) (x : Real) : Nat :=
  if mode = 4 then
    let (c, inexact) := roundCode f 1 0 x
    if maxCode f < c || (c == maxCode f && inexact) then 0 else 4
  else mode

/-- A finite value rounded once into format `f`, saturated to the magnitude code `bound`, or overflowing to infinity as
IEEE 754 prescribes where there is no bound (R86 to R89, R99). A zero keeps the sign `x.neg`. -/
def roundInto (f mode draw : Nat) (bound : Option Nat) (x : Real) : Res :=
  if x.m = 0 && !x.sticky then { code := mkCode f x.neg 0 }
  else
    let md := effectiveMode f mode x
    let (c, inexact) := roundCode f md draw x
    let nx : FlagSet := if inexact then flagNX else 0#6
    let uf : FlagSet := if inexact && decide (c < 2 ^ fracBits f) then flagUF else 0#6
    let tooBig := decide (maxCode f < c)
    match bound with
    | some b =>
      if b < c then
        { code := mkCode f x.neg b, flags := flagCL ||| flagNX ||| (if tooBig then flagOF else 0#6) ||| uf }
      else { code := mkCode f x.neg c, flags := nx ||| uf }
    | none =>
      if tooBig then
        let toInf : Bool := match md with
          | 1 => false
          | 2 => !x.neg
          | 3 => x.neg
          | _ => true
        { code := mkCode f x.neg (if toInf then (infCode f).getD (maxCode f) else maxCode f),
          flags := flagOF ||| flagNX }
      else { code := mkCode f x.neg c, flags := nx ||| uf }

/-- The bound of a result without a shape record: none for f32, else the format's largest finite value (R88). -/
def plainBound (f : Nat) : Option Nat := if f = 12 then none else some (maxCode f)

/-- An infinite result in format `f` under a bound (R89). -/
def infInto (f : Nat) (bound : Option Nat) (neg : Bool) : Res :=
  let b := bound.getD (maxCode f)
  match infCode f with
  | some c => if b = maxCode f then { code := mkCode f neg c } else { code := mkCode f neg b, flags := flagCL }
  | none => { code := mkCode f neg b, flags := flagCL }

/-- The bound of a shape record for a float format: the magnitude code that CLAMP stands for (R88). -/
def clampBound (f clamp : Nat) : Nat :=
  if clamp = 0 then maxCode f
  else match fvalue 12 clamp with
    | .fin x => min (roundCode f 1 0 x).1 (maxCode f)
    | _ => maxCode f

/-! ### NaNs and arithmetic (R91) -/

/-- The first NaN of a list of operand codes with its quiet bit set, and NV if any operand signals. -/
def nanResult (f : Nat) (ops : List Nat) : Option Res :=
  match ops.find? (isNan f) with
  | none => none
  | some c => some { code := if quietBit f != 0 && c / quietBit f % 2 == 0 then c + quietBit f else c,
                     flags := if ops.any (isSignalling f) then flagNV else 0#6 }

/-- The default NaN of an invalid operation. -/
def invalid (f : Nat) : Res := { code := nanCode f, flags := flagNV }

/-- The sign of an exact zero sum (R86). DEDUCED, log entry 80. -/
def zeroSumNeg (mode : Nat) (x y : Real) : Bool :=
  mode == 3 || (x.m == 0 && y.m == 0 && x.neg && y.neg)

/-- Rounded sum of two values (neither NaN). -/
def addVals (f mode draw : Nat) (bound : Option Nat) (x y : FVal) : Res :=
  match x, y with
  | .nan, _ | _, .nan => invalid f
  | .inf a, .inf b => if a = b then infInto f bound a else invalid f
  | .inf a, _ => infInto f bound a
  | _, .inf b => infInto f bound b
  | .fin a, .fin b =>
    let r := a.add b
    if r.m = 0 then { code := mkCode f (zeroSumNeg mode a b) 0 } else roundInto f mode draw bound r

/-- Exact product of two values; none for 0 × ∞. -/
def mulVals (x y : FVal) : Option FVal :=
  match x, y with
  | .nan, _ | _, .nan => some .nan
  | .inf a, .inf b => some (.inf (a != b))
  | .inf a, .fin y => if y.m = 0 then none else some (.inf (a != y.neg))
  | .fin x, .inf b => if x.m = 0 then none else some (.inf (x.neg != b))
  | .fin x, .fin y => some (.fin (x.mul y))

def FVal.negate (x : FVal) : FVal :=
  match x with
  | .nan => .nan
  | .inf n => .inf (!n)
  | .fin x => .fin x.negate

/-- VFADD, VFSUB: `sub` turns the sign of the second addend. -/
def fAdd (f mode draw : Nat) (sub : Bool) (a b : Nat) : Res :=
  match nanResult f [a, b] with
  | some r => r
  | none =>
    let y := fvalue f b
    addVals f mode draw (plainBound f) (fvalue f a) (if sub then y.negate else y)

def fMul (f mode draw a b : Nat) : Res :=
  match nanResult f [a, b] with
  | some r => r
  | none => match mulVals (fvalue f a) (fvalue f b) with
    | none => invalid f
    | some (.fin x) => roundInto f mode draw (plainBound f) x
    | some (.inf n) => infInto f (plainBound f) n
    | some .nan => invalid f

/-- The fused forms: a·b with its sign turned or not, plus c with its sign turned or not, rounded once (R125). -/
def fFma (f mode draw : Nat) (negP negC : Bool) (a b c : Nat) : Res :=
  match nanResult f [a, b, c] with
  | some r => r
  | none => match mulVals (fvalue f a) (fvalue f b) with
    | none => invalid f
    | some p =>
      let z := fvalue f c
      addVals f mode draw (plainBound f) (if negP then p.negate else p) (if negC then z.negate else z)

/-- The order of two non-NaN codes by value with −0 below +0 (R91), as signed magnitudes. -/
def orderVal (f c : Nat) : Int := if codeNeg f c then -((codeMag f c : Int) + 1) else (codeMag f c : Int)

/-- VFMIN (least) and VFMAX: exact, a NaN where an operand is one. -/
def fMinMax (f : Nat) (least : Bool) (a b : Nat) : Res :=
  match nanResult f [a, b] with
  | some r => r
  | none =>
    let a' := orderVal f a
    let b' := orderVal f b
    { code := if least then (if b' < a' then b else a) else (if a' < b' then b else a) }

/-! ### Widening and narrowing (R92 to R94) -/

/-- The tagged f32 NaN of a narrow NaN (Table 4.3). -/
def taggedNan (f c : Nat) : Nat :=
  (if codeNeg f c then 2 ^ 31 else 0) + 0x7F800000 + 2 ^ 22 + 2 ^ 21 + f * 2 ^ 16 + c % 2 ^ fmtWidth f

/-- A code widened to f32, exactly (R92, R93). -/
def widen (f c : Nat) : Nat :=
  if f = 12 then c
  else match fvalue f c with
    | .nan => taggedNan f c
    | .inf n => mkCode 12 n 0x7F800000
    | .fin x => (roundInto 12 1 0 none x).code

/-- Whether an f32 NaN is tagged for `f` (R92). -/
def taggedFor (f c : Nat) : Bool :=
  bitsOf c 20 3 == 6 && bitsOf c 16 4 == f && decide (c % 2 ^ 16 < 2 ^ fmtWidth f)

/-- An f32 NaN narrowed to `f` (R94). -/
def narrowNan (f c : Nat) : Res :=
  let neg := codeNeg 12 c
  { code := if f = 12 then c
            else if taggedFor f c then mkCode f neg (codeMag f (c % 2 ^ fmtWidth f))
            else mkCode f neg (nanCode f)
    flags := if isSignalling 12 c then flagNV else 0#6 }

/-- An f32 code narrowed to a float format under a bound (R86 to R89, R94). -/
def narrow (f mode draw : Nat) (bound : Option Nat) (c : Nat) : Res :=
  match fvalue 12 c with
  | .nan => narrowNan f c
  | .inf n => infInto f bound n
  | .fin x => roundInto f mode draw bound x

/-! ### Conversions (R90, R127) -/

/-- An integer saturated to the range of a format (R80, R88). -/
def satInt (f : Nat) (v : Int) : Res :=
  if v < intLeast f then { code := ofSigned (fmtWidth f) (intLeast f), flags := flagCL }
  else if intGreatest f < v then { code := ofSigned (fmtWidth f) (intGreatest f), flags := flagCL }
  else { code := ofSigned (fmtWidth f) v }

/-- The mode in which a value is rounded to an integer: one whose magnitude exceeds the format's greatest value is not
rounded by its draw (R87). DEDUCED, log entry 114. -/
def intMode (f mode : Nat) (x : Real) : Nat :=
  if mode = 4 && (realOf (intGreatest f) 0).lt { x with neg := false } then 0 else mode

/-- Float to integer (R90), with OF where the rounded magnitude is above the format's greatest value (R89).
DEDUCED, log entry 81, 114. -/
def floatToInt (f mode draw : Nat) (x : FVal) : Res :=
  match x with
  | .nan => { code := 0, flags := flagNV }
  | .inf n => { code := ofSigned (fmtWidth f) (if n then intLeast f else intGreatest f), flags := flagNV ||| flagCL }
  | .fin x =>
    let (n, inexact) := roundAt 0 (intMode f mode x) draw x
    let v : Int := if x.neg then -(n : Int) else (n : Int)
    let r := satInt f v
    let big := decide (intGreatest f < (n : Int))
    { r with flags := r.flags |||
        (if r.flags = 0#6 then 0#6 else flagNV ||| flagNX ||| (if big then flagOF else 0#6)) |||
        (if inexact then flagNX else 0#6) }

/-- An integer converted to an integer format: one that does not fit is saturated, with CL and NX, and with OF where its
magnitude is above the format's greatest value (R88, R89, R127). DEDUCED, log entry 81. -/
def intToInt (f : Nat) (v : Int) : Res :=
  let r := satInt f v
  if r.flags = 0#6 then r
  else { r with flags := flagCL ||| flagNX ||| (if intGreatest f < (v.natAbs : Int) then flagOF else 0#6) }

/-- Conversion of one element from format `sf` to format `df` (R127). DEDUCED, log entry 81. -/
def convert (sf df mode draw c : Nat) : Res :=
  if sf = df then { code := c }
  else if fmtIsInt sf then
    (if fmtIsInt df then intToInt df (intValue sf c)
     else
       let v := intValue sf c
       if v = 0 then { code := 0 } else roundInto df mode draw (some (maxCode df)) (realOf v 0))
  else if fmtIsInt df then floatToInt df mode draw (fvalue sf c)
  else if df = 12 then { code := widen sf c }
  else narrow df mode draw (some (maxCode df)) (widen sf c)

/-! ### Order keys (R130) -/

/-- VORD. -/
def orderKey (f c : Nat) : Nat :=
  let w := fmtWidth f
  let M := 2 ^ (w - 1)
  let m := c % M
  if fmtIsInt f then (if fmtSigned f then (if c < M then c + M else c - M) else c)
  else
    let T := (infCode f).getD (maxCode f)
    if !isNan f c && codeNeg f c then T - m
    else if !codeNeg f c then T + 1 + m
    else M + m

/-- VUNORD, the inverse map. -/
def unorderKey (f k : Nat) : Nat :=
  let w := fmtWidth f
  let M := 2 ^ (w - 1)
  if fmtIsInt f then (if fmtSigned f then (if k < M then k + M else k - M) else k)
  else
    let T := (infCode f).getD (maxCode f)
    if k ≤ T then M + (T - k)
    else if k ≤ T + M then k - T - 1
    else k

/-! ### Special functions (R126): bounds by integers at scale 2^p, then one rounding -/

/-- Σ x^k/k! for x at scale 2^p, `n` terms from term `t` numbered `k`. -/
def expSeries (x p : Nat) : Nat → Nat → Nat → Nat
  | 0, _, _ => 0
  | n + 1, k, t => t + expSeries x p n (k + 1) (t * x / 2 ^ p / k)

/-- e^x for 0 ≤ x < 2 at scale 2^p. -/
def expFix (x p : Nat) : Nat := expSeries x p (p / 2 + 30) 1 (2 ^ p)

/-- Σ z^(2k+1)/(2k+1), `n` terms from power `t` and odd divisor `k`. -/
def atanhSeries (zz p : Nat) : Nat → Nat → Nat → Nat
  | 0, _, _ => 0
  | n + 1, k, t => t / k + atanhSeries zz p n (k + 2) (t * zz / 2 ^ p)

/-- ln y for 1 ≤ y ≤ 2 at scale 2^p. -/
def lnFix (y p : Nat) : Nat :=
  let z := (y - 2 ^ p) * 2 ^ p / (y + 2 ^ p)
  2 * atanhSeries (z * z / 2 ^ p) p (p / 3 + 20) 1 z

/-- ln 2 at scale 2^p. -/
def ln2Fix (p : Nat) : Nat := lnFix (2 * 2 ^ p) p

/-- e^(-x) for x ≥ 0 at scale 2^p. -/
def expNegFix (x p : Nat) : Nat :=
  let l := ln2Fix p
  let n := x / l
  expFix (l - x % l) p / 2 ^ (n + 1)

/-- ln of a positive integer `v` at scale 2^p over 2^k: ln(v / 2^k), signed. -/
def lnRatio (v k p : Nat) : Int :=
  let b := bitLen v - 1
  let y := if b ≤ p then v * 2 ^ (p - b) else v / 2 ^ (b - p)
  (lnFix y p : Int) + ((b : Int) - (k : Int)) * (ln2Fix p : Int)

/-- Seventy leading bits of a magnitude known to lie in [lo, hi] at scale 2^p, if they are settled. -/
def settle (neg : Bool) (lo hi p : Nat) : Option Real :=
  let l := bitLen lo
  if l ≤ 70 then none
  else if lo / 2 ^ (l - 70) = hi / 2 ^ (l - 70) then
    some { neg := neg, m := lo / 2 ^ (l - 70), e := ((l - 70 : Nat) : Int) - (p : Int), sticky := true }
  else none

/-- A value computed at rising precision until its leading bits are settled. `g p` is the signed value at scale 2^p with
an error below 2^64. -/
def refine (g : Nat → Int) : Nat → Nat → Real
  | 0, p => let v := g p; { neg := decide (v < 0), m := v.natAbs, e := -(p : Int), sticky := true }
  | n + 1, p =>
    let v := g p
    match settle (decide (v < 0)) (v.natAbs - 2 ^ 64) (v.natAbs + 2 ^ 64) p with
    | some r => r
    | none => refine g n (2 * p)

/-- Values whose magnitude lies between a power of two times 1 − 2^-200 and that power, or just above zero. -/
def justBelow (neg : Bool) (m : Nat) (e : Int) : Real :=
  { neg := neg, m := m * 2 ^ 200 - 1, e := e - 200, sticky := true }
def tiny (neg : Bool) : Real := { neg := neg, m := 1, e := -4000, sticky := true }
def huge (neg : Bool) : Real := { neg := neg, m := 1, e := 4000, sticky := true }

/-- A value at scale 2^p, rounded down; below zero too. -/
def fixOf (x : Real) (p : Nat) : Int :=
  let n : Int := (shiftInt x.m (x.e + (p : Int)) : Nat)
  if x.neg then -n else n

/-- |x| < 2^k. -/
def belowPow (x : Real) (k : Int) : Bool := decide ((bitLen x.m : Int) + x.e ≤ k)

/-- 2^x. -/
def exp2Real (x : Real) : Real :=
  if x.m = 0 then { neg := false, m := 1, e := 0 }
  else if !belowPow x 11 then (if x.neg then tiny false else huge false)
  else if decide (0 ≤ x.e) || x.m % 2 ^ (-x.e).toNat = 0 then { neg := false, m := 1, e := fixOf x 0 }
  else
    let p0 := 320
    let i := fixOf x p0 / 2 ^ p0
    let r := refine (fun p =>
      let v := fixOf x p
      let fr := (v - i * 2 ^ p).toNat
      (expFix (fr * ln2Fix p / 2 ^ p) p : Nat)) 5 p0
    { r with e := r.e + i }

/-- log2 x for x > 0. -/
def log2Real (x : Real) : Real :=
  let b := bitLen x.m - 1
  if x.m = 2 ^ b then realOf ((b : Int) + x.e) 0
  else refine (fun p =>
    let y := x.m * 2 ^ p / 2 ^ b
    (lnFix y p * 2 ^ p / ln2Fix p : Nat) + ((b : Int) + x.e) * 2 ^ p) 5 320

/-- The integer square root, bit by bit. -/
def isqrt (y : Nat) : Nat → Nat → Nat
  | 0, r => r
  | n + 1, r => if (r + 2 ^ n) * (r + 2 ^ n) ≤ y then isqrt y n (r + 2 ^ n) else isqrt y n r

/-- 1/x for x not zero. -/
def rcpReal (x : Real) : Real :=
  let k := bitLen x.m + 80
  { neg := x.neg, m := 2 ^ k / x.m, e := -(k : Int) - x.e, sticky := decide (2 ^ k % x.m ≠ 0) }

/-- 1/√x for x > 0. -/
def rsqReal (x : Real) : Real :=
  let m := if x.e % 2 = 0 then x.m else 2 * x.m
  let e := if x.e % 2 = 0 then x.e else x.e - 1
  let k := bitLen m + 80
  let r := isqrt (2 ^ (2 * k) / m) (k + 1) 0
  { neg := false, m := r, e := -(k : Int) - e / 2, sticky := decide (r * r * m ≠ 2 ^ (2 * k)) }

/-- tanh x for x not zero. -/
def tanhReal (x : Real) : Real :=
  if belowPow x (-40) then justBelow x.neg x.m x.e
  else if !belowPow x 6 then justBelow x.neg 1 0
  else refine (fun p =>
    let e := expNegFix (2 * (fixOf { x with neg := false } p).toNat) p
    let v : Int := ((2 ^ p - e) * 2 ^ p / (2 ^ p + e) : Nat)
    if x.neg then -v else v) 5 320

/-- 1/(1 + e^-x) for x not zero. -/
def sigmReal (x : Real) : Real :=
  if !belowPow x 8 then (if x.neg then tiny false else justBelow false 1 0)
  else refine (fun p =>
    let e := expNegFix (fixOf { x with neg := false } p).toNat p
    (if x.neg then (e * 2 ^ p / (2 ^ p + e) : Nat) else (2 ^ p * 2 ^ p / (2 ^ p + e) : Nat))) 5 640

/-- The special functions (Table 5.7). -/
inductive Special where
  | exp2 | log2 | rcp | rsq | tanh | sigm
  deriving DecidableEq, Repr

/-- A value or an infinity that a special function gives, with DZ at a pole, or none outside its domain. -/
def specialVal (g : Special) (x : FVal) : Option (FVal × FlagSet) :=
  match g, x with
  | _, .nan => none
  | .exp2, .inf n => some (if n then .fin { neg := false, m := 0, e := 0 } else .inf false, 0#6)
  | .exp2, .fin x => some (.fin (exp2Real x), 0#6)
  | .log2, .inf n => if n then none else some (.inf false, 0#6)
  | .log2, .fin x =>
    if x.m = 0 then some (.inf true, flagDZ) else if x.neg then none else some (.fin (log2Real x), 0#6)
  | .rcp, .inf n => some (.fin { neg := n, m := 0, e := 0 }, 0#6)
  | .rcp, .fin x => if x.m = 0 then some (.inf x.neg, flagDZ) else some (.fin (rcpReal x), 0#6)
  | .rsq, .inf n => if n then none else some (.fin { neg := false, m := 0, e := 0 }, 0#6)
  | .rsq, .fin x =>
    if x.m = 0 then some (.inf x.neg, flagDZ) else if x.neg then none else some (.fin (rsqReal x), 0#6)
  | .tanh, .inf n => some (.fin { neg := n, m := 1, e := 0 }, 0#6)
  | .tanh, .fin x => some (.fin (if x.m = 0 then x else tanhReal x), 0#6)
  | .sigm, .inf n => some (.fin { neg := false, m := if n then 0 else 1, e := 0 }, 0#6)
  | .sigm, .fin x => some (.fin (if x.m = 0 then { neg := false, m := 1, e := -1 } else sigmReal x), 0#6)

/-- One element of a special function. -/
def fSpecial (f mode draw : Nat) (g : Special) (c : Nat) : Res :=
  match nanResult f [c] with
  | some r => r
  | none => match specialVal g (fvalue f c) with
    | none => invalid f
    | some (.fin x, fl) => let r := roundInto f mode draw (plainBound f) x; { r with flags := r.flags ||| fl }
    | some (.inf n, fl) => let r := infInto f (plainBound f) n; { r with flags := r.flags ||| fl }
    | some (.nan, _) => invalid f

/-- −ln(−ln u) for u = (2k + 1)·2^-24, rounded to nearest even (R104, R135): NX only. -/
def gumbel (k : Nat) : Res :=
  let r := refine (fun p =>
    let a := (0 - lnRatio (2 * k + 1) 24 p).toNat
    (0 - lnRatio a p p)) 5 320
  { code := (roundInto 12 0 0 none r).code, flags := flagNX }

/-! ### Reductions (R98) and f32 sums -/

/-- One level of the pairwise tree. -/
def pairUp (op : Nat → Nat → Res) : List Nat → List Res
  | a :: b :: t => op a b :: pairUp op t
  | [a] => [{ code := a }]
  | [] => []

/-- The tree over a list of f32 codes; `n` levels. DEDUCED, log entry 79. -/
def treeReduce (op : Nat → Nat → Res) : Nat → List Nat → Res
  | 0, es => { code := es.headD 0 }
  | n + 1, es =>
    let l := pairUp op es
    let r := treeReduce op n (l.map (·.code))
    { r with flags := l.foldl (fun a x => a ||| x.flags) r.flags }

/-- f32 sum rounded to nearest even, never saturated (R175, R264, R273). -/
def f32Add (a b : Nat) : Res := fAdd 12 0 0 false a b

/-- f32 quotient by a positive integer, rounded to nearest even (R274). -/
def f32DivNat (a n : Nat) : Nat :=
  match fvalue 12 a with
  | .fin x =>
    if x.m = 0 then a
    else
      let k := 80 + bitLen n
      (roundInto 12 0 0 none
        { neg := x.neg, m := x.m * 2 ^ k / n, e := x.e - (k : Int), sticky := decide (x.m * 2 ^ k % n ≠ 0) }).code
  | .inf _ => a
  | .nan => ((nanResult 12 [a]).getD { code := a }).code

end Sys2Proof.Machine
end

