-- ==== Sys2Proof/Machine/Random.lean ====
section
/-! DEFINITION. The counter-based generator and its draws (spec/04_numbers.md R100 to R104; spec/05_scalar_vector.md R116,
R133 to R135). -/

namespace Sys2Proof.Machine

/-- One round of Gen (R101). -/
def genRound (k0 x y : Word) : Word :=
  let x := (x ^^^ k0) * 0xD6E8FEB86659FD93#64
  (x ^^^ (x >>> 32)) + y

def genRounds (k0 : Word) : Nat → Word → Word → Word
  | 0, x, _ => x
  | n + 1, x, y => genRounds k0 n (genRound k0 x y) (y + 0x9E3779B97F4A7C15#64)

/-- Gen(k0, k1, c) (R101). -/
def gen (k0 k1 c : Word) : Word :=
  let x := genRounds k0 8 c k1
  x ^^^ (x >>> 29)

/-- K0 of the actor's tenant and K1 of its slot (R100). -/
def State.key0 (s : State) : Word := (s.tenant s.actor.tid).seed
def State.key1 (s : State) : Word :=
  s.slotHere.epoch ++ BitVec.ofNat 16 (16 * s.actor.core + s.slotHere.lane)

/-- The word of counter value RNGCTR + m. -/
def State.genWord (s : State) (m : Nat) : Word := gen s.key0 s.key1 (s.slotHere.rngctr + BitVec.ofNat 64 m)

/-- An instruction that needs `n` counter values: RANDOM_EXHAUSTED with nothing changed where they are not left (R103),
else the words, and RNGCTR advanced by `n` (R102). -/
def withWords (n : Nat) (s : State) (k : State → (Nat → Word) → Out) : Out :=
  if 2 ^ 64 ≤ s.slotHere.rngctr.toNat + n then
    trapOut { cause := .randomExhausted, val := s.slotHere.rngctr, aux := BitVec.ofNat 64 n } s
  else k (s.modSlot (fun x => { x with rngctr := x.rngctr + BitVec.ofNat 64 n })) s.genWord

/-- An instruction that takes `n` draws of 32 bits, in pairs from the words (R102). -/
def withDraws (n : Nat) (s : State) (k : State → (Nat → Nat) → Out) : Out :=
  if n = 0 then k s (fun _ => 0)
  else withWords ((n + 1) / 2) s (fun s w =>
    k s (fun i => if i % 2 = 0 then (w (i / 2)).toNat % 2 ^ 32 else (w (i / 2)).toNat / 2 ^ 32))

/-- RNG (R133). -/
def execRng (a : BitVec 5) (s : State) : Out :=
  issue (.rng a) s (fun s => withWords 1 s (fun s w => .next (retire (s.setReg a (w 0)))))

/-- RNGKEY (R134). -/
def execRngkey (a : BitVec 5) (s : State) : Out :=
  issue (.rngkey a) s (fun s =>
    let e := s.reg a
    .next (retire (s.modSlot (fun x => { x with epoch := e.setWidth 48, rngctr := 0#64 }))))

/-- The uniform value of a word, as its index k of (2k + 1)·2^-24 (R104). -/
def uniformIndex (w : Word) : Nat := w.toNat / 2 ^ 41
def uniformCode (w : Word) : Nat := (roundInto 12 0 0 none { neg := false, m := 2 * uniformIndex w + 1, e := -24 }).code

end Sys2Proof.Machine
end

