-- ==== Sys2Proof/Machine/VectorInt.lean ====
section
/-! DEFINITION. Vector integer, logic, compare, permute, reductions, counts, moves, masks (spec/05_scalar_vector.md R114,
R115, R120 to R124, R131, R132, R135). -/

namespace Sys2Proof.Machine

/-- Elements of width `w` of a register with the results given in place of the old ones; none keeps the old. -/
def vmerge (old : VReg) (w : Nat) (rs : List (Option Nat)) : VReg :=
  vof w (rs.zipIdx.map (fun p => p.1.getD (velem old w p.2)))

/-- The flags of the results computed. -/
def flagsOf (rs : List (Option Res)) : FlagSet :=
  rs.foldl (fun a r => match r with
    | none => a
    | some r => a ||| r.flags) 0#6

/-- An elementwise instruction (R115, R116): every active element i of the destination takes `op i draw_i`, with E draws
where it rounds stochastically. -/
def vecOp (i : Instr) (d : BitVec 7) (t : BitVec 2) (rounds : Bool)
    (op : State → Nat → Nat → Nat → Nat → Res) (s : State) : Out :=
  issue i s (fun s =>
    let f := s.fmt t
    let n := fmtCount f
    withDraws (if rounds && s.rnd t == 4 then n else 0) s (fun s draw =>
      let m := s.amask
      let rs := (List.range n).map (fun i => if active m i then some (op s f (s.rnd t) (draw i) i) else none)
      .next (retire (raiseFlags (flagsOf rs)
        (s.setVreg d.toNat (vmerge (s.vreg d.toNat) (fmtWidth f) (rs.map (·.map (·.code)))))))))

/-- An elementwise instruction on the elements of va and vb that neither rounds nor draws. -/
def vecBin (i : Instr) (d a b : BitVec 7) (t : BitVec 2) (op : Nat → Nat → Nat → Res) (s : State) : Out :=
  vecOp i d t false (fun s f _ _ i =>
    op f (velem (s.vreg a.toNat) (fmtWidth f) i) (velem (s.vreg b.toNat) (fmtWidth f) i)) s

/-- A result of an integer modulo 2^w. -/
def wrapRes (f : Nat) (v : Int) : Res := { code := ofSigned (fmtWidth f) v }

def viAdd (f x y : Nat) : Res := wrapRes f ((x : Int) + (y : Int))
def viSub (f x y : Nat) : Res := wrapRes f ((x : Int) - (y : Int))
def viMul (f x y : Nat) : Res := wrapRes f ((x : Int) * (y : Int))
/-- Product [2w−1:w], signed or unsigned by the format. -/
def viMulh (f x y : Nat) : Res := wrapRes f (intValue f x * intValue f y / 2 ^ fmtWidth f)
def viMin (f x y : Nat) : Res := { code := if intValue f y < intValue f x then y else x }
def viMax (f x y : Nat) : Res := { code := if intValue f x < intValue f y then y else x }
def viAdds (f x y : Nat) : Res := satInt f (intValue f x + intValue f y)
def viSubs (f x y : Nat) : Res := satInt f (intValue f x - intValue f y)
def viAnd (_ x y : Nat) : Res := { code := x &&& y }
def viOr (_ x y : Nat) : Res := { code := x ||| y }
def viXor (_ x y : Nat) : Res := { code := x ^^^ y }
def viAndn (f x y : Nat) : Res := { code := x &&& (2 ^ fmtWidth f - 1 - y) }
def viSll (f x y : Nat) : Res := { code := x * 2 ^ (y % fmtWidth f) % 2 ^ fmtWidth f }
def viSrl (f x y : Nat) : Res := { code := x / 2 ^ (y % fmtWidth f) }
/-- VSRA of one element: bit w − 1 is copied (Table 5.6). DESIGN CHOICE, log entry 160. -/
def viSra (f x y : Nat) : Res := wrapRes f (toSigned (fmtWidth f) x / 2 ^ (y % fmtWidth f))

/-- VADD (Table 5.6). -/
def execVadd (d a b : BitVec 7) (t : BitVec 2) (s : State) : Out := vecBin (.vadd d a b t) d a b t viAdd s
/-- VSUB (Table 5.6). -/
def execVsub (d a b : BitVec 7) (t : BitVec 2) (s : State) : Out := vecBin (.vsub d a b t) d a b t viSub s
/-- VMUL (Table 5.6). -/
def execVmul (d a b : BitVec 7) (t : BitVec 2) (s : State) : Out := vecBin (.vmul d a b t) d a b t viMul s
/-- VMULH (Table 5.6). -/
def execVmulh (d a b : BitVec 7) (t : BitVec 2) (s : State) : Out := vecBin (.vmulh d a b t) d a b t viMulh s
/-- VMIN (Table 5.6). -/
def execVmin (d a b : BitVec 7) (t : BitVec 2) (s : State) : Out := vecBin (.vmin d a b t) d a b t viMin s
/-- VMAX (Table 5.6). -/
def execVmax (d a b : BitVec 7) (t : BitVec 2) (s : State) : Out := vecBin (.vmax d a b t) d a b t viMax s
/-- VADDS (Table 5.6). -/
def execVadds (d a b : BitVec 7) (t : BitVec 2) (s : State) : Out := vecBin (.vadds d a b t) d a b t viAdds s
/-- VSUBS (Table 5.6). -/
def execVsubs (d a b : BitVec 7) (t : BitVec 2) (s : State) : Out := vecBin (.vsubs d a b t) d a b t viSubs s
/-- VAND (Table 5.6). -/
def execVand (d a b : BitVec 7) (t : BitVec 2) (s : State) : Out := vecBin (.vand d a b t) d a b t viAnd s
/-- VOR (Table 5.6). -/
def execVor (d a b : BitVec 7) (t : BitVec 2) (s : State) : Out := vecBin (.vor d a b t) d a b t viOr s
/-- VXOR (Table 5.6). -/
def execVxor (d a b : BitVec 7) (t : BitVec 2) (s : State) : Out := vecBin (.vxor d a b t) d a b t viXor s
/-- VANDN (Table 5.6). -/
def execVandn (d a b : BitVec 7) (t : BitVec 2) (s : State) : Out := vecBin (.vandn d a b t) d a b t viAndn s
/-- VSLL (Table 5.6). -/
def execVsll (d a b : BitVec 7) (t : BitVec 2) (s : State) : Out := vecBin (.vsll d a b t) d a b t viSll s
/-- VSRL (Table 5.6). -/
def execVsrl (d a b : BitVec 7) (t : BitVec 2) (s : State) : Out := vecBin (.vsrl d a b t) d a b t viSrl s
/-- VSRA (Table 5.6). -/
def execVsra (d a b : BitVec 7) (t : BitVec 2) (s : State) : Out := vecBin (.vsra d a b t) d a b t viSra s

/-! ### Compare (R121) -/

/-- A condition of VCMP on a three-way order: none is unordered. -/
def vcmpHolds (c : BitVec 3) (o : Option Ordering) : Bool :=
  match c.toNat, o with
  | 1, none => true
  | _, none => false
  | 0, some o => o == .eq
  | 1, some o => o != .eq
  | 2, some o => o == .lt
  | 3, some o => o != .gt
  | 4, some o => o == .gt
  | _, some o => o != .lt

/-- The order of two values; -0 equals +0. -/
def fvalOrder (x y : FVal) : Option Ordering :=
  match x, y with
  | .nan, _ | _, .nan => none
  | .inf a, .inf b => some (if a = b then .eq else if a then .lt else .gt)
  | .inf a, _ => some (if a then .lt else .gt)
  | _, .inf b => some (if b then .gt else .lt)
  | .fin x, .fin y => some (if x.lt y then .lt else if x.eq y then .eq else .gt)

/-- The order of two codes of a format. -/
def codeOrder (f x y : Nat) : Option Ordering :=
  if fmtIsInt f then some (compare (intValue f x) (intValue f y)) else fvalOrder (fvalue f x) (fvalue f y)

/-- VCMP: active bits below E of the mask are written; NV only for a signalling NaN. -/
def execVcmp (d : BitVec 3) (a b : BitVec 7) (t : BitVec 2) (c : BitVec 3) (s : State) : Out :=
  issue (.vcmp d a b t c) s (fun s =>
    let f := s.fmt t
    let w := fmtWidth f
    let m := s.amask
    let x (i : Nat) : Nat := velem (s.vreg a.toNat) w i
    let y (i : Nat) : Nat := velem (s.vreg b.toNat) w i
    let old := s.vmask d
    let bits := (List.range 128).map (fun i =>
      if decide (i < fmtCount f) && active m i then vcmpHolds c (codeOrder f (x i) (y i)) else old.getLsbD i)
    let nv := fmtIsFloat f && (List.range (fmtCount f)).any (fun i =>
      active m i && (isSignalling f (x i) || isSignalling f (y i)))
    .next (retire (raiseFlags (if nv then flagNV else 0#6)
      (s.setVmask d (BitVec.ofNat 128 (vpack 1 (bits.map (·.toNat))))))))

/-! ### Permute, select, slides (R122) -/

/-- VPERM (R122). -/
def execVperm (d a b : BitVec 7) (t : BitVec 2) (s : State) : Out :=
  vecOp (.vperm d a b t) d t false (fun s f _ _ i =>
    { code := velem (s.vreg a.toNat) (fmtWidth f) (velem (s.vreg b.toNat) (fmtWidth f) i % fmtCount f) }) s
/-- VSHUF (R122). -/
def execVshuf (d a b : BitVec 7) (t : BitVec 2) (s : State) : Out :=
  vecOp (.vshuf d a b t) d t false (fun s f _ _ i =>
    { code := if i % 2 = 0 then velem (s.vreg a.toNat) (fmtWidth f) (i / 2) else velem (s.vreg b.toNat) (fmtWidth f) (i / 2) }) s
/-- VSEL: every element is written (R122). -/
def execVsel (d a b : BitVec 7) (t : BitVec 2) (s : State) : Out :=
  issue (.vsel d a b t) s (fun s =>
    let w := fmtWidth (s.fmt t)
    let m := s.amask
    .next (retire (s.setVreg d.toNat (vof w ((List.range (fmtCount (s.fmt t))).map (fun i =>
      if active m i then velem (s.vreg a.toNat) w i else velem (s.vreg b.toNat) w i))))))
/-- VSLUP: element i − n, or zero (R122). -/
def execVslup (d a n : BitVec 7) (t : BitVec 2) (s : State) : Out :=
  vecOp (.vslup d a n t) d t false (fun s f _ _ i =>
    { code := if n.toNat ≤ i then velem (s.vreg a.toNat) (fmtWidth f) (i - n.toNat) else 0 }) s
/-- VSLDN: element i + n, or zero (R122). -/
def execVsldn (d a n : BitVec 7) (t : BitVec 2) (s : State) : Out :=
  vecOp (.vsldn d a n t) d t false (fun s f _ _ i =>
    { code := if i + n.toNat < fmtCount f then velem (s.vreg a.toNat) (fmtWidth f) (i + n.toNat) else 0 }) s
/-- VBCAST: element n mod E (R122). -/
def execVbcast (d a n : BitVec 7) (t : BitVec 2) (s : State) : Out :=
  vecOp (.vbcast d a n t) d t false (fun s f _ _ _ =>
    { code := velem (s.vreg a.toNat) (fmtWidth f) (n.toNat % fmtCount f) }) s

/-! ### Reductions and counts (R123, R124) -/

/-- The kinds of reduction. -/
inductive Reduction where
  | sum | max | min
  deriving DecidableEq, Repr

/-- The f32 operation and identity of a reduction (R98). -/
def redOp (r : Reduction) (a b : Nat) : Res :=
  match r with
  | .sum => f32Add a b
  | .max => fMinMax 12 false a b
  | .min => fMinMax 12 true a b
def redIdentity (r : Reduction) : Nat :=
  match r with
  | .sum => 0x80000000
  | .max => 0xFF800000
  | .min => 0x7F800000

/-- A reduction of float elements, widened and combined by the pairwise tree, narrowed into the format (R98, R123). A NaN
that comes back into its own format has its quiet bit set (R91). DEDUCED, log entry 79, 115. -/
def reduceFloat (r : Reduction) (f mode draw : Nat) (es : List (Option Nat)) : Res :=
  let tree := treeReduce (redOp r) (Nat.log2 es.length) (es.map (fun e => match e with
    | none => redIdentity r
    | some c => widen f c))
  let nv := es.any (fun e => match e with
    | none => false
    | some c => isSignalling f c)
  let out := narrow f mode draw (plainBound f) tree.code
  let code := if isNan f out.code && quietBit f != 0 && out.code / quietBit f % 2 == 0 then out.code + quietBit f
    else out.code
  { code := code, flags := tree.flags ||| out.flags ||| (if nv then flagNV else 0#6) }

/-- A reduction of integer elements (R123), as 64 bits. -/
def reduceInt (r : Reduction) (f : Nat) (es : List Nat) : Nat :=
  let vs := es.map (intValue f)
  ofSigned 64 (match r with
    | .sum => vs.foldl (· + ·) 0
    | .max => vs.foldl (fun a b => if a < b then b else a) (intLeast f)
    | .min => vs.foldl (fun a b => if b < a then b else a) (intGreatest f))

/-- VRSUM, VRMAX, VRMIN: the result in the low bits of vd, every other bit zero; one draw for a float (R116, R123). -/
def reduceOp (i : Instr) (r : Reduction) (d a : BitVec 7) (t : BitVec 2) (s : State) : Out :=
  issue i s (fun s =>
    let f := s.fmt t
    let w := fmtWidth f
    let es := (List.range (fmtCount f)).map (fun i =>
      if active s.amask i then some (velem (s.vreg a.toNat) w i) else none)
    if fmtIsInt f then
      .next (retire (s.setVreg d.toNat (BitVec.ofNat 1024 (reduceInt r f (es.filterMap id)))))
    else withDraws (if s.rnd t = 4 then 1 else 0) s (fun s draw =>
      let x := reduceFloat r f (s.rnd t) (draw 0) es
      .next (retire (raiseFlags x.flags (s.setVreg d.toNat (BitVec.ofNat 1024 x.code))))))

/-- VRSUM. -/
def execVrsum (d a : BitVec 7) (t : BitVec 2) (s : State) : Out := reduceOp (.vrsum d a t) .sum d a t s
/-- VRMAX. -/
def execVrmax (d a : BitVec 7) (t : BitVec 2) (s : State) : Out := reduceOp (.vrmax d a t) .max d a t s
/-- VRMIN. -/
def execVrmin (d a : BitVec 7) (t : BitVec 2) (s : State) : Out := reduceOp (.vrmin d a t) .min d a t s

/-- VHIST: active elements below 32 count into 32 counters of 32 bits (R123). -/
def execVhist (d a : BitVec 7) (t : BitVec 2) (s : State) : Out :=
  issue (.vhist d a t) s (fun s =>
    let f := s.fmt t
    let es := (List.range (fmtCount f)).filterMap (fun i =>
      if active s.amask i then some (velem (s.vreg a.toNat) (fmtWidth f) i) else none)
    .next (retire (s.setVreg d.toNat (vof 32 ((List.range 32).map (fun b =>
      velem (s.vreg d.toNat) 32 b + es.count b))))))

/-- VCMPR: the active elements packed downwards, the rest zero (R124). -/
def execVcmpr (d a : BitVec 7) (t : BitVec 2) (s : State) : Out :=
  issue (.vcmpr d a t) s (fun s =>
    let w := fmtWidth (s.fmt t)
    .next (retire (s.setVreg d.toNat (vof w ((List.range (fmtCount (s.fmt t))).filterMap (fun i =>
      if active s.amask i then some (velem (s.vreg a.toNat) w i) else none))))))

/-- VPOPC: bits of the mask that are active below E (R124). -/
def execVpopc (d : BitVec 7) (a : BitVec 3) (t : BitVec 2) (s : State) : Out :=
  issue (.vpopc d a t) s (fun s =>
    let n := (List.range (fmtCount (s.fmt t))).countP (fun i => active (s.vmask a) i && active s.amask i)
    .next (retire (s.setVreg d.toNat (BitVec.ofNat 1024 n))))

/-- VIOTA: for each active i, the number of j < i set in both masks (R124). -/
def execViota (d : BitVec 7) (a : BitVec 3) (t : BitVec 2) (s : State) : Out :=
  vecOp (.viota d a t) d t false (fun s f _ _ i =>
    { code := (List.range i).countP (fun j => active (s.vmask a) j && active s.amask j) % 2 ^ fmtWidth f }) s

/-! ### Moves (R131) -/

/-- VINS. -/
def execVins (d : BitVec 7) (a b : BitVec 5) (t : BitVec 2) (s : State) : Out :=
  issue (.vins d a b t) s (fun s =>
    let w := fmtWidth (s.fmt t)
    let n := fmtCount (s.fmt t)
    .next (retire (s.setVreg d.toNat (vof w ((List.range n).map (fun i =>
      if i = (s.reg b).toNat % n then (s.reg a).toNat else velem (s.vreg d.toNat) w i))))))

/-- VEXT: sign-extended for a signed integer format, else zero-extended. -/
def execVext (d : BitVec 7) (a b : BitVec 5) (t : BitVec 2) (s : State) : Out :=
  issue (.vext d a b t) s (fun s =>
    let f := s.fmt t
    let c := velem (s.vreg d.toNat) (fmtWidth f) ((s.reg b).toNat % fmtCount f)
    .next (retire (s.setReg a (if fmtIsInt f then BitVec.ofInt 64 (intValue f c) else BitVec.ofNat 64 c))))

/-- VSPLT. -/
def execVsplt (d : BitVec 7) (a : BitVec 5) (t : BitVec 2) (s : State) : Out :=
  vecOp (.vsplt d a t) d t false (fun s f _ _ _ => { code := (s.reg a).toNat % 2 ^ fmtWidth f }) s

/-- VMRD: the low half, then the high half. -/
def execVmrd (m : BitVec 3) (a b : BitVec 5) (s : State) : Out :=
  issue (.vmrd m a b) s (fun s =>
    let x := s.vmask m
    .next (retire ((s.setReg a (x.extractLsb' 0 64)).setReg b (x.extractLsb' 64 64))))

/-- VMWR. -/
def execVmwr (m : BitVec 3) (a b : BitVec 5) (s : State) : Out :=
  issue (.vmwr m a b) s (fun s => .next (retire (s.setVmask m (s.reg b ++ s.reg a))))

/-- SHRD. -/
def execShrd (n : BitVec 3) (a : BitVec 5) (s : State) : Out :=
  issue (.shrd n a) s (fun s => .next (retire (s.setReg a (s.shadow n.toNat))))

/-- SHWR stores every bit as given (R37). -/
def execShwr (n : BitVec 3) (a : BitVec 5) (s : State) : Out :=
  issue (.shwr n a) s (fun s =>
    let v := s.reg a
    .next (retire (s.modSlot (fun x => { x with sh := x.sh.set n.toNat v }))))

/-! ### Masks (R132) -/

/-- A mask operation on all 128 bits. -/
def maskOp (i : Instr) (d : BitVec 3) (op : State → VMask) (s : State) : Out :=
  issue i s (fun s => .next (retire (s.setVmask d (op s))))

/-- VMAND. -/
def execVmand (d a b : BitVec 3) (s : State) : Out := maskOp (.vmand d a b) d (fun s => s.vmask a &&& s.vmask b) s
/-- VMOR. -/
def execVmor (d a b : BitVec 3) (s : State) : Out := maskOp (.vmor d a b) d (fun s => s.vmask a ||| s.vmask b) s
/-- VMXOR. -/
def execVmxor (d a b : BitVec 3) (s : State) : Out := maskOp (.vmxor d a b) d (fun s => s.vmask a ^^^ s.vmask b) s
/-- VMANDN. -/
def execVmandn (d a b : BitVec 3) (s : State) : Out :=
  maskOp (.vmandn d a b) d (fun s => s.vmask a &&& ~~~(s.vmask b)) s
/-- VMNOT. -/
def execVmnot (d a : BitVec 3) (s : State) : Out := maskOp (.vmnot d a) d (fun s => ~~~(s.vmask a)) s
/-- AMSEL selects the active mask. -/
def execAmsel (n : BitVec 3) (s : State) : Out :=
  issue (.amsel n) s (fun s => .next (retire (s.modSlot (fun x => { x with amask := n }))))

/-! ### VRNG (R135) -/

/-- VRNG: kind 0 raw bits from 16 words; kinds 1 and 2 uniform values and Gumbel keys from 32 words. Inactive elements
keep their values. -/
def execVrng (d : BitVec 7) (k : BitVec 5) (t : BitVec 2) (s : State) : Out :=
  issue (.vrng d k t) s (fun s =>
    let f := s.fmt t
    let m := s.amask
    withWords (if k = 0#5 then 16 else 32) s (fun s w =>
      let raw := BitVec.ofNat 1024 (vpack 64 ((List.range 16).map (fun i => (w i).toNat)))
      let rs := (List.range (fmtCount f)).map (fun i =>
        if !active m i then none
        else if k = 0#5 then some ({ code := velem raw (fmtWidth f) i } : Res)
        else if k = 1#5 then some { code := uniformCode (w i) }
        else some (gumbel (uniformIndex (w i))))
      .next (retire (raiseFlags (flagsOf rs)
        (s.setVreg d.toNat (vmerge (s.vreg d.toNat) (fmtWidth f) (rs.map (·.map (·.code)))))))))

end Sys2Proof.Machine
end

