-- ==== Sys2Proof/Machine/LoadStore.lean ====
section
/-! DEFINITION. Loads, stores, atomics and vector memory (spec/05_scalar_vector.md R110 to R113, R117 to R119;
spec/04_numbers.md R82, R83, R88). -/

namespace Sys2Proof.Machine

/-- LD (R112). -/
def execLd (d a : BitVec 5) (sz : BitVec 3) (o : BitVec 13) (s : State) : Out :=
  issue (.ld d a sz o) s (fun s =>
    (loadBytes s (effAddr s a o) (sizeBytes sz.toNat)).out s (fun bs =>
      .next (retire (s.setReg d (extendLoad sz.toNat bs)))))

/-- ST writes g[d][8n−1:0] (R112). -/
def execSt (d a : BitVec 5) (sz : BitVec 2) (o : BitVec 13) (s : State) : Out :=
  issue (.st d a sz o) s (fun s =>
    (storeBytes s (effAddr s a o) (natLe (sizeBytes sz.toNat) (s.reg d).toNat)).out s (fun s' => .next (retire s')))

/-! ### Atomics (R113) -/

/-- An atomic at g[a]: `op old operand` is the value to write, none where nothing is written; g[d] receives the old
value, sign-extended for 32 bits. One that does not write makes the checks of a store up to step 4 only. -/
def atomic (i : Instr) (op : Nat → Word → Word → Option Word) (d a b : BitVec 5) (w : BitVec 1) (s : State) : Out :=
  issue i s (fun s =>
    let n := if w = 1#1 then 4 else 8
    let ext (x : Word) : Word := if w = 1#1 then (x.setWidth 32).signExtend 64 else x
    let ea : LAddr := (s.reg a).setWidth 20
    (storeCheck s ea n).out s (fun (f, off) =>
      let old := ext (BitVec.ofNat 64 (leNat (readHere s (.vault f off) n)))
      match op n old (ext (s.reg b)) with
      | none => .next (retire (s.setReg d old))
      | some v => (storeBytes s ea (natLe n v.toNat)).out s (fun s' => .next (retire (s'.setReg d old)))))

/-- AMOADD, modulo 2^w. -/
def execAmoadd (d a b : BitVec 5) (w : BitVec 1) (s : State) : Out :=
  atomic (.amoadd d a b w) (fun _ x y => some (x + y)) d a b w s
/-- AMOSWAP. -/
def execAmoswap (d a b : BitVec 5) (w : BitVec 1) (s : State) : Out :=
  atomic (.amoswap d a b w) (fun _ _ y => some (y)) d a b w s
/-- AMOAND. -/
def execAmoand (d a b : BitVec 5) (w : BitVec 1) (s : State) : Out :=
  atomic (.amoand d a b w) (fun _ x y => some (x &&& y)) d a b w s
/-- AMOOR. -/
def execAmoor (d a b : BitVec 5) (w : BitVec 1) (s : State) : Out :=
  atomic (.amoor d a b w) (fun _ x y => some (x ||| y)) d a b w s
/-- AMOXOR. -/
def execAmoxor (d a b : BitVec 5) (w : BitVec 1) (s : State) : Out :=
  atomic (.amoxor d a b w) (fun _ x y => some (x ^^^ y)) d a b w s
/-- AMOMIN, signed. -/
def execAmomin (d a b : BitVec 5) (w : BitVec 1) (s : State) : Out :=
  atomic (.amomin d a b w) (fun _ x y => some (if y.slt x then y else x)) d a b w s
/-- AMOMAX, signed. -/
def execAmomax (d a b : BitVec 5) (w : BitVec 1) (s : State) : Out :=
  atomic (.amomax d a b w) (fun _ x y => some (if x.slt y then y else x)) d a b w s
/-- AMOCAS: writes g[b] only where the old value equals g[d] (of its width). -/
def execAmocas (d a b : BitVec 5) (w : BitVec 1) (s : State) : Out :=
  atomic (.amocas d a b w) (fun n x y =>
    if natLe n x.toNat == natLe n (s.reg d).toNat then some y else none) d a b w s

/-! ### Vector memory (R117, R118) -/

/-- The unit a vector memory instruction moves: an element, or for mx4 a block of 16 bytes: width in bits and count. -/
def memWidth (f : Nat) : Nat := if fmtIsMx f then 128 else fmtWidth f
def memCount (f : Nat) : Nat := 1024 / memWidth f

/-- Loads of `n` bytes at addresses, the first failing one traps; none where the element is inactive. DEDUCED, log entry 76. -/
def loadEach (s : State) (n : Nat) : List (Option LAddr) → Acc (List (Option Nat))
  | [] => .ok []
  | none :: t => (loadEach s n t).bind (fun r => .ok (none :: r))
  | some a :: t => (loadBytes s a n).bind (fun bs => (loadEach s n t).bind (fun r => .ok (some (leNat bs) :: r)))

/-- The addresses of the active elements. DEDUCED, log entry 76. -/
def activeAddrs (m : VMask) (n : Nat) (ea : Nat → LAddr) : List (Option LAddr) :=
  (List.range n).map (fun i => if active m i then some (ea i) else none)

/-- A vector load: element i from `ea w i` for every active i, w the bytes of an element. -/
def vecLoad (i : Instr) (d : BitVec 7) (t : BitVec 2) (ea : State → Nat → Nat → LAddr) (s : State) : Out :=
  issue i s (fun s =>
    let f := s.fmt t
    let w := memWidth f
    (loadEach s (w / 8) (activeAddrs s.amask (memCount f) (ea s (w / 8)))).out s (fun rs =>
      .next (retire (s.setVreg d.toNat (vmerge (s.vreg d.toNat) w rs)))))

/-- A vector store: all active elements are checked before any is written, in increasing order (R117, R118). -/
def vecStore (i : Instr) (d : BitVec 7) (t : BitVec 2) (ea : State → Nat → Nat → LAddr) (s : State) : Out :=
  issue i s (fun s =>
    let f := s.fmt t
    let w := memWidth f
    let x := s.vreg d.toNat
    let ws := (List.range (memCount f)).filterMap (fun i =>
      if active s.amask i then some (ea s (w / 8) i, natLe (w / 8) (velem x w i)) else none)
    (storeAll s ws).out s (fun s' => .next (retire s')))

/-- EA_i of VLD and VST: g[a] + g[b] + i·w/8 (Table 5.5). -/
def eaUnit (a b : BitVec 5) (s : State) (n i : Nat) : LAddr :=
  (s.reg a + s.reg b + BitVec.ofNat 64 (i * n)).setWidth 20
/-- EA_i of VLDS and VSTS: g[a] + i·SInt(g[b]). -/
def eaStride (a b : BitVec 5) (s : State) (_ i : Nat) : LAddr :=
  (s.reg a + BitVec.ofNat 64 i * s.reg b).setWidth 20
/-- EA_i of VGATH and VSCAT: g[a] + UInt(v[gb][i])·w/8. -/
def eaIndex (a b : BitVec 5) (s : State) (n i : Nat) : LAddr :=
  (s.reg a + BitVec.ofNat 64 (velem (s.vreg b.toNat) (8 * n) i * n)).setWidth 20

/-- VLD. -/
def execVld (d : BitVec 7) (a b : BitVec 5) (t : BitVec 2) (s : State) : Out := vecLoad (.vld d a b t) d t (eaUnit a b) s
/-- VST. -/
def execVst (d : BitVec 7) (a b : BitVec 5) (t : BitVec 2) (s : State) : Out := vecStore (.vst d a b t) d t (eaUnit a b) s
/-- VLDS. -/
def execVlds (d : BitVec 7) (a b : BitVec 5) (t : BitVec 2) (s : State) : Out :=
  vecLoad (.vlds d a b t) d t (eaStride a b) s
/-- VSTS. -/
def execVsts (d : BitVec 7) (a b : BitVec 5) (t : BitVec 2) (s : State) : Out :=
  vecStore (.vsts d a b t) d t (eaStride a b) s
/-- VGATH. -/
def execVgath (d : BitVec 7) (a b : BitVec 5) (t : BitVec 2) (s : State) : Out :=
  vecLoad (.vgath d a b t) d t (eaIndex a b) s
/-- VSCAT. -/
def execVscat (d : BitVec 7) (a b : BitVec 5) (t : BitVec 2) (s : State) : Out :=
  vecStore (.vscat d a b t) d t (eaIndex a b) s

/-! ### Shape records (R119) -/

/-- The record that g[a] names; check 7 has found it good. -/
def recordOf (s : State) (a : BitVec 5) : Acc Shape := shapeAt s ((s.reg a).setWidth 20)

/-- An element saturated to the record's bound (R88, R89, R119): CL where it is replaced, NX too where it is finite, and OF
where its magnitude is beyond the format's greatest value, as -128 of INT8 is; a NaN unchanged. DEDUCED, log entry 113. -/
def saturateTo (r : Shape) (c : Nat) : Res :=
  if fmtIsInt r.fmt then
    let top := intGreatest r.fmt
    let b : Int := if r.clamp = 0 then top else min (r.clamp : Int) top
    let lo : Int := if !fmtSigned r.fmt then 0 else if b < top then -b else intLeast r.fmt
    let v := intValue r.fmt c
    let fl := if top < (v.natAbs : Int) then flagCL ||| flagNX ||| flagOF else flagCL ||| flagNX
    if v < lo then { code := ofSigned (fmtWidth r.fmt) lo, flags := fl }
    else if b < v then { code := ofSigned (fmtWidth r.fmt) b, flags := fl }
    else { code := c }
  else if isNan r.fmt c then { code := c }
  else
    let b := clampBound r.fmt r.clamp
    let isInf := infCode r.fmt == some (codeMag r.fmt c)
    if b < codeMag r.fmt c && !(isInf && b == maxCode r.fmt) then
      { code := mkCode r.fmt (codeNeg r.fmt c) b, flags := if isInf then flagCL else flagCL ||| flagNX }
    else { code := c }

/-- The trap of a starting index that is no multiple of 32 for mx4 data. DEDUCED, log entry 77. -/
def indexTrap (s : State) (b : BitVec 5) : Trap := { cause := .misaligned, val := s.reg b, aux := 1#64 }

/-- The trap of mx4 data that comes after check 7: the starting index (R119). DEDUCED, log entry 77. -/
def mxTrap (r : Shape) (b : BitVec 5) (s : State) : Option Trap :=
  if !fmtIsMx r.fmt then none
  else if (s.reg b).toNat % 32 ≠ 0 then some (indexTrap s b)
  else none

/-- VLDSH: elements outside read as PAD; an mx4 block comes with its scale in byte j of vd + 1.
DESIGN CHOICE, log entry 116, 138. -/
def execVldsh (d : BitVec 7) (a b : BitVec 5) (s : State) : Out :=
  issue (.vldsh d a b) s (fun s =>
    (recordOf s a).out s (fun r =>
      match mxTrap r b s with
      | some t => trapOut t s
      | none =>
        let m := s.amask
        let f0 := (s.reg b).toNat
        if fmtIsMx r.fmt then
          let ix (j : Nat) := r.index (f0 + 32 * j)
          let addrs := (List.range 16).map (fun k =>
            if active m (k / 2) then (ix (k / 2)).map (fun x => (k, x)) else none)
          let load : Acc (List (Option Nat)) := addrs.foldr (fun a acc => match a with
            | none => acc.bind (fun r => .ok (none :: r))
            | some (k, x) =>
              (loadBytes s (if k % 2 = 0 then r.addr x else r.scaleAddr x) (if k % 2 = 0 then 16 else 1)).bind
                (fun bs => acc.bind (fun r => .ok (some (leNat bs) :: r)))) (.ok [])
          load.out s (fun rs =>
            let pick (j k : Nat) (dflt : Nat) : Option Nat :=
              if !active m j then none else if (ix j).isNone then some dflt else rs.getD (2 * j + k) none
            let blocks := (List.range 8).map (fun j => pick j 0 (vpack 4 (List.replicate 32 (r.pad % 16))))
            let scales := (List.range 8).map (fun j => pick j 1 0x7F)
            let s := s.setVreg d.toNat (vmerge (s.vreg d.toNat) 128 blocks)
            .next (retire (s.setVreg (d.toNat + 1)
              (vmerge (s.vreg (d.toNat + 1)) 8 (scales ++ List.replicate 120 none)))))
        else
          let w := fmtWidth r.fmt
          let addrs := (List.range (fmtCount r.fmt)).map (fun i =>
            if active m i then (r.index (f0 + i)).map r.addr else none)
          (loadEach s (w / 8) addrs).out s (fun rs =>
            let rs := rs.zipIdx.map (fun p => if active m p.2 && (r.index (f0 + p.2)).isNone then some r.pad else p.1)
            .next (retire (s.setVreg d.toNat (vmerge (s.vreg d.toNat) w rs))))))

/-- VSTSH: elements inside the extents, saturated to the record's bound; an mx4 block with its scale from vd + 1,
which is written after the block's elements, should a byte be both (R83). DESIGN CHOICE, log entry 138. -/
def execVstsh (d : BitVec 7) (a b : BitVec 5) (s : State) : Out :=
  issue (.vstsh d a b) s (fun s =>
    (recordOf s a).out s (fun r =>
      match mxTrap r b s with
      | some t => trapOut t s
      | none =>
        let m := s.amask
        let f0 := (s.reg b).toNat
        let x := s.vreg d.toNat
        if fmtIsMx r.fmt then
          let ws := (List.range 8).flatMap (fun j =>
            if active m j then match r.index (f0 + 32 * j) with
              | none => []
              | some ix => [(r.addr ix, natLe 16 (velem x 128 j)),
                            (r.scaleAddr ix, natLe 1 (velem (s.vreg (d.toNat + 1)) 8 j))]
            else [])
          (storeAll s ws).out s (fun s' => .next (retire s'))
        else
          let w := fmtWidth r.fmt
          let rs := (List.range (fmtCount r.fmt)).filterMap (fun i =>
            if active m i then (r.index (f0 + i)).map (fun ix => (r.addr ix, saturateTo r (velem x w i))) else none)
          (storeAll s (rs.map (fun p => (p.1, natLe (w / 8) p.2.code)))).out s (fun s' =>
            .next (retire (raiseFlags (rs.foldl (fun f p => f ||| p.2.flags) 0#6) s')))))

end Sys2Proof.Machine
end

