-- ==== Sys2Proof/Machine/Matrix.lean ====
section
/-! DEFINITION. The matrix engine: its queue, multiply-accumulate, convolution, accumulator moves, MWAIT, and the
completion of an operation (spec/06_matrix.md; spec/04_numbers.md R97, R99; spec/02_state.md R46). -/

namespace Sys2Proof.Machine

/-! ### Engines act for a thread -/

/-- `f` acts as the thread of level `lv` in slot `p`, whatever handler runs over it now (R222). DEDUCED, log entry 129. -/
def onThread (p : Party) (lv : Nat) (f : State → State) (s : State) : State :=
  let keep := s.actor
  let above := (s.slotOf p).handlers.takeWhile (fun h => lv < h.level)
  let s := ({ s with actor := p }).modSlotOf p (fun x => { x with handlers := x.handlers.dropWhile (fun h => lv < h.level) })
  let s := f s
  { (s.modSlotOf p (fun x => { x with handlers := above ++ x.handlers })) with actor := keep }

/-- Units of an engine instruction done one after another from unit `i`: the state, the units done, and what stopped
it (R149). -/
def unitsFrom (unit : Nat → State → Acc State) : Nat → Nat → State → State × Nat × Acc Unit
  | 0, i, s => (s, i, .ok ())
  | n + 1, i, s =>
    match unit i s with
    | .ok s' => unitsFrom unit n (i + 1) s'
    | .trap t => (s, i, .trap t)
    | .lost a => (s, i, .lost a)

/-- The trap of an engine instruction after `done` units: RPROG holds them, unless the thread ends by the trap (R46). -/
def engineTrap (done : Nat) (t : Trap) (s : State) : State :=
  if s.slotHere.h || s.thr.level ≠ 0 then takeTrap t s
  else takeTrap { t with res := true }
    (s.modSlot (fun x => { x with rprog := BitVec.ofNat 64 (done % 2 ^ 24 + 2 ^ 31) }))

/-- RPROG.ACT is cleared at the end of an instruction that issued with ERET's mark (R46). -/
def clearAct (resume : Bool) (s : State) : State :=
  if resume then s.modSlot (fun x => { x with rprog := x.rprog &&& ~~~(0x80000000#64) }) else s

/-- The end of an engine instruction that held its slot (R46, R138, R185). -/
def engineEnd (resume : Bool) (r : State × Nat × Acc Unit) : State :=
  match r with
  | (s, _, .ok ()) =>
    retire (clearAct resume s)
  | (s, i, .trap t) => engineTrap i t s
  | (s, _, .lost a) => lostStop a s

/-- Units that the mark of ERET lets an engine instruction skip (R46). -/
def unitsDone (s : State) (resume : Bool) : Nat := if resume then (s.slotHere.rprog.extractLsb' 0 24).toNat else 0

/-- A wait for the operations of this core that issued before the wait did. -/
def waitFor (i : Instr) (open' : TCore → Nat → Bool) (s : State) : Out :=
  let upto := match s.thr.status with
    | .fenced _ n => n
    | _ => s.here.nextOp
  if open' s.here upto then .next (wait (.fenced i upto) s) else .next (retire s)

/-- 64-bit words of a record and back. -/
def wordsOf (bs : List Byte) : List Word :=
  (List.range (bs.length / 8)).map (fun i => BitVec.ofNat 64 (leNat ((bs.drop (8 * i)).take 8)))
def bytesOf (ws : List Word) : List Byte := ws.flatMap (fun w => natLe 8 w.toNat)

/-! ### The arithmetic of a K-step (R97) -/

/-- The value of an element (R81, R82). -/
def Elem.val (f : Nat) (e : Elem) : FVal :=
  if fmtIsMx f then
    (if e.scale = 255 then .nan
     else match fvalue 13 e.code with
      | .fin x => .fin { x with e := x.e + (e.scale : Int) - 127 }
      | v => v)
  else fvalue f e.code

/-- A signalling NaN; a block's NaN is quiet (R144). -/
def Elem.signals (f : Nat) (e : Elem) : Bool := !fmtIsMx f && isSignalling f e.code

/-- The exact sum of the products of a step; a zero is negative only when every product is −0. -/
def exactSum (xs : List Real) : Real :=
  let r := xs.foldl Real.add { neg := false, m := 0, e := 0 }
  if r.m = 0 then { r with neg := xs.all (fun x => x.m == 0 && x.neg) } else r

/-- One K-step of an FP32 accumulator element. -/
def floatStep (ta tb acc : Nat) (ps : List (Elem × Elem)) : Res :=
  let vs := ps.map (fun p => mulVals (p.1.val ta) (p.2.val tb))
  let sig := ps.any (fun p => p.1.signals ta || p.2.signals tb)
  let nan := vs.any (fun v => v == some .nan)
  let zeroInf := vs.any (fun v => v == none)
  let pos := vs.any (fun v => v == some (.inf false))
  let neg := vs.any (fun v => v == some (.inf true))
  let fl : FlagSet := if sig || zeroInf || (pos && neg) then flagNV else 0#6
  if isNan 12 acc then { code := acc, flags := fl }
  else if nan || zeroInf || (pos && neg) then { code := 0x7FC00000, flags := fl }
  else
    let t : FVal :=
      if pos then .inf false else if neg then .inf true
      else .fin (exactSum (vs.filterMap (fun v => match v with
        | some (.fin x) => some x
        | _ => none)))
    addVals 12 0 0 none (fvalue 12 acc) t

/-- One K-step of an i32 accumulator element, modulo 2^32. -/
def intStep (ta tb acc : Nat) (ps : List (Elem × Elem)) : Res :=
  { code := ofSigned 32 (ps.foldl (fun t p => t + intValue ta p.1.code * intValue tb p.2.code) (acc : Int)) }

/-- Products of a K-step (R97). -/
def stepDepth (f : Nat) : Nat := if fmtIsMx f then 64 else if fmtWidth f = 8 then 32 else 16

/-- The steps of one element in order of k; `n` bounds their number. -/
def stepsOf (one : Nat → List (Elem × Elem) → Res) (depth : Nat) : Nat → List (Elem × Elem) → Res → Res
  | 0, _, r => r
  | n + 1, ps, r =>
    if ps.isEmpty then r
    else
      let q := one r.code (ps.take depth)
      stepsOf one depth n (ps.drop depth) { code := q.code, flags := r.flags ||| q.flags }

/-- An accumulator element after all its K-steps. -/
def elementOf (ta tb : Nat) (k : BitVec 1) (acc : Nat) (row col : List Elem) : Res :=
  stepsOf (if k = 1#1 then intStep ta tb else floatStep ta tb) (stepDepth ta) row.length (row.zip col) { code := acc }

/-! ### Operands -/

/-- A list read in order. -/
def accMap {α β : Type} (f : α → Acc β) : List α → Acc (List β)
  | [] => .ok []
  | x :: t => (f x).bind (fun y => (accMap f t).bind (fun ys => .ok (y :: ys)))

/-- An element of `n` bytes at a local address. -/
def elemAt (s : State) (a : LAddr) (n : Nat) : Acc Elem := (loadRange s a n).bind (fun bs => .ok { code := leNat bs })

/-- base + i·stride + off, modulo 2^20 (R142). -/
def strided (base stride i off : Nat) : LAddr :=
  BitVec.ofInt 20 ((base : Int) + (i : Int) * toSigned 16 stride + (off : Int))

/-- What an operation reads, in the order it reads it (R148): units of B, each an element or a block with its scale, from which
`cols` makes the columns; then the units of each row of A; `k` elements of a row count. -/
structure Operands where
  m      : Nat
  k      : Nat
  bUnits : Nat
  bRead  : Nat → State → Acc (List Elem)
  cols   : List (List Elem) → List (List Elem)
  aUnits : Nat
  aRead  : Nat → Nat → State → Acc (List Elem)

/-- Columns of units read column by column, `u` units to a column. -/
def byColumn (n u k : Nat) (us : List (List Elem)) : List (List Elem) :=
  (List.range n).map (fun c => ((us.drop (c * u)).take u).flatten.take k)

/-- Columns of units read row by row, `n` to a row. -/
def byRow (n k : Nat) (us : List (List Elem)) : List (List Elem) :=
  (List.range n).map (fun c => (List.range k).flatMap (fun r => us.getD (r * n + c) []))

/-- The 32 elements of a block with its scale. -/
def blockElems (bs : List Byte) (scale : Nat) : List Elem :=
  (List.range 32).map (fun i => { code := bitsOf (leNat bs) (4 * i) 4, scale := scale })

/-- The operands of MMA and MMAT (R142, R143): `tr` for MMAT, `sc` the scale record. -/
def mmaOperands (tr : Bool) (ta tb : Nat) (a b : Word) (sc : Nat) : Operands :=
  let k := bitsOf a.toNat 36 11 + 1
  let n := bitsOf b.toNat 41 5 + 1
  let abase := bitsOf a.toNat 0 20
  let astr := bitsOf a.toNat 20 16
  let bbase := bitsOf b.toNat 0 20
  let bstr := bitsOf b.toNat 20 16
  let wa := fmtWidth ta / 8
  let wb := fmtWidth tb / 8
  let blocks := (k + 31) / 32
  let one (bytes : Nat) (a : LAddr) (s : State) : Acc (List Elem) := (elemAt s a bytes).bind (fun e => .ok [e])
  { m := bitsOf b.toNat 36 5 + 1
    k := k
    bUnits := if fmtIsMx tb then n * blocks else n * k
    bRead := fun u s =>
      if fmtIsMx tb then
        (loadRange s (strided bbase bstr (u / blocks) (16 * (u % blocks))) 16).bind (fun bs =>
          (loadRange s (strided (bitsOf sc 64 20) (bitsOf sc 84 16) (u / blocks) (u % blocks)) 1).bind (fun e =>
            .ok (blockElems bs (leNat e))))
      else if tr then one wb (strided bbase bstr (u / k) (u % k * wb)) s
      else one wb (strided bbase bstr (u / n) (u % n * wb)) s
    cols := if fmtIsMx tb then byColumn n blocks k else if tr then byColumn n k k else byRow n k
    aUnits := if fmtIsMx ta then blocks else k
    aRead := fun i u s =>
      if fmtIsMx ta then
        (if u = 0 then
          (accMap (fun j => loadRange s (strided abase astr i (16 * j)) 16) (List.range blocks)).bind (fun _ =>
            loadRange s (strided (bitsOf sc 0 20) (bitsOf sc 20 16) i 0) blocks)
         else .ok []).bind (fun _ =>
          (loadRange s (strided abase astr i (16 * u)) 16).bind (fun bs =>
            (loadRange s (strided (bitsOf sc 0 20) (bitsOf sc 20 16) i u) 1).bind (fun e => .ok (blockElems bs (leNat e)))))
      else one wa (strided abase astr i (u * wa)) s }

/-- One element of a shape-record tensor at a tuple of signed indices; an index of a dimension above NDIM is 0 whatever it
is computed to be (R52), and one outside the extents reads as PAD (R145).
DEDUCED, log entry 73. DESIGN CHOICE, log entry 121. -/
def tensorElem (s : State) (r : Shape) (ix : List Int) : Acc Elem :=
  let w := fmtWidth r.fmt
  if (List.range (r.ndim + 1)).all (fun k => decide (0 ≤ ix.getD k 0) && decide (ix.getD k 0 < (r.ext.getD k 1 : Int))) then
    elemAt s (r.addr (ix.map Int.toNat)) (w / 8)
  else .ok { code := r.pad % 2 ^ w }

/-- The operands of MCONV (R145): input record `r`, weight record `q`. -/
def convOperands (a b : Word) (r q : Shape) : Operands :=
  let ch := if 2 ≤ r.ndim then r.ext.getD 2 1 else 1
  let kw := r.win0 + 1
  let k := convDepth r
  let n := bitsOf b.toNat 25 5 + 1
  let one (e : Acc Elem) : Acc (List Elem) := e.bind (fun x => .ok [x])
  { m := bitsOf b.toNat 20 5 + 1
    k := k
    bUnits := n * k
    bRead := fun u s =>
      one (tensorElem s q [(u % k % ch : Nat), (u / k : Nat), (u % k / ch : Nat), 0])
    cols := byColumn n k k
    aUnits := k
    aRead := fun i kk s =>
      let t := kk / ch
      one (tensorElem s r
        [toSigned 16 (bitsOf a.toNat 20 16) + ((i * (bitsOf a.toNat 52 4 + 1) + t % kw * (r.dil0 + 1) : Nat) : Int),
         toSigned 16 (bitsOf a.toNat 36 16) + ((t / kw * (r.dil1 + 1) : Nat) : Int), (kk % ch : Nat), 0]) }

/-! ### Accumulators (R38) -/

/-- Word (row, col) of an accumulator of the actor's core. -/
def accWord (s : State) (c row col : Nat) : Nat := (s.here.accs.get (c * 1024 + row * 32 + col) 0#32).toNat
/-- Words of a row written from column 0 on. -/
def putAccRow (s : State) (c row : Nat) (ws : List Nat) : State :=
  s.modHere (fun k => { k with accs := (ws.zipIdx).foldl (fun m p =>
    TMap.set m (c * 1024 + row * 32 + p.2) (BitVec.ofNat 32 p.1)) k.accs })

/-! ### Performing an operation (R144 to R149) -/

/-- What the engine does for an operation: it reads the units of B, then for each row the units of the row, and puts the row,
with the flags that the row raises (R99, R144, R146, R148). -/
structure Engine where
  rows   : Nat
  bUnits : Nat := 0
  bRead  : Nat → State → Acc (List Elem) := fun _ _ => .ok []
  aUnits : Nat := 0
  aRead  : Nat → Nat → State → Acc (List Elem) := fun _ _ _ => .ok []
  put    : List (List Elem) → Nat → List (List Elem) → State → Acc (State × FlagSet)

/-- Row `i` of a multiply: each element of the accumulator row with its column; the row becomes current whole (R144, R149). -/
def multiplyRow (ta tb : Nat) (k : BitVec 1) (c : Nat) (cols : List (List Elem)) (row : List Elem) (i : Nat) (s : State) :
    State × FlagSet :=
  let rs := cols.zipIdx.map (fun p => elementOf ta tb k (accWord s c i p.2) row p.1)
  (putAccRow s c i (rs.map (·.code)), rs.foldl (fun f r => f ||| r.flags) 0#6)

/-- A multiply: B, then row by row. -/
def multiply (ta tb : Nat) (k : BitVec 1) (c : Nat) (o : Operands) : Engine :=
  { rows := o.m, bUnits := o.bUnits, bRead := o.bRead, aUnits := o.aUnits, aRead := o.aRead
    put := fun bs i as s => .ok (multiplyRow ta tb k c (o.cols bs) (as.flatten.take o.k) i s) }

/-- Step 1 of R148 for MMA and MMAT: the register that is not aligned, with its place in TRAPAUX. -/
def mmaAlign (ta tb : Nat) (a b : Word) : Option Trap :=
  let bad (f : Nat) (w : Word) : Bool :=
    let n := if fmtIsMx f then 16 else fmtWidth f / 8
    bitsOf w.toNat 0 20 % n != 0 || bitsOf w.toNat 20 16 % n != 0
  if bad ta a then some { cause := .misaligned, val := a }
  else if bad tb b then some { cause := .misaligned, val := b, aux := 1#64 }
  else none

/-- Step 1 of R148 for MLDACC and MSTACC. -/
def moveAlign (a : Word) : Option Trap :=
  if bitsOf a.toNat 0 20 % 4 != 0 || bitsOf a.toNat 20 16 % 4 != 0 then some { cause := .misaligned, val := a } else none

/-- Row `i` of a move: its accumulator row and its local address (R146). -/
def moveRow (a : Word) (i : Nat) : Nat × LAddr :=
  ((bitsOf a.toNat 36 5 + i) % 32, strided (bitsOf a.toNat 0 20) (bitsOf a.toNat 20 16) i 0)

/-- MLDACC: the 32 words of each row are read in order, and the row is written (R146). -/
def loadRows (c : Nat) (a : Word) : Engine :=
  { rows := bitsOf a.toNat 41 5 + 1, aUnits := 32
    aRead := fun i u s => (elemAt s ((moveRow a i).2 + BitVec.ofNat 20 (4 * u)) 4).bind (fun e => .ok [e])
    put := fun _ i as s => .ok (putAccRow s c (moveRow a i).1 (as.flatten.map (·.code)), 0#6) }

/-- MSTACC: a row writes no word until every word has passed its checks (R146, R149). -/
def storeRows (c : Nat) (a : Word) : Engine :=
  { rows := bitsOf a.toNat 41 5 + 1
    put := fun _ i _ s => (storeAll s ((List.range 32).map (fun j =>
      ((moveRow a i).2 + BitVec.ofNat 20 (4 * j), natLe 4 (accWord s c (moveRow a i).1 j))))).bind (fun s => .ok (s, 0#6)) }

/-- MZERO: all words of each row of an accumulator become zero (R146). -/
def zeroRows (c : Nat) : Engine :=
  { rows := 32
    put := fun _ i _ s =>
      .ok (s.modHere (fun k => { k with accs := k.accs.filter (fun p => p.1 / 32 != c * 32 + i) }), 0#6) }

/-- What the engine does for an operation of the queue. -/
def MatOp.engine (o : MatOp) : Engine :=
  match o.instr with
  | .mma c _ _ x y k =>
    multiply (typeFmt x) (typeFmt y) k c.toNat (mmaOperands false (typeFmt x) (typeFmt y) o.a o.b 0)
  | .mmat c _ _ x y k =>
    multiply (typeFmt x) (typeFmt y) k c.toNat (mmaOperands true (typeFmt x) (typeFmt y) o.a o.b (leNat (bytesOf o.recs)))
  | .mconv c _ _ x y k =>
    multiply (typeFmt x) (typeFmt y) k c.toNat
      (convOperands o.a o.b (Shape.ofBytes (bytesOf (o.recs.take 4))) (Shape.ofBytes (bytesOf (o.recs.drop 4))))
  | .mldacc c _ => loadRows c.toNat o.a
  | .mstacc c _ => storeRows c.toNat o.a
  | .mzero c => zeroRows c.toNat
  | _ => { rows := 0, put := fun _ _ _ s => .ok (s, 0#6) }

/-- Step 1 of R148. -/
def MatOp.align (o : MatOp) : Option Trap :=
  match o.instr with
  | .mma _ _ _ x y _ | .mmat _ _ _ x y _ => mmaAlign (typeFmt x) (typeFmt y) o.a o.b
  | .mldacc _ _ | .mstacc _ _ => moveAlign o.a
  | _ => none

/-- Where the engine stands in an operation: at its first unit, or where it has come to (R149). DESIGN CHOICE, log entry 150. -/
def MatOp.place (o : MatOp) (s : State) : MatProg := o.prog.getD { row := unitsDone s o.resume }

/-- The units of row `i` that the engine has read. -/
def MatProg.begun (p : MatProg) (i : Nat) : List (List Elem) := if i = p.row then p.a else []

/-- One row: the rest of its units, then what the row does and its flags. -/
def Engine.row (e : Engine) (bs : List (List Elem)) (begun : List (List Elem)) (i : Nat) (s : State) : Acc State :=
  (accMap (fun u => e.aRead i u s) (List.range' begun.length (e.aUnits - begun.length))).bind (fun as =>
    (e.put bs i (begun ++ as) s).bind (fun r => .ok (raiseFlags r.2 r.1)))

/-- All that is left of an operation: the rest of B, then row by row. -/
def Engine.finish (e : Engine) (p : MatProg) (s : State) : State × Nat × Acc Unit :=
  match accMap (fun u => e.bRead u s) (List.range' p.b.length (e.bUnits - p.b.length)) with
  | .trap t => (s, p.row, .trap t)
  | .lost a => (s, p.row, .lost a)
  | .ok bs => unitsFrom (fun i s => e.row (p.b ++ bs) (p.begun i) i s) (e.rows - p.row) p.row s

/-- One unit of an operation: an element or a block read, or a row put (R148, R151). -/
def Engine.unit (e : Engine) (p : MatProg) (s : State) : Acc (State × MatProg) :=
  if p.b.length < e.bUnits then (e.bRead p.b.length s).bind (fun x => .ok (s, { p with b := p.b ++ [x] }))
  else if p.a.length < e.aUnits then (e.aRead p.row p.a.length s).bind (fun x => .ok (s, { p with a := p.a ++ [x] }))
  else (e.put p.b p.row p.a s).bind (fun r => .ok (r.1, { p with row := p.row + 1, a := [], flags := p.flags ||| r.2 }))

/-- The rest of the operation `o` of the queue, performed for its thread: the flags of the rows done before are raised now
that it completes (R99). MZERO has not held its slot (R138). -/
def runMatrix (o : MatOp) (s : State) : State :=
  match o.align with
  | some t => takeTrap t s
  | none =>
    let p := o.place s
    let r := o.engine.finish p (raiseFlags p.flags s)
    match o.instr with
    | .mzero _ => clearAct o.resume r.1
    | _ => engineEnd o.resume r

/-! ### Issue -/

/-- Operations in the matrix queue of a core, of all tenants (R137, R140). -/
def matrixQueued (s : State) (c : Nat) : Nat := s.cur.foldl (fun n d => n + (d.2.core c).mq.length) 0

/-- A matrix operation takes a queue entry, or the turn is empty (R138). -/
def enqueueMatrix (i : Instr) (a b : BitVec 5) (recs : List Word) (hold : Bool) (s : State) : Out :=
  if 2 ≤ matrixQueued s s.actor.core then .next s
  else
    let o : MatOp :=
      { id := s.here.nextOp, order := s.tick, slot := s.actor.slot, launch := s.thr.launch, instr := i, a := s.reg a, b := s.reg b
        recs := recs, resume := s.thr.resume }
    let s := s.modHere (fun k => { k with mq := k.mq ++ [o], nextOp := k.nextOp + 1 })
    if hold then .next (s.modThr (fun th => { th with status := .engine, resume := false })) else .next (retire s)

/-- MMA (R142, R144). -/
def execMma (c : BitVec 3) (a b : BitVec 5) (x y : BitVec 3) (k : BitVec 1) (s : State) : Out :=
  issue (.mma c a b x y k) s (enqueueMatrix (.mma c a b x y k) a b [] true)

/-- MMAT; for mx4 the scale record is read at issue (R143). -/
def execMmat (c : BitVec 3) (a b : BitVec 5) (x y : BitVec 3) (k : BitVec 1) (s : State) : Out :=
  issue (.mmat c a b x y k) s (fun s =>
    if x = 6#3 then
      (scaleRecord s).out s (fun r => enqueueMatrix (.mmat c a b x y k) a b (wordsOf (natLe 16 r)) true s)
    else enqueueMatrix (.mmat c a b x y k) a b [] true s)

/-- MCONV; both records are read at issue (R145). -/
def execMconv (c : BitVec 3) (a b : BitVec 5) (x y : BitVec 3) (k : BitVec 1) (s : State) : Out :=
  issue (.mconv c a b x y k) s (fun s =>
    (loadBytes s ((s.reg a).setWidth 20) 32).out s (fun r =>
      (loadBytes s ((s.reg b).setWidth 20) 32).out s (fun q =>
        enqueueMatrix (.mconv c a b x y k) a b (wordsOf r ++ wordsOf q) true s)))

/-- MZERO does not hold its slot (R138, R146). -/
def execMzero (c : BitVec 3) (s : State) : Out :=
  issue (.mzero c) s (enqueueMatrix (.mzero c) 0#5 0#5 [] false)

/-- MLDACC (R146). -/
def execMldacc (c : BitVec 3) (a : BitVec 5) (s : State) : Out :=
  issue (.mldacc c a) s (enqueueMatrix (.mldacc c a) a 0#5 [] true)

/-- MSTACC (R146). -/
def execMstacc (c : BitVec 3) (a : BitVec 5) (s : State) : Out :=
  issue (.mstacc c a) s (enqueueMatrix (.mstacc c a) a 0#5 [] true)

/-- A matrix operation of the core that issued before number `n` is under way. -/
def matrixOpen (k : TCore) (n : Nat) : Bool := k.mq.any (fun o => decide (o.id < n))

/-- MWAIT (R147). -/
def execMwait (s : State) : Out := issue .mwait s (waitFor .mwait matrixOpen)

/-! ### Completion -/

/-- The operation that the engine of a core performs: the oldest of all tenants' entries (R137, R140, R151). -/
def matrixFirst (s : State) (c : Nat) (o : MatOp) : Bool :=
  s.cur.all (fun d => (d.2.core c).mq.all (fun x => decide (o.order ≤ x.order)))

/-- The engine's operation, where it is the tenant's, is performed to its end and its entry freed (R138, R151). A stopped or
voided tenant's operations are abandoned (R152). DESIGN CHOICE, log entry 60. -/
def execMatrixOpComplete (t c : Nat) (s : State) : Out :=
  match (s.coreOf t c).mq with
  | [] => .next s
  | o :: rest =>
    if !(s.tenant t).phase.issues || !matrixFirst s c o then .next s
    else
      let s := s.modCoreOf t c (fun k => { k with mq := rest })
      .next (onThread { tid := t, core := c, slot := o.slot } 0 (runMatrix o) s)

/-- One unit of the engine's operation; where the unit would trap, or none is left, the operation's end is due (R148, R151).
DESIGN CHOICE, log entry 60. -/
def matrixUnit (t c : Nat) (s : State) : State :=
  match (s.coreOf t c).mq with
  | [] => s
  | o :: rest =>
    if !(s.tenant t).phase.issues || !matrixFirst s c o || o.align.isSome then s
    else onThread { tid := t, core := c, slot := o.slot } 0 (fun s =>
      let p := o.place s
      if o.engine.rows ≤ p.row then s
      else match o.engine.unit p s with
        | .ok (s', p') => s'.modHere (fun k => { k with mq := { o with prog := some p' } :: rest })
        | _ => s) s

end Sys2Proof.Machine
end

