-- ==== Sys2Proof/Machine/Sync.lean ====
section
/-! DEFINITION. Semaphores, rings, fences, local copies, SYNC, XEND and XBAR (spec/08_memory_isa.md R177 to R187, R199
to R201; spec/02_state.md R40). -/

namespace Sys2Proof.Machine

/-! ### Bounded waits (R180) -/

/-- A wait that may expire: its condition, what passing it does, and the trap of its expiry (Table 8.2). -/
structure Bounded where
  holds  : Bool
  pass   : State → State
  report : Trap

/-- The instruction passes where its condition holds, else its slot is held (R180). DEDUCED, log entry 57. -/
def boundedWait (i : Instr) (b : Bounded) (s : State) : Out :=
  if b.holds then .next (retire (b.pass s)) else .next (wait (.waiting i) s)

/-- SEMWAIT's condition (R178). -/
def semBounded (d a n : BitVec 5) (s : State) : Bounded :=
  let t := (s.reg d).toNat % 2 ^ 32 + n.toNat
  { holds := decide (t ≤ (s.sem a.toNat).toNat)
    pass := id
    report := { cause := .waitExpired, aux := a.setWidth 64
                val := BitVec.ofNat 64 ((s.sem a.toNat).toNat + min t (2 ^ 32 - 1) * 2 ^ 32) } }

/-- SEMWAIT (R178). -/
def execSemwait (d a n e : BitVec 5) (s : State) : Out :=
  issue (.semwait d a n e) s (fun s => boundedWait (.semwait d a n e) (semBounded d a n s) s)

/-- v clamped to 32 bits (R179). -/
def clamp32 (v : Int) : BitVec 32 := BitVec.ofInt 32 (max 0 (min v 0xFFFFFFFF))

/-- A semaphore takes a value; the old one goes to g[c] (R179). -/
def semUpdate (a c : BitVec 5) (v : Int) (s : State) : State :=
  (s.setSem a.toNat (clamp32 v)).setReg c ((s.sem a.toNat).setWidth 64)

/-- SEMSIG (R179). -/
def execSemsig (d a n c : BitVec 5) (s : State) : Out :=
  issue (.semsig d a n c) s (fun s =>
    .next (retire (semUpdate a c (((s.sem a.toNat).toNat : Int) + ((s.reg d).setWidth 32).toInt + (n.toNat : Int)) s)))

/-- SEMSET (R179). -/
def execSemset (d a n c : BitVec 5) (s : State) : Out :=
  issue (.semset d a n c) s (fun s =>
    .next (retire (semUpdate a c ((((s.reg d).setWidth 32).toNat : Int) + (n.toNat : Int)) s)))

/-! ### Rings (R40, R181, R182) -/

def ringBase (h : Word) : Nat := (h.extractLsb' 0 14).toNat * 64
def ringLogn (h : Word) : Nat := (h.extractLsb' 14 4).toNat
def ringLoge (h : Word) : Nat := (h.extractLsb' 18 3).toNat
def ringHead (h : Word) : Nat := (h.extractLsb' 32 16).toNat
def ringTail (h : Word) : Nat := (h.extractLsb' 48 16).toNat
/-- occ = (TAIL − HEAD) mod 2^16. -/
def ringOcc (h : Word) : Nat := (ringTail h + 65536 - ringHead h) % 65536
/-- Addr(i) = BASE64·64 + (i mod C)·8·2^LOGE. -/
def ringAddr (h : Word) (i : Nat) : Word :=
  BitVec.ofNat 64 (ringBase h + i % 2 ^ ringLogn h * (8 * 2 ^ ringLoge h))

/-- Ring handle `r` of the actor's core. -/
def State.ring (s : State) (r : Nat) : Word := s.here.rings.get r 0#64
def State.setRing (s : State) (r : Nat) (h : Word) : State :=
  s.modHere (fun k => { k with rings := k.rings.set r h })

/-- A handle whose region is invalid (R40). -/
def ringTrap (h : Word) : Option Trap :=
  if 12 < ringLogn h || 4 < ringLoge h then
    some { cause := .localUnmapped, val := BitVec.ofNat 64 (ringBase h), aux := 8#64 }
  else if 0x80000 < ringBase h + 2 ^ ringLogn h * (8 * 2 ^ ringLoge h) then
    some { cause := .localUnmapped, val := 0x80000#64 }
  else none

/-- The conditions of RINGWAIT and RINGRSV (R181). -/
def ringBounded (rsv : Bool) (d : BitVec 5) (r : BitVec 4) (n : BitVec 5) (s : State) : Bounded :=
  let h := s.ring r.toNat
  { holds := decide (n.toNat ≤ if rsv then 2 ^ ringLogn h - ringOcc h else ringOcc h)
    pass := fun s => s.setReg d (ringAddr h (if rsv then ringTail h else ringHead h))
    report := { cause := .waitExpired, aux := BitVec.ofNat 64 (r.toNat + (if rsv then 64 else 32))
                val := BitVec.ofNat 64 (ringHead h + ringTail h * 2 ^ 16 + n.toNat * 2 ^ 32) } }

/-- A ring instruction whose handle's region is checked first. DEDUCED, log entry 72. -/
def withRing (r : BitVec 4) (s : State) (f : Word → Out) : Out :=
  match ringTrap (s.ring r.toNat) with
  | some t => trapOut t s
  | none => f (s.ring r.toNat)

/-- RINGWAIT (R181). -/
def execRingwait (d : BitVec 5) (r : BitVec 4) (n e : BitVec 5) (s : State) : Out :=
  issue (.ringwait d r n e) s (fun s =>
    withRing r s (fun _ => boundedWait (.ringwait d r n e) (ringBounded false d r n s) s))

/-- RINGRSV (R181). -/
def execRingrsv (d : BitVec 5) (r : BitVec 4) (n e : BitVec 5) (s : State) : Out :=
  issue (.ringrsv d r n e) s (fun s =>
    withRing r s (fun _ => boundedWait (.ringrsv d r n e) (ringBounded true d r n s) s))

/-- An out-of-range use of RINGADV (R182). -/
def ringRange (v : Word) (s : State) : Out := trapOut { cause := .illegalInstruction, val := v, aux := 2#64 } s

/-- RINGADV mode 0: HEAD + n (R182). -/
def execRingadvHead (d : BitVec 5) (r : BitVec 4) (n : BitVec 5) (s : State) : Out :=
  issue (.ringadvHead d r n) s (fun s => withRing r s (fun h =>
    if ringOcc h < n.toNat then ringRange (n.setWidth 64) s
    else
      let head := (ringHead h + n.toNat) % 65536
      let h' := BitVec.ofNat 64 (h.toNat % 2 ^ 32 + head * 2 ^ 32 + ringTail h * 2 ^ 48)
      .next (retire ((s.setRing r.toNat h').setReg d (ringAddr h' head)))))

/-- RINGADV mode 1: TAIL + n (R182). -/
def execRingadvTail (d : BitVec 5) (r : BitVec 4) (n : BitVec 5) (s : State) : Out :=
  issue (.ringadvTail d r n) s (fun s => withRing r s (fun h =>
    if 2 ^ ringLogn h - ringOcc h < n.toNat then ringRange (n.setWidth 64) s
    else
      let tail := (ringTail h + n.toNat) % 65536
      let h' := BitVec.ofNat 64 (h.toNat % 2 ^ 48 + tail * 2 ^ 48)
      .next (retire ((s.setRing r.toNat h').setReg d (ringAddr h' tail)))))

/-- A value that no handle may hold (R182). -/
def ringRefused (v : Word) : Bool :=
  v.extractLsb' 21 11 != 0#11 || decide (12 < ringLogn v) || decide (4 < ringLoge v) ||
    decide (2 ^ ringLogn v < ringOcc v)

/-- RINGADV mode 2: the handle is written (R40, R182). DEDUCED, log entry 72. -/
def execRingadvWrite (d : BitVec 5) (r : BitVec 4) (s : State) : Out :=
  issue (.ringadvWrite d r) s (fun s => withRing r s (fun _ =>
    if ringRefused (s.reg d) then ringRange (s.reg d) s else .next (retire (s.setRing r.toNat (s.reg d)))))

/-- RINGADV mode 3: the handle is read (R40, R182). DEDUCED, log entry 72. -/
def execRingadvRead (d : BitVec 5) (r : BitVec 4) (s : State) : Out :=
  issue (.ringadvRead d r) s (fun s => withRing r s (fun h => .next (retire (s.setReg d h))))

/-! ### The transfer control word (R184) -/

structure Control where
  len  : Nat
  sem  : Nat
  sig  : Bool
  rsem : Nat
  rsig : Bool
  deriving DecidableEq, Repr

/-- Table 8.3. -/
def controlOf (w : Word) : Control :=
  { len := bitsOf w.toNat 0 21, sem := bitsOf w.toNat 21 5, sig := w.getLsbD 26,
    rsem := bitsOf w.toNat 27 5, rsig := w.getLsbD 32 }

/-- The check of SEM, and of RSEM where the issuing core receives (R184). -/
def controlTrap (s : State) (w : Word) (receives : Bool) : Option Trap :=
  let c := controlOf w
  if (c.sig && !s.here.share.sem.getLsbD c.sem) || (receives && c.rsig && !s.here.share.sem.getLsbD c.rsem) then
    some { cause := .illegalRegister, val := w }
  else none

/-- The first trap of a list of checks, else the effect. -/
def firstTrap (ts : List (Option Trap)) (s : State) (f : State → Out) : Out :=
  match ts.findSome? id with
  | some t => trapOut t s
  | none => f s

/-- MISALIGNED with the operand's number (R185, R188). -/
def misalignedOperand (bad : Bool) (v : Word) (aux : Nat) : Option Trap :=
  if bad then some { cause := .misaligned, val := v, aux := BitVec.ofNat 64 aux } else none

/-! ### Local copies (R185, R186) -/

/-- The aligned 64-byte pieces of a range of `n` bytes from `a`: offset and length of each; `fuel` bounds them. -/
def pieces (a : Nat) : Nat → Nat → Nat → List (Nat × Nat)
  | 0, _, _ => []
  | fuel + 1, off, n =>
    if n ≤ off then []
    else
      let w := min (n - off) (64 - (a + off) % 64)
      (off, w) :: pieces a fuel (off + w) n

def piecesOf (a n : Nat) : List (Nat × Nat) := pieces a (n / 64 + 2) 0 n

/-- One unit of CPY (R185). -/
def copyUnit (d a : LAddr) (u : Nat × Nat) (s : State) : Acc State :=
  (loadRange s (a + BitVec.ofNat 20 u.1) u.2).bind (fun bs =>
    (prepareStore s (d + BitVec.ofNat 20 u.1) 1).bind (fun (s', f, off) =>
      .ok (putHere s' (d + BitVec.ofNat 20 u.1) f off bs)))

/-- Elements of a unit of CPYSH (R186). -/
def copyRun (f : Nat) : Nat := if fmtIsMx f then 128 else 512 / fmtWidth f

/-- A block of mx4 data with its scale: outside the source the record's PAD with scale 0x7F (R83).
DESIGN CHOICE, log entry 138. -/
def sourceBlock (s : State) (src : Shape) (f : Nat) : Acc (List Byte × List Byte) :=
  match src.index f with
  | none => .ok (natLe 16 (vpack 4 (List.replicate 32 (src.pad % 16))), [0x7F#8])
  | some si => (loadBytes s (src.addr si) 16).bind (fun b => (loadBytes s (src.scaleAddr si) 1).bind (fun e => .ok (b, e)))

/-- An element: outside the source the record's PAD. -/
def sourceElem (s : State) (src : Shape) (f : Nat) : Acc (List Byte) :=
  match src.index f with
  | none => .ok (natLe (fmtWidth src.fmt / 8) src.pad)
  | some si => loadBytes s (src.addr si) (fmtWidth src.fmt / 8)

/-- Blocks of a unit of mx4 data from flat index `f0`, `n` of them: what is written where (R186, R83).
DEDUCED, log entry 74. DESIGN CHOICE, log entry 138. -/
def copyBlocks (s : State) (src dst : Shape) (f0 : Nat) : Nat → Acc (List (LAddr × List Byte))
  | 0 => .ok []
  | n + 1 =>
    match dst.index f0 with
    | none => copyBlocks s src dst (f0 + 32) n
    | some di =>
      (sourceBlock s src f0).bind (fun p =>
        (copyBlocks s src dst (f0 + 32) n).bind (fun r => .ok ((dst.addr di, p.1) :: (dst.scaleAddr di, p.2) :: r)))

/-- Elements of a unit from flat index `f0`, `n` of them (R186). DEDUCED, log entry 74. -/
def copyElems (s : State) (src dst : Shape) (f0 : Nat) : Nat → Acc (List (LAddr × List Byte))
  | 0 => .ok []
  | n + 1 =>
    match dst.index f0 with
    | none => copyElems s src dst (f0 + 1) n
    | some di =>
      (sourceElem s src f0).bind (fun b =>
        (copyElems s src dst (f0 + 1) n).bind (fun r => .ok ((dst.addr di, b) :: r)))

/-- Unit `i` of CPYSH over `n` elements from flat index `f0`: its writes are checked before any is made (R186). -/
def shapeUnit (src dst : Shape) (f0 n i : Nat) (s : State) : Acc State :=
  let run := copyRun src.fmt
  let k := min run (n - i * run)
  (if fmtIsMx src.fmt then copyBlocks s src dst (f0 + i * run) (k / 32)
   else copyElems s src dst (f0 + i * run) k).bind (storeAll s)

/-- The completion signal of a copy (R185). -/
def signalOf (w : Word) (p : Party) (s : State) : State :=
  if (controlOf w).sig then bumpSem s p.tid p.core (controlOf w).sem else s

/-- Units of a copy. -/
def CopyOp.units (o : CopyOp) : Nat :=
  let n := (controlOf o.b).len
  match o.instr with
  | .cpy _ _ _ => (piecesOf (o.d.toNat % 2 ^ 20) n).length
  | _ =>
    let run := copyRun (Shape.ofBytes (bytesOf (o.recs.drop 4))).fmt
    (n + run - 1) / run

/-- Unit `i` of a copy (R185, R186). -/
def CopyOp.unit (o : CopyOp) (i : Nat) (s : State) : Acc State :=
  let n := (controlOf o.b).len
  match o.instr with
  | .cpy _ _ _ => copyUnit (o.d.setWidth 20) (o.a.setWidth 20) ((piecesOf (o.d.toNat % 2 ^ 20) n).getD i (0, 0)) s
  | _ => shapeUnit (Shape.ofBytes (bytesOf (o.recs.drop 4))) (Shape.ofBytes (bytesOf (o.recs.take 4))) o.c.toNat n i s

/-- The first unit of a copy that is still to be done (R46, R185). -/
def CopyOp.place (o : CopyOp) (s : State) : Nat := o.done.getD (unitsDone s o.resume)

/-- The rest of the copy `o` performed for its thread; SEM is signalled when it completes. -/
def runCopy (o : CopyOp) (s : State) : State :=
  match unitsFrom o.unit (o.units - o.place s) (o.place s) s with
  | (s', k, .ok ()) => engineEnd o.resume (signalOf o.b s.actor s', k, .ok ())
  | r => engineEnd o.resume r

/-- Operations in the copy queue of a core, of all tenants: copies, and transfers whose units are not all injected
(R188, R189). -/
def copyQueued (s : State) (c : Nat) : Nat :=
  s.cur.foldl (fun n d => n + (d.2.core c).cq.length + ((d.2.core c).xq.filter (fun x => !x.injected)).length) 0

/-- A copy takes a queue entry and holds its slot, or the turn is empty (R185). -/
def enqueueCopy (i : Instr) (d a b c : BitVec 5) (recs : List Word) (s : State) : Out :=
  if 2 ≤ copyQueued s s.actor.core then .next s
  else
    let o : CopyOp :=
      { id := s.here.nextOp, order := s.tick, slot := s.actor.slot, level := s.thr.level, instr := i, d := s.reg d,
        a := s.reg a, b := s.reg b, c := s.reg c, recs := recs, resume := s.thr.resume }
    let s := s.modHere (fun k => { k with cq := k.cq ++ [o], nextOp := k.nextOp + 1 })
    .next (s.modThr (fun th => { th with status := .engine, resume := false }))

/-- CPY (R185). -/
def execCpy (d a b : BitVec 5) (s : State) : Out :=
  issue (.cpy d a b) s (fun s =>
    let len := (controlOf (s.reg b)).len
    firstTrap
      [controlTrap s (s.reg b) false,
       misalignedOperand ((s.reg d).toNat % 8 != 0) (s.reg d) 0,
       misalignedOperand ((s.reg a).toNat % 8 != 0) (s.reg a) 1,
       misalignedOperand (decide (2 ^ 20 < len) || len % 8 != 0) (s.reg b) 2]
      s (enqueueCopy (.cpy d a b) d a b 0#5 []))

/-- CPYSH (R186); its records are read at issue. -/
def execCpysh (d a b c : BitVec 5) (s : State) : Out :=
  issue (.cpysh d a b c) s (fun s =>
    (loadBytes s ((s.reg d).setWidth 20) 32).out s (fun rd =>
      (loadBytes s ((s.reg a).setWidth 20) 32).out s (fun ra =>
        let len := (controlOf (s.reg b)).len
        let mx := fmtIsMx (Shape.ofBytes ra).fmt
        firstTrap
          [controlTrap s (s.reg b) false,
           misalignedOperand (decide (2 ^ 20 < len) || (mx && len % 32 != 0)) (s.reg b) 2,
           misalignedOperand (mx && (s.reg c).toNat % 32 != 0) (s.reg c) 3]
          s (enqueueCopy (.cpysh d a b c) d a b c (wordsOf rd ++ wordsOf ra)))))

/-- No operation of the core's copy queue that issued before step `order` has units left to inject: operations begin in issue
order, over all tenants (R169, R189, R203). -/
def copyFirst (s : State) (c order : Nat) : Bool :=
  s.cur.all (fun d => (d.2.core c).cq.all (fun x => decide (order ≤ x.order)) &&
    (d.2.core c).xq.all (fun x => x.injected || decide (order ≤ x.order)))

/-- The copy queue's first operation, where it is a copy of the tenant, is performed to its end (R185, R203).
DESIGN CHOICE, log entry 60. -/
def execCopyComplete (t c : Nat) (s : State) : Out :=
  match (s.coreOf t c).cq with
  | [] => .next s
  | o :: rest =>
    if !(s.tenant t).phase.issues || !copyFirst s c o.order then .next s
    else
      let s := s.modCoreOf t c (fun k => { k with cq := rest })
      .next (onThread { tid := t, core := c, slot := o.slot } o.level (runCopy o) s)

/-- One unit of that copy; where the unit would trap, or none is left, the copy's end is due (R187). -/
def copyStep (t c : Nat) (o : CopyOp) (rest : List CopyOp) (s : State) : State :=
  onThread { tid := t, core := c, slot := o.slot } o.level (fun s =>
    let i := o.place s
    if o.units ≤ i then s
    else match o.unit i s with
      | .ok s' => s'.modHere (fun k => { k with cq := { o with done := some (i + 1) } :: rest })
      | _ => s) s

/-! ### Phase ends and barriers (R199 to R201) -/

/-- SYNC (R199). -/
def execSync (s : State) : Out :=
  issue .sync s (fun s => .next (releaseHeld (retireInto .arrived s)))

/-- XEND retires once the slot's operations are done (R200). DEDUCED, log entry 104. -/
def execXend (s : State) : Out :=
  issue .xend s (fun s =>
    if slotQuiet s then .next (releaseHeld (retireInto .arrived s)) else .next (wait (.waiting .xend) s))

/-- Corners of a rectangle (Table 8.7). -/
def rectLo (r : BitVec 24) : Nat × Nat := ((r.extractLsb' 0 6).toNat, (r.extractLsb' 6 6).toNat)
def rectHi (r : BitVec 24) : Nat × Nat := ((r.extractLsb' 12 6).toNat, (r.extractLsb' 18 6).toNat)
/-- A core lies in a rectangle; cores are numbered 64·y + x (R11). -/
def inRect (r : BitVec 24) (c : Nat) : Bool :=
  decide ((rectLo r).1 ≤ c % 64) && decide (c % 64 ≤ (rectHi r).1) && decide ((rectLo r).2 ≤ c / 64) &&
    decide (c / 64 ≤ (rectHi r).2)
/-- The cores of a rectangle. -/
def rectCores (r : BitVec 24) : List Nat :=
  (List.range ((rectHi r).2 + 1 - (rectLo r).2)).flatMap (fun j =>
    (List.range ((rectHi r).1 + 1 - (rectLo r).1)).map (fun i => ((rectLo r).2 + j) * 64 + (rectLo r).1 + i))

/-- XBARs of a rectangle that a slot has executed in this phase (R201). -/
def Slot.barCount (x : Slot) (r : BitVec 24) : Nat := ((x.bars.find? (fun p => p.1 == r)).map (·.2)).getD 0

/-- The threads of a slot, those that a handler runs over among them. -/
def Slot.allThreads (x : Slot) : List Thread := x.thread :: x.handlers

/-- XBAR joins the next instance of its rectangle (R201). -/
def execXbar (d a : BitVec 5) (s : State) : Out :=
  issue (.xbar d a) s (fun s =>
    let r : BitVec 24 := (s.reg a).extractLsb' 0 24
    if !inRect r s.actor.core || decide (47 < (rectHi r).2) ||
        !(rectCores r).all (fun c => s.myLaunch.cores.contains c) then
      trapOut { cause := .translation, val := s.reg a } s
    else
      let k := s.slotHere.barCount r
      let s := s.modSlot (fun x => { x with bars := (r, k + 1) :: x.bars.filter (fun p => p.1 != r) })
      .next (retireInto (.barrier r k d.toNat) s))

/-- A slot has executed its XBAR of instance `k` of a rectangle, or counts as arrived (R201). DEDUCED, log entry 161. -/
def Slot.reached (x : Slot) (r : BitVec 24) (k : Nat) : Bool := decide (k < x.barCount r) || x.top.status.arrives

/-- A core has reached an instance: its slots have, their operations of the copy queue and their link transfers are done, so
that all their signals have been applied, and the instances before it have released, so that no thread waits in one (R201). -/
def coreReached (k : TCore) (r : BitVec 24) (n : Nat) : Bool :=
  (liveSlots k).all (fun j => (k.slot j).reached r n && !k.xq.any (fun x => x.slot == j) &&
    !k.cq.any (fun x => x.slot == j) && !k.links.any (fun x => x.slot == j) && !k.port.any (fun x => x.slot == j) &&
    (k.slot j).allThreads.all (fun th => match th.status with
      | .barrier r' k' _ => r' != r || decide (n ≤ k')
      | _ => true))

/-- The threads that wait at an instance go on with its number in g[d]. -/
def releaseThread (r : BitVec 24) (k : Nat) (th : Thread) : Thread :=
  match th.status with
  | .barrier r' k' d => if r' = r ∧ k' = k then { (th.setReg (BitVec.ofNat 5 d) (BitVec.ofNat 64 k)) with status := .ready } else th
  | _ => th

/-- Instance `k` of a rectangle's barrier is released once every core of the rectangle has reached it (R201). -/
def execXbarRelease (t : Nat) (r : BitVec 24) (k : Nat) (s : State) : Out :=
  if !(s.tenant t).phase.issues then .next s
  else if (rectCores r).all (fun c => coreReached (s.coreOf t c) r k) then
    .next (s.modDev t (fun d => { d with cores := d.cores.map (fun p =>
      if inRect r p.1 then
        (p.1, { p.2 with slots := p.2.slots.map (fun q =>
          (q.1, { q.2 with thread := releaseThread r k q.2.thread, handlers := q.2.handlers.map (releaseThread r k) })) })
      else p) }))
  else .next s

end Sys2Proof.Machine
end

