-- ==== Sys2Proof/Machine/Exchange.lean ====
section
/-! DEFINITION. Transfers between vaults and HBM, dependent loads, link transfers, fences, and the steps of the exchange
engine (spec/07_ordering.md R160, R162 to R164, R170; spec/08_memory_isa.md R183, R188 to R198; spec/15_isolation.md
R301 to R304). -/

namespace Sys2Proof.Machine

/-! ### Global addresses (R50) -/

/-- What a 64-bit address names. -/
inductive Global where
  | hbm (va : Nat)
  | vault (core : Nat) (la : LAddr)
  | none
  deriving DecidableEq, Repr

/-- The address space of R50. -/
def globalOf (a : Word) : Global :=
  if a.toNat < hbmLimit then .hbm a.toNat
  else if a.extractLsb' 32 32 = 0xFE00#32 then
    let x := (a.extractLsb' 26 6).toNat
    let y := (a.extractLsb' 20 6).toNat
    if 48 ≤ y || a.getLsbD 19 then .none else .vault (y * 64 + x) (a.setWidth 20)
  else .none

/-- A range of `n` bytes names HBM only. DEDUCED, log entry 65. -/
def hbmRange (a : Word) (n : Nat) : Bool :=
  match globalOf a with
  | .hbm va => decide (va + n ≤ hbmLimit)
  | _ => false
/-- A range of `n` bytes names one core's private pages only. DEDUCED, log entry 65. -/
def vaultRange (a : Word) (n : Nat) : Bool :=
  match globalOf a with
  | .vault _ la => decide (la.toNat + n ≤ 0x80000)
  | _ => false

/-! ### The thread's part of a transfer -/

/-- What a transfer keeps of the running thread. -/
def ctxOf (th : Thread) : IssueCtx :=
  { level := th.level, origin := th.origin, launch := th.launch, packet := th.packet, batch := th.batch,
    stream := th.stream }
/-- A thread that translates as the issuing one did. -/
def IssueCtx.thread (c : IssueCtx) : Thread :=
  { level := c.level, origin := c.origin, launch := c.launch, packet := c.packet, batch := c.batch, stream := c.stream }

/-- Where a private or window address of the issuing core leads for a transfer. -/
def localPlace (s : State) (t c : Nat) (x : IssueCtx) (a : LAddr) : Option Place := xlate s t c x.thread a

/-- The frame map through which `issuer` sees core `c`: its own as it stands, another's as committed (R21, R48).
DEDUCED, log entry 69. -/
def seenMap (s : State) (t issuer c : Nat) : TCore := if issuer = c then s.coreOf t c else (s.old t).core c

/-- Where a private address of core `c` leads when `issuer` names it globally (R50, R195). DESIGN CHOICE, log entry 128. -/
def globalPlace (s : State) (t issuer c : Nat) (a : LAddr) : Option Place :=
  let page := a.toNat / 4096
  if 0x80 ≤ page then none
  else if 0x7C ≤ page then some (.control (a.toNat - 0x7C000))
  else (privFrame (seenMap s t issuer c) page).map (fun f => .vault f (a.toNat % 4096))

/-- A revoked frame (R361). -/
def placeLost (s : State) (c : Nat) (p : Place) : Bool :=
  match p with
  | .vault f _ => s.lostFrames.contains (c, f)
  | .control _ => false

def translationTrap (v : Word) : Trap := { cause := .translation, val := v }

/-- Bytes of a transfer's local source, in the holder view (R190). -/
def localBytes (s : State) (t c : Nat) (x : IssueCtx) (a : LAddr) : Nat → Acc (List Byte)
  | 0 => .ok []
  | n + 1 =>
    match localPlace s t c x a with
    | none => .trap (translationTrap (a.setWidth 64))
    | some p =>
      if placeLost s c p then .lost (a.setWidth 64)
      else (localBytes s t c x (a + 1#20) n).bind (fun bs => .ok (readPlace s t c p 1 ++ bs))

/-- Bytes of core `c` named globally by `issuer`: its own vault in the holder view, another's as committed (R190).
DEDUCED, log entry 69. -/
def globalBytes (s : State) (t issuer c : Nat) (a : LAddr) : Nat → Acc (List Byte)
  | 0 => .ok []
  | n + 1 =>
    match globalPlace s t issuer c a with
    | none => .trap (translationTrap (a.setWidth 64))
    | some p =>
      if placeLost s c p then .lost (a.setWidth 64)
      else
        let b := if issuer = c then readPlace s t c p 1
          else match p with
            | .vault f off => (s.old t).vault.readBytes (vaultAddr c f off) 1
            | .control off => (s.old t).ctl.readBytes (ctlAddr c off) 1
        (globalBytes s t issuer c (a + 1#20) n).bind (fun bs => .ok (b ++ bs))

/-- Bytes of HBM as committed (R156). -/
def hbmSource (s : State) (t va : Nat) : Nat → Acc (List Byte)
  | 0 => .ok []
  | n + 1 =>
    match s.walk t va with
    | .bad => .trap (translationTrap (BitVec.ofNat 64 va))
    | .lost => .lost (BitVec.ofNat 64 va)
    | .ok l => (hbmSource s t (va + 1) n).bind (fun bs => .ok (s.hbmByte (s.material l.key) (l.phys va) :: bs))

/-! ### What a transfer is cut into (R173, R191) -/

/-- One unit: the receiving core (none for HBM), its destination address, where its bytes lie in the source, how many. -/
structure XUnit where
  core : Option Nat
  dst  : Nat
  off  : Nat
  len  : Nat
  deriving DecidableEq, Repr

/-- The units of `n` bytes to one place. -/
def unitsTo (core : Option Nat) (dst off n : Nat) : List XUnit :=
  (piecesOf dst n).map (fun p => { core := core, dst := dst + p.1, off := off + p.1, len := p.2 })

/-- Members of a multicast that the mask selects, in increasing bit (R191). -/
def maskMembers (ms : List Nat) (mask : Nat) : List Nat := (ms.zipIdx.filter (fun p => bitOf mask p.2)).map (·.1)

/-- The pattern of XDEAL (Table 8.5): corner, width, height, block size. -/
structure Deal where
  x  : Nat
  y  : Nat
  w  : Nat
  h  : Nat
  bs : Nat
def dealOf (c : Word) : Deal :=
  { x := bitsOf c.toNat 0 6, y := bitsOf c.toNat 6 6, w := bitsOf c.toNat 12 6 + 1, h := bitsOf c.toNat 18 6 + 1,
    bs := 64 * (bitsOf c.toNat 24 6 + 1) }
/-- The core that receives block `j`. -/
def Deal.core (p : Deal) (j : Nat) : Nat := (p.y + j % (p.w * p.h) / p.w) * 64 + p.x + j % (p.w * p.h) % p.w

/-- The cores that receive data or signals, in the order of delivery (R184, R191). DESIGN CHOICE, log entry 127. -/
def receivers (s : State) (t c : Nat) (o : XferOp) : List Nat :=
  match o.instr with
  | .xput _ _ _ | .xred _ _ _ _ => match globalOf o.d with
    | .vault k _ => [k]
    | _ => []
  | .xmcast _ _ _ _ =>
    maskMembers ((s.dev t).groups.get (bitsOf o.c.toNat 0 8) []) (bitsOf o.c.toNat 8 16)
  | .xdeal _ _ _ _ =>
    let p := dealOf o.c
    (List.range (min ((controlOf o.b).len / p.bs) (p.w * p.h))).map p.core
  | .xhspill _ _ _ => []
  | _ => [c]

/-- All units of a transfer in the order they are injected. DEDUCED, log entry 61. -/
def unitsOf (s : State) (t c : Nat) (o : XferOp) : List XUnit :=
  let n := (controlOf o.b).len
  match o.instr with
  | .xdeal _ _ _ _ =>
    let p := dealOf o.c
    (List.range (n / p.bs)).flatMap (fun j =>
      unitsTo (some (p.core j)) (o.d.toNat % 2 ^ 20 + j / (p.w * p.h) * p.bs) (j * p.bs) p.bs)
  | .xhspill _ _ _ => unitsTo none o.d.toNat 0 n
  | .xmcast _ _ _ _ =>
    let dst := o.d.toNat % 2 ^ 20
    (piecesOf dst n).flatMap (fun p =>
      (receivers s t c o).map (fun k => { core := some k, dst := dst + p.1, off := p.1, len := p.2 }))
  | _ => (receivers s t c o).flatMap (fun k => unitsTo (some k) (o.d.toNat % 2 ^ 20) 0 n)

/-- Source bytes of a unit of a transfer issued on core `c`; an XMCAST reads each piece once, for all members (R190, R191).
DEDUCED, log entry 61. -/
def sourceOf (s : State) (t c : Nat) (o : XferOp) (off n : Nat) : Acc (List Byte) :=
  match o.instr with
  | .xget _ _ _ => match globalOf (o.a + BitVec.ofNat 64 off) with
    | .vault k la => globalBytes s t c k la n
    | _ => .trap (translationTrap o.a)
  | .xhfill _ _ _ | .xdeal _ _ _ _ => hbmSource s t (o.a.toNat + off) n
  | .xmcast _ _ _ _ => match o.piece.filter (fun p => p.1 == off) with
    | some p => .ok p.2
    | none => localBytes s t c o.ctx (o.a.setWidth 20 + BitVec.ofNat 20 off) n
  | _ => localBytes s t c o.ctx (o.a.setWidth 20 + BitVec.ofNat 20 off) n

/-! ### Landing (R162 to R164, R174, R189) -/

/-- A frame of core `dc` made ready for an exchange write that its entry allows, with the checks of R189 in their
order. DEDUCED, log entry 68. -/
def landFrameIf (may : Nat → Word → Bool) (s : State) (t dc f : Nat) : Acc State :=
  let k := s.coreOf t dc
  let e := k.frame f
  if s.lostFrames.contains (dc, f) then .lost 0#64
  else if !fmW e then .trap { cause := .writeProtect }
  else if !may f e then .trap { cause := .capability }
  else if k.copied.contains f || (k.shadows.find f).isSome then .ok s
  else match pickFrom s (reserveOf s t dc) with
    | none => .trap { cause := .allowance }
    | some r => .ok ((s.modCoreOf t dc (fun k => { k with shadows := k.shadows.set f r })).drawn)

/-- The frame of a vault address as committed: core and frame. -/
def frameNamed (s : State) (t : Nat) (region : Word) : Option (Nat × Nat) :=
  match globalOf region with
  | .vault c la => (privFrame ((s.old t).core c) (la.toNat / 4096)).map (fun f => (c, f))
  | _ => none

/-- Core `issuer` has given a frame of another core away: it no longer holds it, though its message is still under way
(R174 rule 1). -/
def gaveFrame (s : State) (t issuer dc f : Nat) : Bool :=
  (s.dev t).capMsgs.any (fun m => m.give && m.src == issuer && m.frame.isNone && frameNamed s t m.region == some (dc, f))

/-- The leaf of an address, whose entry's place names the page. -/
def leafLoc (s : State) (t : Nat) (region : Word) : Option Nat :=
  match globalOf region with
  | .hbm va => match s.walk t va with
    | .ok l => some l.loc
    | _ => none
  | _ => none

/-- Core `issuer` has given the page of a leaf away (R174 rule 1). -/
def gavePage (s : State) (t issuer loc : Nat) : Bool :=
  (s.dev t).capMsgs.any (fun m => m.give && m.src == issuer && m.frame.isNone && leafLoc s t m.region == some loc)

/-- A write by core `issuer`, which must hold the frame (R174, R189). DEDUCED, log entry 67. -/
def landFrame (s : State) (t issuer dc f : Nat) : Acc State :=
  landFrameIf (fun f e => fmCapv e && fmHolder e == issuer && !gaveFrame s t issuer dc f) s t dc f

/-- Bytes `bs` that stand from vault address `a` on, as they are with what the device has landed over them. -/
def TenantDev.landed (d : TenantDev) (a : Nat) (bs : List Byte) : List Byte := bs.zipIdx.map (fun p => d.later.get (a + p.2) p.1)

/-- Bytes landed for a frame's holder, which no core reads before the commit (R171). -/
def putLater (s : State) (t c f off id : Nat) (bs : List Byte) : State :=
  if bs.isEmpty then s
  else markLine (s.modDev t (fun d => { d with
      later := bs.zipIdx.foldl (fun m p => TMap.set m (vaultAddr c f off + p.2) p.1) d.later })) t id false (vaultAddr c f off)

/-- A write by the device into a frame whose entry allows it: no core sees the bytes before the commit (R171).
DEDUCED, log entry 132. -/
def landLater (may : Nat → Word → Bool) (s : State) (t dc : Nat) (a : LAddr) (n : Nat) (new : List Byte → List Byte) :
    Acc State :=
  match globalPlace s t dc dc a with
  | none => .trap { cause := .localUnmapped }
  | some (.control _) => .trap { cause := .writeProtect }
  | some (.vault f off) =>
    (landFrameIf may s t dc f).bind (fun s' =>
      let v := vaultAddr dc f off
      .ok (putLater s' t dc f off (privLine dc a.toNat) (new ((s'.dev t).landed v ((s'.dev t).vault.readBytes v n)))))

/-- A write by the device under the authority of the frame's holder, whichever core that is (R246, R250): none holds a frame
that has been given away (R174 rule 2). -/
def landHeld (s : State) (t dc : Nat) (a : LAddr) (n : Nat) (new : List Byte → List Byte) : Acc State :=
  landLater (fun f e => fmCapv e && !gaveFrame s t (fmHolder e) dc f) s t dc a n new

/-- A transfer's bytes take the place of what the device has landed under them (R193). DEDUCED, log entry 132. -/
def dropLater (t a n : Nat) (s : State) : State :=
  s.modDev t (fun d => { d with later := d.later.filter (fun p => decide (p.1 < a) || decide (a + n ≤ p.1)) })

/-- Bytes landed at local address `a` of core `dc`, computed from the bytes that stand there. DEDUCED, log entry 67, 132. -/
def landVault (s : State) (t issuer dc : Nat) (x : IssueCtx) (win : Bool) (a : LAddr) (n : Nat)
    (new : List Byte → List Byte) : Acc State :=
  match (if win then localPlace s t dc x a else globalPlace s t issuer dc a) with
  | none => .trap { cause := .translation }
  | some (.control _) => .trap { cause := .writeProtect }
  | some (.vault f off) =>
    (landFrame s t issuer dc f).bind (fun s' =>
      .ok (putVault (dropLater t (vaultAddr dc f off) n s') t dc f off (lineId x.thread dc a)
        (new ((s'.dev t).vault.readBytes (vaultAddr dc f off) n))))

/-- The table with the entries from `s` on copied to `d` on, `n` of them. -/
def TMap.copyRange {α : Type} (m : TMap α) (d s n : Nat) : TMap α :=
  (m.filter (fun p => s ≤ p.1 && p.1 < s + n)).foldl (fun r p => TMap.set r (p.1 - s + d) p.2)
    (m.filter (fun p => p.1 < d || d + n ≤ p.1))

/-- The lines of a physical page held under key material. -/
def tagPage (mat : BitVec 512) (pfn bytes : Nat) (m : TMap (BitVec 512)) : TMap (BitVec 512) :=
  (List.range (bytes / 64)).foldl (fun m i => TMap.set m (pfn * 64 + i) mat) m

/-- The contents of one physical page copied to another: decrypted and encrypted again under the leaf's key, so a line that
another key wrote goes over as what it decrypts to (R163, R306). -/
def copyPage (s : State) (mat : BitVec 512) (old new bytes : Nat) : State :=
  let other := (s.hbmKey.filter (fun p => decide (old * 64 ≤ p.1 ∧ p.1 < old * 64 + bytes / 64) && p.2 != mat)).map (·.1)
  let hbm := s.hbm.copyRange s.hbm (new * 4096) (old * 4096) bytes
  let hbm := other.foldl (fun m l => m.writeBytes (l * 64 - old * 4096 + new * 4096) (s.hbmBytes mat (l * 64) 64)) hbm
  { s with hbm := hbm, hbmKey := tagPage mat new bytes s.hbmKey }

/-- A state page mapped more than once and not copy-on-write takes no write (Table 15.3). -/
def sharedRigid (s : State) (l : Leaf) : Bool := l.st && !l.cow && decide (1 < s.pageCnt.get l.pfn 0)

/-- The stream that a fresh state page is charged to (R163, R303). -/
def pageCharge (s : State) (t : Nat) (x : IssueCtx) (l : Leaf) : Option Nat :=
  if l.st then chargeTo s t x.thread else none

/-- HQUOTA of a stream is spent (R261, R307). -/
def hquotaSpent (s : State) (t sid : Nat) : Bool :=
  let d := (s.old t).streams.get sid {}
  decide (quotaOf s sid true d.hquota.toNat ≤ d.hused.toNat + ((s.dev t).fresh.filter (fun f => f.charge == some sid)).length)

/-- A fresh page for the page of `va` (R163): the state, and the page's physical frame. DEDUCED, log entry 103. -/
def freshPage (s : State) (t : Nat) (x : IssueCtx) (va : Nat) (l : Leaf) : Acc (State × Nat) :=
  let base := va / pageBytes l.size * pageBytes l.size
  match (s.dev t).fresh.find? (fun f => f.va == base && f.bytes == pageBytes l.size) with
  | some f => .ok (s, f.new)
  | none =>
    let charge := pageCharge s t x l
    match charge.filter (fun sid => hquotaSpent s t sid) with
    | some sid => .trap { cause := .quota, aux := BitVec.ofNat 64 (sid * 2 ^ 24 + 2 ^ 42) }
    | none =>
      let free := ((s.dev t).pool.filter (fun p => p.2 == pageBytes l.size && !s.retired p.1 (p.2 / 4096) && !(s.dev t).fresh.any (fun f => f.new == p.1))).map (·.1)
      match pickFrom s free with
      | none => .trap { cause := .allowance }
      | some new =>
        let s := copyPage s (s.material l.key) l.pfn new (pageBytes l.size)
        .ok ((s.modDev t (fun d => { d with fresh := d.fresh ++
          [{ va := base, bytes := pageBytes l.size, old := l.pfn, new := new, charge := charge }] })).drawn, new)

/-- Bytes put into HBM at `va`, within one 64-byte line, in a page whose leaf allows it (R163, R189, R304): the state and the
physical address. -/
def putHbmIf (may : Leaf → Bool) (s : State) (t : Nat) (x : IssueCtx) (va : Nat) (bs : List Byte) : Acc (State × Nat) :=
  match s.walk t va with
  | .bad => .trap { cause := .translation }
  | .lost => .lost 0#64
  | .ok l =>
    if !l.w || sharedRigid s l then .trap { cause := .translation }
    else if !may l then .trap { cause := .capability }
    else (freshPage s t x va l).bind (fun (s', new) =>
      let pa := new * 4096 + va % pageBytes l.size
      .ok (s'.hbmPuts (s'.material l.key) pa bs, pa))

/-- Bytes landed in HBM, which the digest counts (R313). -/
def landHbmIf (may : Leaf → Bool) (s : State) (t : Nat) (x : IssueCtx) (va : Nat) (bs : List Byte) : Acc State :=
  (putHbmIf may s t x va bs).bind (fun (s', pa) => .ok (markLine s' t (va / 64 * 64) true pa))

/-- A write of core `issuer`, which must hold the page (R304). -/
def landHbm (s : State) (t issuer : Nat) (x : IssueCtx) (va : Nat) (bs : List Byte) : Acc State :=
  landHbmIf (fun l => l.capv && l.holder == issuer && !gavePage s t issuer l.loc) s t x va bs

/-- One element of XRED (R192): op, destination, source. -/
def redElem (op : BitVec 3) (a b : Nat) : Res :=
  let sa := toSigned 64 a
  let sb := toSigned 64 b
  match op.toNat with
  | 0 => { code := (a + b) % 2 ^ 64 }
  | 1 => f32Add a b
  | 2 => { code := if sb < sa then b else a }
  | 3 => { code := if sa < sb then b else a }
  | 4 => { code := min a b }
  | _ => { code := max a b }

/-- The elements of a unit of XRED, width `w` bytes; `fuel` bounds them. -/
def redElems (op : BitVec 3) (w : Nat) : Nat → List Byte → List Byte → List Res
  | 0, _, _ => []
  | n + 1, old, src =>
    if src.isEmpty then []
    else redElem op (leNat (old.take w)) (leNat (src.take w)) :: redElems op w n (old.drop w) (src.drop w)

def redWidth (op : BitVec 3) : Nat := if op = 1#3 then 4 else 8

/-- The flags that a unit of XRED raises over the bytes that stand at its destination. -/
def redFlags (op : BitVec 3) (old src : List Byte) : FlagSet :=
  (redElems op (redWidth op) 16 old src).foldl (fun f r => f ||| r.flags) 0#6

/-- One unit lands (R190, R192). -/
def landUnit (s : State) (t c : Nat) (o : XferOp) (u : XUnit) (bs : List Byte) : Acc (State × FlagSet) :=
  match u.core with
  | none => (landHbm s t c o.ctx u.dst bs).bind (fun s' => .ok (s', 0#6))
  | some dc =>
    let a : LAddr := BitVec.ofNat 20 u.dst
    match o.instr with
    | .xred _ _ _ op =>
      let old := match globalPlace s t c dc a with
        | some (.vault f off) => (s.dev t).vault.readBytes (vaultAddr dc f off) u.len
        | _ => []
      (landVault s t c dc o.ctx false a u.len (fun old =>
        (redElems op (redWidth op) 16 old bs).flatMap (fun r => natLe (redWidth op) r.code))).bind (fun s' =>
          .ok (s', redFlags op old bs))
    | .xget _ _ _ | .xhfill _ _ _ =>
      (landVault s t c dc o.ctx true a u.len (fun _ => bs)).bind (fun s' => .ok (s', 0#6))
    | _ => (landVault s t c dc o.ctx false a u.len (fun _ => bs)).bind (fun s' => .ok (s', 0#6))

/-! ### Deferred faults of a transfer (R164, R189) -/

/-- The destination address that a deferred fault reports: `off` bytes into the transfer. DEDUCED, log entry 68. -/
def faultAddr (o : XferOp) (u : XUnit) : Word :=
  match o.instr with
  | .xput _ _ _ | .xred _ _ _ _ | .xhspill _ _ _ => o.d + BitVec.ofNat 64 u.off
  | _ => BitVec.ofNat 64 (u.dst % 2 ^ 20)

/-- A transfer leaves the completion table. -/
def dropXfer (t c id : Nat) (s : State) : State :=
  s.modCoreOf t c (fun k => { k with xq := k.xq.filter (fun x => x.id != id) })

/-- SEM, and RSEM of the receiving core, of an XLRECV (R184, R197). -/
def linkSignals (ctl : Word) (p : Party) (s : State) : State :=
  let s := signalOf ctl p s
  if (controlOf ctl).rsig then bumpSem s p.tid p.core (controlOf ctl).rsem else s

/-- A failing transfer stops, and its slot's deferred fault is entered (R164). -/
def stopXfer (t c : Nat) (o : XferOp) (cause : Cause) (aux addr : Word) (rank : Nat) (s : State) : State :=
  deferFault t o.ctx.launch { cause := cause, core := c, slot := o.slot, value := addr, aux := aux } rank
    (dropXfer t c o.id s)

/-- RSEM at a receiving core: the state, or none where the semaphore is not the tenant's (R184, R189, R190).
DEDUCED, log entry 62. -/
def signalRsem (t : Nat) (o : XferOp) (dc : Nat) (s : State) : Option State :=
  let w := controlOf o.b
  match o.instr with
  | .xhspill _ _ _ => some s
  | _ =>
    if !w.rsig then some s
    else if (s.coreOf t dc).share.sem.getLsbD w.rsem then some (bumpSem s t dc w.rsem) else none

/-- The transfer as it goes on after a unit. -/
def putXfer (t c : Nat) (o : XferOp) (s : State) : State :=
  s.modCoreOf t c (fun k => { k with xq := k.xq.map (fun x => if x.id = o.id then o else x) })

/-- A link transfer leaves the core, with what it has in the loop-back port. -/
def dropLink (t c id : Nat) (s : State) : State :=
  s.modCoreOf t c (fun k => { k with
    links := k.links.filter (fun l => l.id != id), port := k.port.filter (fun w => w.id != id) })

/-- An XLRECV completes: g[d] is the sender's LEN, SEM and RSEM are signalled, and its slot goes on (R197).
DEDUCED, log entry 71. -/
def linkLanded (l : LinkOp) (n : Nat) (s : State) : State :=
  linkSignals l.ctl s.actor (retire (s.setReg (BitVec.ofNat 5 l.d) (BitVec.ofNat 64 n)))

/-- The link transfer of a core that has a number is over: it leaves the core and its thread does as told.
DEDUCED, log entry 71. -/
def endLink (t c id : Nat) (f : LinkOp → State → State) (s : State) : State :=
  match (s.coreOf t c).links.find? (fun l => l.id == id) with
  | none => dropLink t c id s
  | some l => onThread { tid := t, core := c, slot := l.slot } l.level (f l) (dropLink t c id s)

/-- A write of the loop-back port takes effect; with a transfer's last one the transfer completes. One that fails takes the
rest of its transfer with it and is a deferred fault of its slot, which goes on (R164, R169, R197). DEDUCED, log entry 71. -/
def landPort (t c : Nat) (w : PortWrite) (s : State) : State :=
  if !(s.coreOf t c).port.contains w then s
  else
    let fail (cause : Cause) (rank : Nat) : State :=
      deferFault t w.ctx.launch { cause := cause, core := c, slot := w.slot, value := w.addr.setWidth 64 } rank
        (endLink t c w.id (fun _ => retire) s)
    match landVault s t c c w.ctx true w.addr w.data.length (fun _ => w.data) with
    | .trap e => fail e.cause 2
    | .lost _ => fail .memLost 1
    | .ok s' =>
      if w.last then endLink t c w.id (fun l => linkLanded l ((l.far.map (·.1)).getD 0)) s'
      else s'.modCoreOf t c (fun k => { k with port := k.port.filter (fun x => x != w) })

/-- Where the first byte of a unit lands: core, frame and offset of a vault, or the physical address in HBM (R193).
DEDUCED, log entry 63. -/
def unitSpot (s : State) (t c : Nat) (o : XferOp) (u : XUnit) : Option (Option (Nat × Nat) × Nat) :=
  match u.core with
  | none => match s.walk t u.dst with
    | .ok l => some (none, l.phys u.dst)
    | _ => none
  | some dc =>
    let a : LAddr := BitVec.ofNat 20 u.dst
    match (match o.instr with
      | .xget _ _ _ | .xhfill _ _ _ => localPlace s t dc o.ctx a
      | _ => globalPlace s t c dc a) with
    | some (.vault f off) => some (some (dc, f), off)
    | _ => none

/-- The destination bytes of two units meet, by whatever addresses they are named. DEDUCED, log entry 63. -/
def unitsMeet (x y : Option (Option (Nat × Nat) × Nat)) (m n : Nat) : Bool :=
  match x, y with
  | some (p, a), some (q, b) => p == q && decide (a < b + n) && decide (b < a + m)
  | _, _ => false

/-- An earlier transfer of the core has bytes of this unit still to write: the later bytes must remain (R193).
DEDUCED, log entry 63. -/
def unitBlocked (s : State) (t c : Nat) (o : XferOp) (u : XUnit) : Bool :=
  (s.coreOf t c).xq.any (fun p => decide (p.order < o.order) &&
    ((unitsOf s t c p).drop p.next).any (fun v => unitsMeet (unitSpot s t c p v) (unitSpot s t c o u) v.len u.len))

/-- Units of a transfer that have left the copy queue. -/
def XferOp.sent (o : XferOp) : Nat := o.next + o.flight.length

/-- The writes in a core's loop-back port take effect in their order before a read that enters it (R170).
DEDUCED, log entry 71. -/
def portDone (t c : Nat) (s : State) : State := (s.coreOf t c).port.foldl (fun s w => landPort t c w s) s

/-- A transfer reads its own core's vault by a global address, through the loop-back port (R170, R191). -/
def readsPort (c : Nat) (o : XferOp) : Bool :=
  match o.instr with
  | .xget _ _ _ => match globalOf o.a with
    | .vault k _ => k == c
    | _ => false
  | _ => false

/-- The next unit of a transfer leaves the copy queue with the bytes of its source as they stand (R170, R189, R190).
DEDUCED, log entry 61. -/
def injectUnit (t c : Nat) (o : XferOp) (s : State) : Acc XferOp :=
  let us := unitsOf s t c o
  match us[o.sent]? with
  | none => .ok { o with injected := true }
  | some u => (sourceOf s t c o u.off u.len).bind (fun bs =>
      .ok { o with flight := o.flight ++ [bs], piece := some (u.off, bs), injected := decide (o.sent + 1 = us.length) })

/-- The unit that a failing transfer reports. -/
def XferOp.unitAt (o : XferOp) (us : List XUnit) (i : Nat) : XUnit :=
  us.getD i { core := none, dst := o.d.toNat, off := 0, len := 0 }

/-- A step of a transfer, or its stop where it fails (R164). -/
def orStop (t c : Nat) (o : XferOp) (i : Nat) (r : Acc State) (s : State) : State :=
  match r with
  | .ok s' => s'
  | .trap e => stopXfer t c o e.cause e.aux (faultAddr o (o.unitAt (unitsOf s t c o) i)) 2 s
  | .lost _ => stopXfer t c o .memLost 0#64 (faultAddr o (o.unitAt (unitsOf s t c o) i)) 1 s

/-- The engine injects one unit of a transfer (R189). DESIGN CHOICE, log entry 64. -/
def injectStep (t c : Nat) (o : XferOp) (s : State) : State :=
  let s := if readsPort c o then portDone t c s else s
  orStop t c o o.sent ((injectUnit t c o s).bind (fun o' => .ok (putXfer t c o' s))) s

/-- The oldest unit under way lands; one to the issuing core's own vault enters the loop-back port behind the writes that are
in it (R170). RSEM of a core is signalled with its last unit, and the flags that the transfer's last unit completes are in FLAGS
before it (R99, R190). DESIGN CHOICE, log entry 60. -/
def landStep (t c : Nat) (o : XferOp) (s : State) : State :=
  let us := unitsOf s t c o
  match us[o.next]?, o.flight with
  | some u, bs :: rest =>
    if unitBlocked s t c o u then s
    else
      let s := if u.core == some c then portDone t c s else s
      orStop t c o o.next ((landUnit s t c o u bs).bind (fun (s', fl) =>
        let last := o.next + 1 == us.length
        let fl := o.flags ||| fl
        let s' := putXfer t c { o with next := o.next + 1, flight := rest, flags := if last then 0#6 else fl } s'
        let s' := if last then raiseFlagsOf { tid := t, core := c, slot := o.slot } fl s' else s'
        match u.core with
        | none => .ok s'
        | some dc =>
          if (us.drop (o.next + 1)).any (fun v => v.core == some dc) then .ok s'
          else match signalRsem t o dc s' with
            | some s'' => .ok s''
            | none => .ok (stopXfer t c o .translation 8#64 (faultAddr o u) 2 s'))) s
  | _, _ => s

/-- The next unit of transfer `id` of core `c` lands, or stops it (R164, R190). Where none is under way the engine injects
one first, if it is the transfer's turn in the copy queue (R189). DESIGN CHOICE, log entry 60, 64. -/
def execExchangeUnitLanding (t c id : Nat) (s : State) : Out :=
  match (s.coreOf t c).xq.find? (fun x => x.id == id) with
  | none => .next s
  | some o =>
    if !(s.tenant t).phase.issues then .next s
    else if !o.flight.isEmpty then .next (landStep t c o s)
    else if !copyFirst s c o.order || o.injected then .next s
    else
      let s' := injectStep t c o s
      match (s'.coreOf t c).xq.find? (fun x => x.id == id) with
      | none => .next s'
      | some o' => .next (landStep t c o' s')

/-- One unit of the operation at the head of a core's copy queue, where it is the tenant's (R187, R189).
DESIGN CHOICE, log entry 60, 64. -/
def copyQueueUnit (t c : Nat) (s : State) : State :=
  let k := s.coreOf t c
  if !(s.tenant t).phase.issues then s
  else match k.xq.find? (fun o => !o.injected && copyFirst s c o.order) with
    | some o => injectStep t c o s
    | none => match k.cq with
      | o :: rest => if copyFirst s c o.order then copyStep t c o rest s else s
      | [] => s

/-- A transfer whose units have all landed completes: flags, then RSEM where nothing was to land, then SEM (R99, R184,
R190). DESIGN CHOICE, log entry 127. -/
def execTransferComplete (t c id : Nat) (s : State) : Out :=
  match (s.coreOf t c).xq.find? (fun x => x.id == id) with
  | none => .next s
  | some o =>
    let us := unitsOf s t c o
    if !(s.tenant t).phase.issues || !o.injected || o.next < us.length then .next s
    else
      let rs := if us.isEmpty then receivers s t c o else []
      let zero : XUnit := { core := none, dst := o.d.toNat, off := 0, len := 0 }
      match rs.foldl (fun acc dc => acc.bind (signalRsem t o dc)) (some s) with
      | none => .next (stopXfer t c o .translation 8#64 (faultAddr o zero) 2 s)
      | some s =>
        let s := raiseFlagsOf { tid := t, core := c, slot := o.slot } o.flags s
        .next (signalOf o.b { tid := t, core := c, slot := o.slot } (dropXfer t c id s))

/-! ### Issue of a transfer (R188) -/

/-- The first unmapped page of a local range (R188 step 3). A revoked frame is mapped: the transfer that reaches it has its
deferred fault, and the slot goes on (R189, R361). -/
def localRange (s : State) (a : LAddr) (n : Nat) : Acc Unit :=
  if n = 0 then .ok ()
  else
    let first := a.toNat / 4096
    let count := (a.toNat % 4096 + n + 4095) / 4096
    (List.range count).foldl (fun acc i => acc.bind (fun _ =>
      let p : LAddr := if i = 0 then a else BitVec.ofNat 20 ((first + i) * 4096)
      match place s p with
      | .trap t => .trap t
      | _ => .ok ())) (.ok ())

/-- A transfer takes a queue entry and an entry of the completion table, and the slot goes on (R188). `hbm`: its units
are HBM accesses of the thread (R194). -/
def enqueueXfer (i : Instr) (d a b c : BitVec 5) (hbm : Bool) (s : State) : Out :=
  if s.here.share.ct ≤ s.here.xq.length || 2 ≤ copyQueued s s.actor.core then .next s
  else
    let o : XferOp :=
      { id := s.here.nextOp, order := s.tick, slot := s.actor.slot, instr := i, d := s.reg d, a := s.reg a, b := s.reg b,
        c := s.reg c, ctx := ctxOf s.thr }
    let n := if hbm then (unitsOf s s.actor.tid s.actor.core o).length else 0
    let s := s.modHere (fun k => { k with xq := k.xq ++ [o], nextOp := k.nextOp + 1 })
    .next (retire (s.modSlot (fun x => { x with hbmOpen := x.hbmOpen + n })))

/-- The alignment of addresses and LEN (R184, R188, R194). DEDUCED, log entry 66. -/
def xferAlign (s : State) (d a b : BitVec 5) (more : Bool) : List (Option Trap) :=
  let len := (controlOf (s.reg b)).len
  [misalignedOperand ((s.reg d).toNat % 8 != 0) (s.reg d) 0,
   misalignedOperand ((s.reg a).toNat % 8 != 0) (s.reg a) 1,
   misalignedOperand (decide (2 ^ 20 < len) || len % 8 != 0 || more) (s.reg b) 2]

/-- TRANSLATION at issue with the operand's number (R188 step 2). -/
def badOperand (bad : Bool) (v : Word) (aux : Nat) : Option Trap :=
  if bad then some { cause := .translation, val := v, aux := BitVec.ofNat 64 aux } else none

/-- A local operand is a local address: one with bits above it is a 64-bit address of the wrong kind (R188 step 2).
DEDUCED, log entry 65. -/
def notLocal (v : Word) (aux : Nat) : Option Trap := badOperand (v.extractLsb' 20 44 != 0#44) v aux

/-- The checks of a transfer in their order: SEM and RSEM, steps 1 to 3 of R188; then its entry. DEDUCED, log entry 65. -/
def startXfer (i : Instr) (d a b c : BitVec 5) (rsem more : Bool) (form : List (Option Trap))
    (loc : Option (BitVec 5)) (hbm : Bool) (s : State) : Out :=
  firstTrap (controlTrap s (s.reg b) rsem :: (xferAlign s d a b more ++ form)) s (fun s =>
    (match loc with
      | none => Acc.ok ()
      | some r => localRange s ((s.reg r).setWidth 20) (controlOf (s.reg b)).len).out s (fun _ =>
        enqueueXfer i d a b c hbm s))

/-- LEN of the control word in g[b]. -/
def lenOf (s : State) (b : BitVec 5) : Nat := (controlOf (s.reg b)).len

/-- XPUT (R191). -/
def execXput (d a b : BitVec 5) (s : State) : Out :=
  issue (.xput d a b) s (fun s => startXfer (.xput d a b) d a b 0#5 false false
    [badOperand (!vaultRange (s.reg d) (lenOf s b)) (s.reg d) 0, notLocal (s.reg a) 1] (some a) false s)

/-- XGET (R191). -/
def execXget (d a b : BitVec 5) (s : State) : Out :=
  issue (.xget d a b) s (fun s => startXfer (.xget d a b) d a b 0#5 true false
    [notLocal (s.reg d) 0, badOperand (!vaultRange (s.reg a) (lenOf s b)) (s.reg a) 1] (some d) false s)

/-- XDEAL (R191). -/
def execXdeal (d a b c : BitVec 5) (s : State) : Out :=
  issue (.xdeal d a b c) s (fun s =>
    let p := dealOf (s.reg c)
    let bad := decide (64 < p.x + p.w) || decide (48 < p.y + p.h) ||
      !(List.range (p.w * p.h)).all (fun j => s.myLaunch.cores.contains (p.core j))
    startXfer (.xdeal d a b c) d a b c false (lenOf s b % p.bs != 0)
      [notLocal (s.reg d) 0, badOperand (!hbmRange (s.reg a) (lenOf s b)) (s.reg a) 1, badOperand bad (s.reg c) 3] none true s)

/-- XMCAST (R191). -/
def execXmcast (d a b c : BitVec 5) (s : State) : Out :=
  issue (.xmcast d a b c) s (fun s =>
    let ms := (s.dev s.actor.tid).groups.get (bitsOf (s.reg c).toNat 0 8) []
    let mask := bitsOf (s.reg c).toNat 8 16
    startXfer (.xmcast d a b c) d a b c false false
      [notLocal (s.reg d) 0, notLocal (s.reg a) 1,
       badOperand (ms.isEmpty || mask == 0 || decide (2 ^ ms.length ≤ mask)) (s.reg c) 3] (some a) false s)

/-- XRED (R192). -/
def execXred (d a b : BitVec 5) (o : BitVec 3) (s : State) : Out :=
  issue (.xred d a b o) s (fun s => startXfer (.xred d a b o) d a b 0#5 false false
    [badOperand (!vaultRange (s.reg d) (lenOf s b)) (s.reg d) 0, notLocal (s.reg a) 1] (some a) false s)

/-- XHFILL (R194). -/
def execXhfill (d a b : BitVec 5) (s : State) : Out :=
  issue (.xhfill d a b) s (fun s => startXfer (.xhfill d a b) d a b 0#5 true false
    [notLocal (s.reg d) 0, badOperand (!hbmRange (s.reg a) (lenOf s b)) (s.reg a) 1] (some d) true s)

/-- XHSPILL (R194). -/
def execXhspill (d a b : BitVec 5) (s : State) : Out :=
  issue (.xhspill d a b) s (fun s => startXfer (.xhspill d a b) d a b 0#5 false false
    [badOperand (!hbmRange (s.reg d) (lenOf s b)) (s.reg d) 0, notLocal (s.reg a) 1] (some a) true s)

/-! ### Dependent loads (R195) and HBM accesses (R160, R301) -/

/-- The bytes that an XHLD at address `v` of core `c` returns. -/
def hldBytes (s : State) (t c : Nat) (v : Word) (n : Nat) : Acc (List Byte) :=
  match globalOf v with
  | .hbm va => hbmSource s t va n
  | .vault k la => globalBytes s t c k la n
  | .none => .trap (translationTrap v)

/-- The answer to an XHLD: its value, or its precise trap (R195). -/
def hldReply (s : State) (t c : Nat) (d : BitVec 5) (sz : BitVec 3) (v : Word) : Reply :=
  match hldBytes s t c v (sizeBytes sz.toNat) with
  | .ok bs => { writes := [(d.toNat, extendLoad sz.toNat bs)] }
  | .trap _ => { trap := some { cause := .translation, val := v, aux := 1#64 } }
  | .lost _ => { trap := some { cause := .memLost, val := v } }

/-- An address of the vault of core `c` itself: a load of it passes through the loop-back port (R195). -/
def ownVault (c : Nat) (v : Word) : Bool :=
  match globalOf v with
  | .vault k _ => k == c
  | _ => false

/-- XHLD leaves the rotation until its value returns; a load of its own core's vault enters the loop-back port at once, behind
the writes that are in it (R170, R195). -/
def execXhld (d a : BitVec 5) (sz : BitVec 3) (s : State) : Out :=
  issue (.xhld d a sz) s (fun s =>
    let v := s.reg a
    firstTrap [misalignedOperand (v.toNat % sizeBytes sz.toNat != 0) v 1, badOperand (globalOf v == .none) v 1] s (fun s =>
      let own := ownVault s.actor.core v
      let s := if own then portDone s.actor.tid s.actor.core s else s
      let r : Request :=
        { instr := .xhld d a sz, g := [v]
          reply := if own then some (hldReply s s.actor.tid s.actor.core d sz v) else none }
      .next ((wait (.asking r) s).modThr (fun th => { th with resume := false }))))

/-- An XHLD's answer reaches the thread that waits for it. -/
def xhldReturn (y : Reply) (s : State) : State :=
  match y.trap with
  | some tr => takeTrap tr s
  | none => retire (y.writes.foldl (fun s w => s.setReg (BitVec.ofNat 5 w.1) w.2) s)

/-- An HBM access of a slot's thread completes `excess` cycles after its unloaded latency: LATCNT takes them, and an XHLD
that waits has its value (R160, R195). DEDUCED, log entry 106. -/
def execHbmAccessComplete (t c n : Nat) (excess : BitVec 64) (s : State) : Out :=
  let p : Party := { tid := t, core := c, slot := n }
  let lat (s : State) : State := s.modSlotOf p (fun x => { x with latcnt := x.latcnt + excess })
  if !(s.tenant t).phase.issues then .next s
  else match (s.slotOf p).top.status with
    | .asking { instr := .xhld d _ sz, g := [v], recs := _, reply := y } =>
      .next (onThread p (s.slotOf p).top.level (xhldReturn (y.getD (hldReply s t c d sz v))) (lat s))
    | _ =>
      if (s.slotOf p).hbmOpen = 0 then .next s
      else .next (lat (s.modSlotOf p (fun x => { x with hbmOpen := x.hbmOpen - 1 })))

/-- A page-table walk of a core's engine ends: a translation enters the tenant's share of the TLB in place of the one it
inserted earliest (R300, R301). A walk that fails enters nothing: its access carries the fault. -/
def execPageWalkComplete (t c : Nat) (va : BitVec 64) (s : State) : Out :=
  match s.walk t va.toNat with
  | .ok l =>
    let e : TlbEntry := { page := va.toNat / pageBytes l.size, size := l.size, pfn := l.pfn, key := l.key }
    .next (s.modCoreOf t c (fun k =>
      let rest := k.tlb.filter (fun x => !(x.page == e.page && x.size == e.size))
      if k.share.tlb = 0 then k else { k with tlb := (rest.drop (rest.length + 1 - k.share.tlb)) ++ [e] }))
  | _ => .next s

/-! ### Fences (R170, R183) -/

/-- A transfer has loop-back writes still to land. -/
def loopsBack (s : State) (t c : Nat) (o : XferOp) : Bool :=
  ((unitsOf s t c o).drop o.next).any (fun u => u.core == some c)

/-- A loop-back write of an operation of the core that issued before number `n` has still to land. -/
def loopOpen (s : State) (k : TCore) (n : Nat) : Bool :=
  k.xq.any (fun o => decide (o.id < n) && loopsBack s s.actor.tid s.actor.core o) ||
  k.links.any (fun l => decide (l.id < n) && !l.sends) || k.port.any (fun w => decide (w.id < n))

/-- An operation of the queues that `q` selects, issued before number `n`, is under way. -/
def queueOpen (q : BitVec 2) (k : TCore) (n : Nat) : Bool :=
  (q.getLsbD 0 && matrixOpen k n) ||
  (q.getLsbD 1 && (k.cq.any (fun o => decide (o.id < n)) || k.xq.any (fun o => decide (o.id < n))))

/-- FENCE (R183). DEDUCED, log entry 104. -/
def execFence (s : State) : Out := issue .fence s (fun s => waitFor .fence (loopOpen s) s)

/-- QFENCE (R183). DEDUCED, log entry 104. -/
def execQfence (q : BitVec 2) (s : State) : Out := issue (.qfence q) s (waitFor (.qfence q) (queueOpen q))

/-! ### Link transfers (R196 to R198) -/

/-- The link word (Table 8.6). -/
def linkPort (w : Word) : Nat := bitsOf w.toNat 0 4
def linkTag (w : Word) : BitVec 16 := w.extractLsb' 4 16

/-- The channel that a tenant holds on a port (R384). -/
def channelOf (s : State) (port t : Nat) : Option Nat :=
  if 12 ≤ port then none
  else ((s.ports.get port {}).chans.find? (fun p => p.2.ltid == t)).map (·.1)

/-- The oldest issue of the far end that waits on a channel with a tag and a direction. -/
def takeWaiting (sends : Bool) (chan : Nat) (tag : BitVec 16) :
    List (Nat × Bool × BitVec 16 × Nat × List Byte) →
      Option ((Nat × List Byte) × List (Nat × Bool × BitVec 16 × Nat × List Byte))
  | [] => none
  | (c, d, g, n, bs) :: rest =>
    if c = chan ∧ d = sends ∧ g = tag then some ((n, bs), rest)
    else (takeWaiting sends chan tag rest).map (fun p => (p.1, (c, d, g, n, bs) :: p.2))

/-- An XLSEND or XLRECV: its checks, then it waits for its partner out of the rotation. A slot holds one link transfer: that
of a handler over a thread in one waits, like a transfer that finds its queue full (R188, R196, R197).
DEDUCED, log entry 133. -/
def linkOp (sends : Bool) (d a b c : BitVec 5) (s : State) : Out :=
  let len := lenOf s b
  let port := linkPort (s.reg c)
  firstTrap
    [controlTrap s (s.reg b) (!sends),
     misalignedOperand ((s.reg a).toNat % 8 != 0) (s.reg a) 1,
     misalignedOperand (decide (2 ^ 20 < len) || len % 8 != 0) (s.reg b) 2,
     notLocal (s.reg a) 1, badOperand (channelOf s port s.actor.tid).isNone (s.reg c) 3] s (fun s =>
    (localRange s ((s.reg a).setWidth 20) len).out s (fun _ =>
      if s.here.links.any (fun l => l.slot == s.actor.slot) then .next s else
      let p := s.ports.get port {}
      let chan := (channelOf s port s.actor.tid).getD 0
      let found := if p.up then takeWaiting (!sends) chan (linkTag (s.reg c)) p.waiting else none
      let o : LinkOp :=
        { id := s.here.nextOp, order := s.tick, slot := s.actor.slot, level := s.thr.level, sends := sends, d := d.toNat,
          addr := s.reg a, ctl := s.reg b, link := s.reg c, far := found.map (·.1) }
      let s := match found with
        | none => s
        | some (_, rest) => { s with ports := s.ports.set port { p with waiting := rest } }
      let s := s.modHere (fun k => { k with links := k.links ++ [o], nextOp := k.nextOp + 1 })
      .next (s.modThr (fun th => { th with status := .engine, resume := false }))))

/-- XLSEND (R197). -/
def execXlsend (d a b c : BitVec 5) (s : State) : Out :=
  issue (.xlsend d a b c) s (linkOp true d a b c)

/-- XLRECV (R197). -/
def execXlrecv (d a b c : BitVec 5) (s : State) : Out :=
  issue (.xlrecv d a b c) s (linkOp false d a b c)

/-- The link transfer of a slot (R197). -/
def linkOfSlot (k : TCore) (n : Nat) : Option LinkOp := k.links.find? (fun l => l.slot == n)

/-- All the local link transfers of a tenant that wait for a partner on a port, the oldest first. -/
def linksWaiting (s : State) (t port : Nat) (sends : Bool) (tag : BitVec 16) : List (Nat × LinkOp) :=
  let all := (s.dev t).cores.flatMap (fun p => (p.2.links.filter (fun l =>
    l.far.isNone && !l.stopped && l.sends == sends && linkPort l.link == port && linkTag l.link == tag)).map (fun l => (p.1, l)))
  sortBy (fun x y => decide (x.2.order ≤ y.2.order)) all

/-- A pair of channels works only when both ends name each other (R384). DEDUCED, log entry 112. -/
def Channel.meets (x : Channel) (far : FarEnd) : Bool :=
  x.ftid == far.tid && x.fser == far.serial && x.ltid == far.ftid && far.here

/-- The far end shows its binding: the pair of channels works from now on, or no longer (R384). DEDUCED, log entry 112. -/
def farBinding (port : Nat) (far : FarEnd) (s : State) : State :=
  let p := s.ports.get port {}
  match p.chans.find far.chan with
  | none => s
  | some ch => { s with ports := s.ports.set port { p with chans := p.chans.set far.chan { ch with met := ch.meets far } } }

/-- The far end's issue arrives: it matches the oldest local one of the other direction with its tag on the channel, or
waits for one (R197). DEDUCED, log entry 112. -/
def execLinkPartnerIssue (port : Nat) (far : FarEnd) (sends : Bool) (tag : BitVec 16) (len : Nat) (data : List (BitVec 8))
    (s : State) : Out :=
  let s := s.flitGood port
  let p := s.ports.get port {}
  match p.chans.find far.chan with
  | none => .next s
  | some ch =>
    if !p.up || !ch.meets far then .next s
    else match linksWaiting s ch.ltid port (!sends) tag with
      | [] => .next { s with ports := s.ports.set port { p with waiting := p.waiting ++ [(far.chan, sends, tag, len, data)] } }
      | (c, l) :: _ =>
        .next (s.modCoreOf ch.ltid c (fun k => { k with links := k.links.map (fun x =>
          if x.id = l.id then { x with far := some (len, data) } else x) }))

/-- The sender's end of a completed transfer: its bytes leave the port and g[d] is the number delivered (R197). -/
def linkSent (l : LinkOp) (n : Nat) (s : State) : State :=
  let port := linkPort l.link
  let p := s.ports.get port {}
  match localBytes s s.actor.tid s.actor.core (ctxOf s.thr) (l.addr.setWidth 20) (min (controlOf l.ctl).len n) with
  | .ok bs =>
    let s := { s with ports := s.ports.set port { p with sent := bs :: p.sent } }
    signalOf l.ctl s.actor (retire (s.setReg (BitVec.ofNat 5 l.d) (BitVec.ofNat 64 (min (controlOf l.ctl).len n))))
  | .trap _ => retire (deferFault s.actor.tid s.thr.launch
      { cause := .translation, core := s.actor.core, slot := s.actor.slot, value := l.addr } 2 s)
  | .lost a => retire (deferFault s.actor.tid s.thr.launch
      { cause := .memLost, core := s.actor.core, slot := s.actor.slot, value := a } 1 s)

/-- The pieces of an XLRECV enter the loop-back port in increasing address (R176, R197). -/
def linkPieces (l : LinkOp) (x : IssueCtx) (bs : List Byte) (take : Nat) : List PortWrite :=
  let base : LAddr := l.addr.setWidth 20
  let ps := piecesOf base.toNat take
  ps.zipIdx.map (fun p =>
    { id := l.id, slot := l.slot, ctx := x, addr := base + BitVec.ofNat 20 p.1.1, data := (bs.drop p.1.1).take p.1.2
      last := decide (p.2 + 1 = ps.length) })

/-- The bytes of an XLRECV reach its core and enter the loop-back port; it completes with the last of them, at once where it
takes none (R169, R170, R197). DEDUCED, log entry 71. -/
def linkReceived (l : LinkOp) (n : Nat) (bs : List Byte) (s : State) : State :=
  let take := min (controlOf l.ctl).len n
  let ps := linkPieces l (ctxOf s.thr) (bs ++ List.replicate (take - bs.length) 0#8) take
  if ps.isEmpty then linkLanded l n (dropLink s.actor.tid s.actor.core l.id s)
  else s.modHere (fun k => { k with
    port := k.port ++ ps, links := k.links.map (fun x => if x.id = l.id then { x with landing := true } else x) })

/-- The oldest write of a core's loop-back port takes effect (R170). DEDUCED, log entry 71. -/
def portLanding (t c : Nat) (s : State) : State :=
  match (s.coreOf t c).port with
  | [] => s
  | w :: _ => if (s.tenant t).phase.issues then landPort t c w s else s

/-- The bytes of a matched link transfer have crossed: the sender's end completes, the receiver's has them in its loop-back port
(R197). -/
def execLinkTransferComplete (t c n : Nat) (s : State) : Out :=
  match linkOfSlot (s.coreOf t c) n with
  | none => .next s
  | some l => match l.far with
    | none => .next s
    | some (len, bs) =>
      if !(s.tenant t).phase.issues || l.stopped || l.landing then .next s
      else .next (onThread { tid := t, core := c, slot := n } l.level
        (if l.sends then fun s => linkSent l len (dropLink t c l.id s) else linkReceived l len bs)
        (s.flitGood (linkPort l.link)))

/-- A link transfer stops with `moved` bytes moved: the slot has arrived, the phase is voided, EXCH_TIMEOUT follows
(R198). -/
def stopLink (t c n : Nat) (l : LinkOp) (moved : Nat) (partner : Bool) (s : State) : State :=
  let aux := BitVec.ofNat 64 (4 + partner.toNat * 8 + (if l.sends then 16 else 32) + moved % 2 ^ 21 * 2 ^ 24)
  onThread { tid := t, core := c, slot := n } l.level (fun s =>
    (deferFault t s.thr.launch { cause := .exchTimeout, core := c, slot := n, value := l.link, aux := aux } 3 s).modThr
      (fun th => { th with status := .arrived })) (dropLink t c l.id s)

/-- TMO passes: how many bytes have moved before is left open, up to what can move (R198). DESIGN CHOICE, log entry 70. -/
def execLinkTimeout (t c n : Nat) (s : State) : Out :=
  match linkOfSlot (s.coreOf t c) n with
  | none => .next s
  | some l =>
    if !(s.tenant t).phase.issues then .next s
    else
      let most := match l.far with
        | none => 0
        | some (len, _) => min (controlOf l.ctl).len len
      .next (stopLink t c n l ((Config.freeWord s.draw).toNat % (most + 1)) false s.drawn)

/-- The partner's stop arrives for a matched transfer whose bytes have not all crossed; none crosses a port that has gone down
(R197, R385). -/
def execLinkPartnerStop (t c n moved : Nat) (s : State) : Out :=
  match linkOfSlot (s.coreOf t c) n with
  | none => .next s
  | some l => match l.far with
    | none => .next s
    | some (len, _) =>
      if !(s.tenant t).phase.issues || l.stopped || l.landing || !(s.ports.get (linkPort l.link) {}).up then .next s
      else .next (stopLink t c n l (min moved (min (controlOf l.ctl).len len)) true
        (s.flitGood (linkPort l.link)))

/-- An issue of the far end that has found no partner here is withdrawn: its transfer has stopped and never matches again
(R197). DESIGN CHOICE, log entry 70. -/
def farStop (port index : Nat) (s : State) : State :=
  let p := s.ports.get port {}
  { s with ports := s.ports.set port { p with waiting := p.waiting.eraseIdx index } }

end Sys2Proof.Machine
end

