-- ==== Sys2Proof/Machine/Message.lean ====
section
/-! DEFINITION. Messages, remote updates, mailboxes and the task graph (spec/10_progress.md R219, R221, R222, R228;
spec/11_thread_isa.md R240 to R254; spec/07_ordering.md R175; spec/08_memory_isa.md R180, R193). -/

namespace Sys2Proof.Machine

/-! ### Sending (R240, R241) -/

/-- Outstanding spawns that a tenant may have on a core (R241). -/
def spawnLimit : Nat := 64

/-- The status of an instruction of the send family (R241). -/
def sendStatus (s : State) (kind : MsgKind) : Nat :=
  if kind = .spawn ∧ spawnLimit ≤ s.here.spawns then 2
  else if s.here.share.sendq ≤ s.here.sendq.length then 1
  else 0

/-- A message of the running thread; its sequence number is given when it is queued (Table 11.4). SID and SV are the sender's
STREAM in every kind. DESIGN CHOICE, log entry 143. -/
def mkMessage (s : State) (kind : MsgKind) (dest : Nat) (typ : BitVec 6) (pc : LAddr) (payload : List Word) : Message :=
  { src := s.actor.core, typ := typ, kind := kind, launch := s.thr.launch, sid := s.thr.stream.extractLsb' 0 18,
    sv := s.thr.stream.getLsbD 31, seq := 0#32, pc := pc, payload := payload, dest := dest, slot := s.actor.slot }

/-- The message enters the send queue with the next sequence number (R240, R241). -/
def enqueueMessage (m : Message) (s : State) : State :=
  s.modHere (fun k => { k with
    sendq := k.sendq ++ [{ m with seq := k.seq }], seq := k.seq + 1#32,
    spawns := if m.kind = .spawn then k.spawns + 1 else k.spawns })

/-- The send family: a status in g[d], or a trap where g0 is named and the status is not 0; `msg` is packed after g[d]
is written only for MIGRATE, `after` is what follows a message queued (R241, R245). -/
def sendMessage (kind : MsgKind) (d : BitVec 5) (msg : State → Message) (after : State → State) (s : State) : Out :=
  let st := sendStatus s kind
  if d = 0#5 ∧ st ≠ 0 then trapOut { cause := if st = 2 then .spawnLimit else .spillFull } s
  else if st ≠ 0 then .next (retire (s.setReg d (BitVec.ofNat 64 st)))
  else
    let done := s.setReg d 0#64
    .next (after (enqueueMessage (if kind = .migrate then msg done else msg s) done))

/-- Registers g[b] to g[b + n − 1]. -/
def payloadOf (s : State) (b : BitVec 5) (n : Nat) : List Word :=
  (List.range n).map (fun i => s.reg (BitVec.ofNat 5 (b.toNat + i)))

/-- Payload registers beyond the thread's bank (Table 11.3). -/
def payloadTrap (i : Instr) (b : BitVec 5) (n : Nat) (s : State) : Option Trap :=
  if (if s.thr.level = 0 then 31 else 8) < b.toNat + n - 1 then
    some { cause := .illegalRegister, val := trapWords s i }
  else none

/-- TRANSLATION of an operand register (Table 11.3). -/
def badReg (bad : Bool) (v : Word) : Option Trap := if bad then some (translationTrap v) else none

/-- SEND (R243). DEDUCED, log entry 90. -/
def execSend (d a b : BitVec 5) (s : State) : Out :=
  issue (.send d a b) s (fun s =>
    let v := s.reg a
    let core := (v.extractLsb' 0 12).toNat
    let typ : BitVec 6 := v.extractLsb' 12 6
    firstTrap
      [badReg (decide (coreCount ≤ core) || !s.myLaunch.cores.contains core || v.extractLsb' 18 46 != 0#46) v,
       payloadTrap (.send d a b) b 8 s,
       (if decide (56 ≤ typ.toNat) && !s.myLaunch.priv then some { cause := .privilege, val := v } else none)]
      s (sendMessage .send d (fun s => mkMessage s .send core typ 0#20 (payloadOf s b 8)) retire))

/-- SPAWN (R244). -/
def execSpawn (d a b : BitVec 5) (s : State) : Out :=
  issue (.spawn d a b) s (fun s =>
    let v := s.reg a
    let core := (v.extractLsb' 0 12).toNat
    firstTrap
      [badReg (decide (coreCount ≤ core) || !s.myLaunch.cores.contains core || v.extractLsb' 12 52 != 0#52) v,
       (if (s.reg b).toNat % 4 ≠ 0 then some { cause := .misaligned, val := s.reg b } else none)]
      s (sendMessage .spawn d (fun s => mkMessage s .spawn core 0#6 ((s.reg b).setWidth 20) (payloadOf s 1#5 4)) retire))

/-- The core and local address of a global vault address of a core of the launch (Table 11.3). -/
def vaultTarget (s : State) (v : Word) : Option (Nat × LAddr) :=
  match globalOf v with
  | .vault c la => if s.myLaunch.cores.contains c then some (c, la) else none
  | _ => none

/-- MIGRATE (R245): the thread leaves its slot with its message. -/
def execMigrate (d a : BitVec 5) (s : State) : Out :=
  issue (.migrate d a) s (fun s =>
    let v := s.reg a
    if s.thr.level ≠ 0 then trapOut { cause := .illegalInstruction, val := v } s
    else match vaultTarget s v with
      | none => trapOut (translationTrap v) s
      | some (core, _) =>
        sendMessage .migrate d
          (fun s => mkMessage s .migrate core 0#6 (s.wordAddr + 4#20) (payloadOf s 1#5 8)) freeThread s)

/-- Bytes of a remote update (R246). -/
def updateBytes (w : BitVec 1) (o : BitVec 4) : Nat := if w = 1#1 ∨ o = 6#4 then 4 else 8

/-- RUPD (R246): target address, operand, operation and width travel as the payload. DESIGN CHOICE, log entry 143. -/
def execRupd (d a b : BitVec 5) (w : BitVec 1) (o : BitVec 4) (s : State) : Out :=
  issue (.rupd d a b w o) s (fun s =>
    let v := s.reg a
    let n := updateBytes w o
    match vaultTarget s v with
      | none => trapOut (translationTrap v) s
      | some (core, _) =>
        if v.toNat % n ≠ 0 then trapOut { cause := .misaligned, val := v } s
        else sendMessage .rupd d (fun s => mkMessage s .rupd core 0#6 0#20
          [v, s.reg b, BitVec.ofNat 64 (o.toNat + 16 * n)]) retire s)

/-- MBXSEND (R250): the destination is a stream. -/
def execMbxsend (d a b : BitVec 5) (s : State) : Out :=
  issue (.mbxsend d a b) s (fun s =>
    let v := s.reg a
    firstTrap [badReg (v.extractLsb' 18 46 != 0#46) v, payloadTrap (.mbxsend d a b) b 7 s] s
      (sendMessage .mbxsend d (fun s => mkMessage s .mbxsend (v.extractLsb' 0 18).toNat 0#6 0#20 (payloadOf s b 7))
        retire))

/-! ### Draining (R219, R220, R255) -/

/-- The committed descriptor of a stream of tenant `t` (R258). -/
def descOf (s : State) (t sid : Nat) : Desc := (s.old t).streams.get sid {}

/-- The core that a message goes to: for a mailbox entry the home core of a live stream (R250). -/
def msgCore (s : State) (t : Nat) (m : Message) : Option Nat :=
  match m.kind with
  | .mbxsend =>
    let d := descOf s t m.dest
    if d.state = 1#2 then some d.home.toNat else none
  | _ => some m.dest

/-- The next message of a core that this phase has not tried, in send-sequence order (R255). -/
def nextMessage (s : State) (t src : Nat) : Option Message :=
  (s.coreOf t src).sendq.find? (fun m => m.tried != some s.phase)

/-- An earlier message of the same sender to the same core waits: messages to one core are accepted in send-sequence
order (R219, R256). -/
def heldBehind (s : State) (t src : Nat) (m : Message) : Bool :=
  (s.coreOf t src).sendq.any (fun x => decide (x.seq ≠ m.seq) && x.tried == some s.phase &&
    msgCore s t x == msgCore s t m)

/-- The message leaves its send queue. -/
def dropMessage (t src : Nat) (m : Message) (s : State) : State :=
  s.modCoreOf t src (fun k => { k with sendq := k.sendq.filter (fun x => decide (x.seq ≠ m.seq)) })

/-- The message is not accepted in this phase; one that was tried in an earlier phase has been retried (R219). -/
def refuseMessage (t src : Nat) (m : Message) (s : State) : State :=
  s.modCoreOf t src (fun k => { k with sendq := k.sendq.map (fun x =>
    if x.seq = m.seq then
      { x with tried := some s.phase,
               retries := if x.tried.isNone || 256 ≤ x.retries then x.retries else x.retries + 1 }
    else x) })

/-- The message is passed over in this phase: its tenant takes no part in it (R213, R356). DEDUCED, log entry 125. -/
def passMessage (t src : Nat) (m : Message) (s : State) : State :=
  s.modCoreOf t src (fun k => { k with sendq := k.sendq.map (fun x =>
    if x.seq = m.seq then { x with tried := some s.phase } else x) })

/-- The tenant sits the phase out or is held: a message that starts a thread still enters its queue, and one that would write
the tenant's memory waits (R213, R356). DEDUCED, log entry 125. -/
def sitsOut (s : State) (t : Nat) : Bool :=
  match (s.tenant t).phase with
  | .sitout _ | .held _ => true
  | _ => false

/-- The entry of a message written at the tail of the spill ring, in frame `f`: its 80 bytes and 48 of zero (R219, R242).
DEDUCED, log entry 91. -/
def putSpill (t c f : Nat) (m : Message) (s : State) : State :=
  let i := (s.coreOf t c).spillTail % 32
  (s.modDev t (fun d => { d with
    vault := d.vault.writeBytes (vaultAddr c f (128 * i)) (m.bytes t ++ List.replicate 48 0#8) })).modCoreOf t c
      (fun k => { k with spill := k.spill ++ [m], spillTail := k.spillTail + 1 })

/-- The spill ring of a core takes one more entry: a reserve frame for every 32 (R219). DEDUCED, log entry 91. -/
def spillMessage (t c : Nat) (m : Message) (s : State) : Option State :=
  let k := s.coreOf t c
  if k.share.spill ≤ k.spill.length then none
  else if k.spillTail % 32 ≠ 0 then
    some (putSpill t c (k.spillFrames.getLastD 0) m s)
  else match pickFrom s (reserveOf s t c) with
    | none => none
    | some f => some ((putSpill t c f m (s.setCoreOf t c { k with spillFrames := k.spillFrames ++ [f] })).drawn)

/-- A message is taken by its destination core, or not (R219). DEDUCED, log entry 91. -/
def acceptAt (t c : Nat) (m : Message) (s : State) : Option State :=
  let k := s.coreOf t c
  match m.kind with
  | .rupd => some (s.setCoreOf t c { k with updates := k.updates ++ [m] })
  | _ =>
    if k.arrq.length < arrqRoom s t c then some (s.setCoreOf t c { k with arrq := k.arrq ++ [m] })
    else spillMessage t c m s

/-- In throughput mode an arrival of level 1 to 3 that finds a free slot starts in the cycle it enters (R222). -/
def startAtOnce (t c : Nat) (s : State) : State :=
  if tenantDet s t || sitsOut s t then s
  else match freeSlots s t c with
    | [] => s
    | _ => (dispatchHandler t c s).getD s

/-- MESSAGE_ACCEPT (R219). DEDUCED, log entry 20, 125. -/
def execMessageAccept (t src : Nat) (s : State) : Out :=
  if !s.exchange || !((s.tenant t).phase.issues || sitsOut s t) then .next s
  else match nextMessage s t src with
    | none => .next s
    | some m =>
      if sitsOut s t && (m.kind == .rupd || m.kind == .mbxsend) then .next (passMessage t src m s)
      else if m.kind = .mbxsend then .next s
      else if heldBehind s t src m then .next (refuseMessage t src m s)
      else match acceptAt t m.dest m s with
        | none => .next (refuseMessage t src m s)
        | some s' => .next (startAtOnce t m.dest (dropMessage t src m s'))

/-- SPILL_FULL_RECORD (R219): once for a message retried in 256 exchange phases, whatever a void restores. VALUE holds the
destination core in [11:0] and the type in [17:12]. DESIGN CHOICE, log entry 146. -/
def execSpillFullRecord (t src : Nat) (s : State) : Out :=
  match (s.coreOf t src).sendq.find? (fun m => m.retries == 256) with
  | none => .next s
  | some m =>
    let dest := (msgCore s t m).getD 0
    let s := modBoth t (fun d => d.modCore src (fun k => { k with sendq := k.sendq.map (fun x =>
      if x.seq = m.seq then { x with retries := 257 } else x) })) s
    .next (record m.launch
      { cause := .spillFull, core := src, slot := m.slot, value := BitVec.ofNat 64 (dest + m.typ.toNat * 2 ^ 12) } s)

/-- HANDLER_PREEMPTION (R222): in throughput mode an arrival of level 1 to 3 takes its slot at an instruction boundary. -/
def execHandlerPreemption (t c : Nat) (s : State) : Out :=
  if !(s.tenant t).phase.issues || tenantDet s t then .next s
  else .next ((dispatchHandler t c s).getD s)

/-- No arrival that the phase may dispatch waits for a slot (R236). -/
def noArrivalWaits (s : State) (t c : Nat) : Bool :=
  if s.exchange then [1, 2, 3].all (fun lv => (arrivalsOf s t c lv).isEmpty) else (s.coreOf t c).waiting == 0

/-- CONTINUATION_TAKE (R236): in throughput mode a free slot takes the oldest continuation. -/
def execContinuationTake (t c : Nat) (s : State) : Out :=
  if !(s.tenant t).phase.issues || !noArrivalWaits s t c then .next s
  else .next ((takeNow t c s).getD s)

/-! ### Remote updates (R175, R246, R247) -/

/-- Table 11.5 over codes of `n` bytes. -/
def updateResult (o n old v : Nat) : Nat :=
  let w := 8 * n
  let x := v % 2 ^ w
  match o with
  | 0 => (old + x) % 2 ^ w
  | 1 => if toSigned w x < toSigned w old then x else old
  | 2 => if toSigned w old < toSigned w x then x else old
  | 3 => old ||| x
  | 4 => old &&& x
  | 5 => old ^^^ x
  | _ => (f32Add old x).code

/-- Target address, operand, operation and width of an update. -/
def Message.target (m : Message) : Word := m.payload.getD 0 0#64
def Message.operand (m : Message) : Nat := (m.payload.getD 1 0#64).toNat
def Message.updOp (m : Message) : Nat := (m.payload.getD 2 0#64).toNat % 16
def Message.updBytes (m : Message) : Nat := (m.payload.getD 2 0#64).toNat / 16

/-- Two updates touch one 64-bit word. -/
def Message.sameWord (a b : Message) : Bool := a.dest == b.dest && a.target.toNat / 8 == b.target.toNat / 8

/-- Updates of a tenant that this phase has still to apply. One that is still in its send queue when updates are due has been
refused in this phase, and is applied in a later one (R175, R219). -/
def openUpdates (s : State) (t : Nat) : List Message := (s.dev t).cores.flatMap (fun p => p.2.updates)

/-- An update is due: no transfer can still write its frame, every core having arrived and no message being left that could
start a handler (R193), and in deterministic mode no earlier one touches its word (R175). DEDUCED, log entry 20. -/
def updateDue (s : State) (t : Nat) (m : Message) : Bool :=
  coresArrived s t && (s.dev t).cores.all (fun k => k.2.sendq.all (fun x => x.tried == some s.phase)) &&
    (!tenantDet s t || (openUpdates s t).all (fun x => !x.sameWord m || msgBefore m x))

/-- An update applied to its word, or its failure recorded (R246, R247). DEDUCED, log entry 89. -/
def applyUpdate (t : Nat) (m : Message) (s : State) : State :=
  let fail (under : Cause) : State := record m.launch
    { cause := .deferredUpdate, under := under.code, core := m.src, slot := m.slot, value := m.target,
      aux := BitVec.ofNat 64 under.code } s
  match landHeld s t m.dest (m.target.setWidth 20) m.updBytes (fun old =>
      natLe m.updBytes (updateResult m.updOp m.updBytes (leNat old) m.operand)) with
  | .ok s' => s'
  | .trap e => fail e.cause
  | .lost _ => fail .memLost

/-- REMOTE_UPDATE_APPLY (R175). -/
def execRemoteUpdateApply (t c idx : Nat) (s : State) : Out :=
  match (s.coreOf t c).updates[idx]? with
  | none => .next s
  | some m =>
    if !s.exchange || !(s.tenant t).phase.issues || !updateDue s t m then .next s
    else .next (applyUpdate t m (s.modCoreOf t c (fun k => { k with updates := k.updates.eraseIdx idx })))

/-! ### Mailboxes (R249 to R251) -/

/-- Entries of a mailbox ring, and whether it lies below the control pages (R249, R250). -/
def Desc.boxSize (d : Desc) : Nat := 2 ^ d.mbxlogn.toNat
def Desc.boxFits (d : Desc) : Bool := decide (d.mbx.toNat + 64 + 64 * d.boxSize ≤ 0x7C000)
/-- Address of entry `i`. -/
def Desc.boxAddr (d : Desc) (i : Nat) : Nat := d.mbx.toNat + 64 + i % d.boxSize * 64

/-- HEAD as the home core sees it, and TAIL with the entries that have landed in this phase (R171, R251).
DEDUCED, log entry 88. -/
def boxLine (s : State) (t : Nat) (d : Desc) : Acc (Nat × Nat) :=
  let home := d.home.toNat
  match globalPlace s t home home d.mbx with
  | none => .trap (unmapped d.mbx)
  | some p =>
    if placeLost s home p then .lost (d.mbx.setWidth 64)
    else
      let bs := readPlace s t home p 4
      let bs := match p with
        | .vault f off => (s.dev t).landed (vaultAddr home f off) bs
        | .control _ => bs
      .ok (leNat (bs.take 2), leNat (bs.drop 2))

/-- The 64 bytes of a mailbox entry (Table 11.6). -/
def Message.boxEntry (m : Message) : List Byte :=
  natLe 8 (m.sid.toNat + m.sv.toNat * 2 ^ 18 + m.src % 4096 * 2 ^ 19 + m.seq.toNat * 2 ^ 32) ++ bytesOf m.payload

/-- Two streams have one mailbox: a parent and a child share its ring (R249, R262). -/
def sameBox (s : State) (t a b : Nat) : Bool :=
  a == b || ((descOf s t a).home == (descOf s t b).home && (descOf s t a).mbx == (descOf s t b).mbx)

/-- In deterministic mode an entry waits for those of its mailbox that come before it (R250). -/
def boxTurn (s : State) (t : Nat) (m : Message) : Bool :=
  !tenantDet s t || (s.dev t).cores.all (fun p => p.2.sendq.all (fun x =>
    !(x.kind == .mbxsend && sameBox s t x.dest m.dest && x.tried != some s.phase) || msgBefore m x))

/-- A mailbox entry discarded with a TRANSLATION entry (R250). -/
def discardBox (t src : Nat) (m : Message) (s : State) : State :=
  record m.launch { cause := .translation, core := src, slot := m.slot, value := BitVec.ofNat 64 m.dest }
    (dropMessage t src m s)

/-- A mailbox entry that cannot land is a deferred fault of its sender (R164). -/
def failBox (t src : Nat) (m : Message) (d : Desc) (tail : Nat) (c : Cause) (rank : Nat) (s : State) : State :=
  deferFault t m.launch { cause := c, core := src, slot := m.slot, value := BitVec.ofNat 64 (d.boxAddr tail) } rank
    (dropMessage t src m s)

/-- Bytes landed at the home core from local address `a` on, each page translated (R249, R250). -/
def landSpan (t home a : Nat) (bs : List Byte) (s : State) : Acc State :=
  (piecesOf a bs.length).foldl (fun acc u => acc.bind (fun s =>
    landHeld s t home (BitVec.ofNat 20 (a + u.1)) u.2 (fun _ => (bs.drop u.1).take u.2))) (.ok s)

/-- A mailbox entry and TAIL + 1 land at the home core (R250). -/
def landBox (t src : Nat) (m : Message) (d : Desc) (tail : Nat) (s : State) : State :=
  let home := d.home.toNat
  let r := (landSpan t home (d.boxAddr tail) m.boxEntry s).bind (landSpan t home (d.mbx.toNat + 2) (natLe 2 ((tail + 1) % 65536)))
  match r with
  | .ok s' => dropMessage t src m s'
  | .trap e => failBox t src m d tail (if e.cause = .localUnmapped then .translation else e.cause) 2 s
  | .lost _ => failBox t src m d tail .memLost 1 s

/-- MAILBOX_DELIVERY (R250). -/
def execMailboxDelivery (t src : Nat) (s : State) : Out :=
  if !s.exchange || !(s.tenant t).phase.issues then .next s
  else match nextMessage s t src with
    | none => .next s
    | some m =>
      let d := descOf s t m.dest
      if m.kind ≠ .mbxsend || !boxTurn s t m then .next s
      else if d.state ≠ 1#2 || !d.boxFits then .next (discardBox t src m s)
      else if heldBehind s t src m then .next (refuseMessage t src m s)
      else match boxLine s t d with
        | .ok (head, tail) =>
          if (tail + 65536 - head) % 65536 = d.boxSize then .next (refuseMessage t src m s)
          else .next (landBox t src m d tail s)
        | .trap _ => .next (failBox t src m d 0 .translation 2 s)
        | .lost _ => .next (failBox t src m d 0 .memLost 1 s)

/-- The condition of MBXRECV for a mailbox line (R251). -/
def boxBounded (d : BitVec 5) (sid : Nat) (b : Desc) (n head tail : Nat) : Bounded :=
  { holds := decide (n ≤ (tail + 65536 - head) % 65536) && decide (n ≤ b.boxSize)
    pass := fun s => s.setReg d (BitVec.ofNat 64 (b.boxAddr head))
    report := { cause := .waitExpired, aux := BitVec.ofNat 64 (96 + sid * 256)
                val := BitVec.ofNat 64 (head + tail * 2 ^ 16 + n * 2 ^ 32) } }

/-- MBXRECV on the home core of a live stream (R251). DEDUCED, log entry 88. -/
def withBox (d a n : BitVec 5) (s : State) (k : Bounded → Out) : Out :=
  let sid := ((s.reg a).extractLsb' 0 18).toNat
  let b := descOf s s.actor.tid sid
  if b.state ≠ 1#2 || b.home.toNat ≠ s.actor.core then trapOut (translationTrap (s.reg a)) s
  else (boxLine s s.actor.tid b).out s (fun (head, tail) => k (boxBounded d sid b n.toNat head tail))

/-- MBXRECV (R251). -/
def execMbxrecv (d a n e : BitVec 5) (s : State) : Out :=
  issue (.mbxrecv d a n e) s (fun s =>
    withBox d a n s (fun b => boundedWait (.mbxrecv d a n e) b s))

/-! ### The end of a bounded wait (R180) -/

/-- A bounded wait whose condition does not hold expires; where it holds, nothing is due. -/
def expire (b : Bounded) (s : State) : Out := if b.holds then .next s else trapOut b.report s

/-- The bounded wait that an instruction waits in, as its condition stands now (R178, R181, R251). -/
def boundedOf (i : Instr) (s : State) : Option Bounded :=
  match i with
  | .semwait d a n _ => some (semBounded d a n s)
  | .ringwait d r n _ => some (ringBounded false d r n s)
  | .ringrsv d r n _ => some (ringBounded true d r n s)
  | .mbxrecv d a n _ =>
    let sid := ((s.reg a).extractLsb' 0 18).toNat
    let b := descOf s s.actor.tid sid
    match boxLine s s.actor.tid b with
    | .ok (head, tail) => some (boxBounded d sid b n.toNat head tail)
    | _ => none
  | _ => none

/-- WAIT_EXPIRED (R180): after 2^e cycles without its condition, the slot's wait raises WAIT_EXPIRED.
DESIGN CHOICE, log entry 7. -/
def execWaitExpired (t c n : Nat) (s : State) : Out :=
  let keep := s.actor
  let s := { s with actor := { tid := t, core := c, slot := n } }
  let r : Out :=
    if !s.mayIssue then .next s
    else match s.thr.status with
      | .waiting i => match boundedOf i s with
        | some b => expire b s
        | none => .next s
      | _ => .next s
  match r with
  | .next s' => .next { s' with actor := keep }
  | o => o

/-! ### The task graph (R228, R252 to R254) -/

/-- A request leaves the slot out of the rotation until its reply (R252, R258). -/
def askFor (r : Request) (s : State) : Out :=
  .next (s.modThr (fun th => { th with status := .asking r, resume := false }))

/-- An index outside the tenant's range of the task table (R253, R254). -/
def taskOutside (s : State) (v : Word) : Bool :=
  let tn := s.tenant s.actor.tid
  decide (v.toNat < tn.taskBase) || decide (tn.taskBase + tn.taskCount ≤ v.toNat)

/-- TQPUSH (R253): its record is read at issue. DEDUCED, log entry 90. -/
def execTqpush (d a b c : BitVec 5) (s : State) : Out :=
  issue (.tqpush d a b c) s (fun s =>
    if (s.reg a).toNat % 64 ≠ 0 then trapOut { cause := .misaligned, val := s.reg a } s
    else (loadBytes s ((s.reg a).setWidth 20) 64).out s (fun bs =>
      if 2 ≤ leNat (bs.take 1) % 4 then
        trapOut { cause := .illegalInstruction, val := trapWords s (.tqpush d a b c) } s
      else if taskOutside s (s.reg c) then trapOut (translationTrap (s.reg c)) s
      else askFor { instr := .tqpush d a b c, g := [s.reg b, s.reg c], recs := wordsOf bs } s))

/-- TQDEC (R254). -/
def execTqdec (d a : BitVec 5) (s : State) : Out :=
  issue (.tqdec d a) s (fun s =>
    if taskOutside s (s.reg a) then trapOut (translationTrap (s.reg a)) s
    else askFor { instr := .tqdec d a, g := [s.reg a] } s)

/-- What the task table answers, and the table after it (R253, R254). -/
def taskDecide (launch : Nat) (r : Request) (tasks : TMap Task) : Reply × TMap Task :=
  match r.instr, r.g with
  | .tqpush d _ _ _, [n, i] =>
    match tasks.find i.toNat with
    | some _ => ({ writes := [(d.toNat, 1#64)] }, tasks)
    | none => ({ writes := [(d.toNat, 0#64)] },
        tasks.set i.toNat { recs := r.recs, count := n.setWidth 32, launch := launch })
  | .tqdec d _, [i] =>
    let none' : Reply := { trap := some { cause := .depcountUnderflow, val := i } }
    match tasks.find i.toNat with
    | none => (none', tasks)
    | some x =>
      if x.count = 0#32 then (none', tasks)
      else ({ writes := [(d.toNat, x.count.setWidth 64)] }, tasks.set i.toNat { x with count := x.count - 1#32 })
  | _, _ => ({}, tasks)

/-- The request of a thread that has no reply yet. -/
def Thread.open (th : Thread) : Option Request :=
  match th.status with
  | .asking r => if r.reply.isNone then some r else none
  | _ => none

/-- The thread of a slot whose request has no reply yet, the lowest first: a request that has been sent is taken while a
handler runs over its thread, and its reply waits (R222, R258). -/
def Slot.asker (x : Slot) : Option Thread := (x.thread :: x.handlers.reverse).find? (fun th => th.open.isSome)

/-- The request of a slot that has no reply yet. -/
def openRequest (s : State) (p : Party) : Option Request :=
  if (s.tenant p.tid).phase.issues then (s.slotOf p).asker.bind Thread.open else none

/-- A reply stored with the request it answers. -/
def storeReply (p : Party) (r : Request) (y : Reply) (s : State) : State :=
  s.modSlotOf p (fun x => match x.asker with
    | none => x
    | some a => x.modThreads (fun th => if th.level = a.level then { th with status := .asking { r with reply := some y } } else th))

/-- The reply reaches the slot: its registers are written or its trap taken, and the slot returns to the rotation (R252,
R258, R332). DEDUCED, log entry 129. -/
def deliverReply (p : Party) (s : State) : State :=
  match (s.slotOf p).top.status with
  | .asking { instr := _, g := _, recs := _, reply := some y } =>
    if !(s.tenant p.tid).phase.issues then s
    else onThread p (s.slotOf p).top.level (fun s =>
      match y.trap with
      | some tr => takeTrap tr s
      | none => retire (y.writes.foldl (fun s w => s.setReg (BitVec.ofNat 5 w.1) w.2)
          (s.modDev p.tid (fun d => { d with quotas := y.quota.map (fun q => (s.tick, q)) ++ d.quotas })))) s
  | _ => s

/-- TASK_TABLE_REQUEST (R252). -/
def execTaskTableRequest (t c n : Nat) (s : State) : Out :=
  let p : Party := { tid := t, core := c, slot := n }
  match openRequest s p with
  | none => .next s
  | some r => match r.instr with
    | .tqpush _ _ _ _ | .tqdec _ _ =>
      let (y, tasks) := taskDecide (((s.slotOf p).asker.map (·.launch)).getD 0) r (s.dev t).tasks
      .next (storeReply p r y (s.modDev t (fun d => { d with tasks := tasks })))
    | _ => .next s

/-- The reply of a slot whose request is one that `mine` names. -/
def replyTo (mine : Instr → Bool) (p : Party) (s : State) : Out :=
  match (s.slotOf p).top.status with
  | .asking r => .next (if mine r.instr then deliverReply p s else s)
  | _ => .next s

def isTaskRequest : Instr → Bool
  | .tqpush _ _ _ _ | .tqdec _ _ => true
  | _ => false

/-- TASK_TABLE_REPLY (R252). -/
def execTaskTableReply (t c n : Nat) (s : State) : Out :=
  replyTo isTaskRequest { tid := t, core := c, slot := n } s

end Sys2Proof.Machine
end

