-- ==== Sys2Proof/Machine/Streams.lean ====
section
/-! DEFINITION. Streams: the Stream Table's requests and replies, sharing counts, the requests of a commit, migration
(spec/12_stream_isa.md R257 to R270; spec/02_state.md R49, R54; spec/15_isolation.md R308). -/

namespace Sys2Proof.Machine

/-! ### Descriptors (Table 2.13) -/

/-- The sixteen words of a descriptor, reserved bits zero (R54, R269). -/
def Desc.words (d : Desc) (t : Nat) : List Word :=
  let n (v : Nat) : Word := BitVec.ofNat 64 v
  [n (t % 64 + d.model.toNat * 2 ^ 8 + d.cursor.toNat * 2 ^ 16 + d.state.toNat * 2 ^ 24 + d.horizon.toNat * 2 ^ 32),
   n (d.parent.toNat + d.pv.toNat * 2 ^ 31 + d.features.toNat * 2 ^ 32),
   n (d.ret.toNat + d.reward.toNat * 2 ^ 32),
   n (d.actbase.toNat * 2 ^ 6 + d.actlogn.toNat * 2 ^ 48),
   n (d.acthead.toNat + d.acttail.toNat * 2 ^ 16 + d.vquota.toNat * 2 ^ 32 + d.vused.toNat * 2 ^ 48),
   n (d.hquota.toNat + d.hused.toNat * 2 ^ 32),
   n (d.home.toNat + d.segrec.toNat * 2 ^ 12 + d.mbx.toNat * 2 ^ 32 + d.mbxlogn.toNat * 2 ^ 52),
   n d.age.toNat, d.born, 0#64, 0#64, 0#64, 0#64, 0#64, 0#64, 0#64]

/-- A descriptor from the words of one. -/
def Desc.ofWords (ws : List Word) : Desc :=
  let w (i : Nat) : Word := ws.getD i 0#64
  { model := (w 0).extractLsb' 8 8, cursor := (w 0).extractLsb' 16 6, state := (w 0).extractLsb' 24 2,
    horizon := (w 0).extractLsb' 32 32, parent := (w 1).extractLsb' 0 18, pv := (w 1).getLsbD 31,
    features := (w 1).extractLsb' 32 32, ret := (w 2).extractLsb' 0 32, reward := (w 2).extractLsb' 32 32,
    actbase := (w 3).extractLsb' 6 42, actlogn := (w 3).extractLsb' 48 4, acthead := (w 4).extractLsb' 0 16,
    acttail := (w 4).extractLsb' 16 16, vquota := (w 4).extractLsb' 32 16, vused := (w 4).extractLsb' 48 16,
    hquota := (w 5).extractLsb' 0 32, hused := (w 5).extractLsb' 32 32, home := (w 6).extractLsb' 0 12,
    segrec := (w 6).extractLsb' 12 20, mbx := (w 6).extractLsb' 32 20, mbxlogn := (w 6).extractLsb' 52 4,
    age := (w 7).extractLsb' 0 16, born := w 8 }

/-- Address of action-queue entry `i` (R265). -/
def Desc.actAddr (d : Desc) (i : Nat) : Word :=
  BitVec.ofNat 64 (d.actbase.toNat * 64 + i % 2 ^ d.actlogn.toNat * 64)

/-- The answer of SACTPOP and SACTADD that names no entry. -/
def noEntry : Word := 0x8000000000000000#64

/-- The committed descriptor of an identifier, of whichever tenant (R258). -/
def descFound (s : State) (sid : Nat) : Desc := (s.com.findSome? (fun p => p.2.streams.find sid)).getD {}
/-- Its STATE. DEDUCED, log entry 86. -/
def stateFound (s : State) (sid : Nat) : BitVec 2 := (descFound s sid).state

/-- A fork of this phase has reserved the identifier (R262). -/
def reservedSid (d : TenantDev) (sid : Nat) : Bool :=
  d.reqs.any (fun r => match r with
    | .fork c _ => c == sid
    | _ => false)

/-- A descriptor that no tenant holds or reserves. -/
def sidFree (s : State) (sid : Nat) : Bool :=
  stateFound s sid == 0#2 &&
    s.cur.all (fun p => ((p.2.streams.get sid {}).state == 0#2) && !reservedSid p.2 sid)

/-- The lowest-numbered free descriptor of a die from index `i` on (R337). -/
def firstSid (s : State) (die : Nat) : Nat → Nat → Option Nat
  | 0, _ => none
  | n + 1, i => if sidFree s (die * 65536 + i) then some (die * 65536 + i) else firstSid s die n (i + 1)

def freeSid (s : State) (die : Nat) : Option Nat := firstSid s die 65536 0

/-! ### Models and their groups (R259) -/

def modelOf (s : State) (t model : Nat) : Option Model := (s.tenant t).models.find model

/-- Layer groups of a stream's model. -/
def groupsOf (s : State) (t : Nat) (d : Desc) : Nat := ((modelOf s t d.model.toNat).map (·.groups)).getD 0

/-- Cores of a layer group. -/
def groupCores (s : State) (t model g : Nat) : List Nat :=
  match modelOf s t model with
  | none => []
  | some m => rectCores (m.rects.getD g 0#24)

/-! ### Root records, segment tables and sharing counts (R54, R260) -/

/-- Bytes at a private address of a core as the device reads them, as they stand in this phase. -/
def devRead (s : State) (t c : Nat) (a : LAddr) (n : Nat) : Option (List Byte) :=
  match globalPlace s t c c a with
  | some (.vault f off) => some ((s.dev t).vault.readBytes (vaultAddr c f off) n)
  | some (.control off) => some ((s.dev t).ctl.readBytes (ctlAddr c off) n)
  | none => none

/-- Bytes that the device writes at a private address of a core: of the phase, and in no digest (R313). -/
def devWrite (t c : Nat) (a : LAddr) (bs : List Byte) (s : State) : State :=
  match globalPlace s t c c a with
  | some (.vault f off) => s.modDev t (fun d => { d with vault := d.vault.writeBytes (vaultAddr c f off) bs })
  | _ => s

/-- The table position that a stream's root record names for group `g`: frame and slot (R54). -/
def rootEntry (s : State) (t : Nat) (d : Desc) (g : Nat) : Option (Nat × Nat) :=
  match devRead s t d.home.toNat (d.segrec + BitVec.ofNat 20 (4 * g)) 4 with
  | none => none
  | some bs =>
    let e := leNat bs
    if bitOf e 12 then some (bitsOf e 0 8, bitsOf e 8 4) else none

/-- The key of a table position: model, group, frame, slot. -/
def tableKey (model g : Nat) (p : Nat × Nat) : Nat := ((model * 64 + g) * 256 + p.1) * 16 + p.2
/-- The position of a key. -/
def keyPos (k : Nat) : Nat × Nat := (k / 16 % 256, k % 16)
def keyGroup (k : Nat) : Nat := k / 4096 % 64
def keyModel (k : Nat) : Nat := k / 262144

/-- Vault address of a segment table on core `c`. -/
def tableAddr (c : Nat) (p : Nat × Nat) : Nat := vaultAddr c p.1 (p.2 * 256)

/-- A table stands in a frame outside the reserve. -/
def TCore.withTable (f : Nat) (k : TCore) : TCore :=
  if fmRsv (k.frame f) then k else { k with tframes := addOnce f k.tframes }

/-- A sharing count takes a value, in the Campanile and in entry 127 of the table on every core of the group (R260).
DESIGN CHOICE, log entry 164. -/
def setCount (t key n : Nat) (s : State) : State :=
  let cores := groupCores s t (keyModel key) (keyGroup key)
  let s := if n = 0 then s else cores.foldl (fun s c => s.modCoreOf t c (TCore.withTable (keyPos key).1)) s
  s.modDev t (fun d => { d with
    counts := if n = 0 then d.counts.del key else d.counts.set key n
    vault := cores.foldl (fun v c => v.writeBytes (tableAddr c (keyPos key) + 254) (natLe 2 (n % 65536))) d.vault })

/-- The keys of the tables that a stream's root record names. -/
def tableKeys (s : State) (t : Nat) (d : Desc) : List Nat :=
  (List.range (groupsOf s t d)).filterMap (fun g => (rootEntry s t d g).map (tableKey d.model.toNat g))

/-- One more, or one fewer, descriptor names each table of a stream (R262, R267). DEDUCED, log entry 30. -/
def raiseTables (t : Nat) (d : Desc) (s : State) : State :=
  (tableKeys s t d).foldl (fun s k => setCount t k ((s.dev t).counts.get k 0 + 1) s) s
def lowerTables (t : Nat) (d : Desc) (s : State) : State :=
  if d.freed then s else (tableKeys s t d).foldl (fun s k =>
    (setCount t k ((s.dev t).counts.get k 0 - 1) s).modDev t (fun x => { x with lowered := x.lowered ++ [k] })) s

/-- The root record of a child written as a copy of its parent's, entry by entry: each lies within a page, and its reserved
bits are zero (R7, R54, R262). -/
def copyRoot (t : Nat) (parent child : Desc) (s : State) : State :=
  (List.range (groupsOf s t parent)).foldl (fun s g =>
    match devRead s t parent.home.toNat (parent.segrec + BitVec.ofNat 20 (4 * g)) 4 with
    | none => s
    | some bs => devWrite t child.home.toNat (child.segrec + BitVec.ofNat 20 (4 * g)) (natLe 4 (leNat bs % 8192)) s) s

/-- SHARING_COUNT_RAISE (R262): the messages of the forks that the last compute phase committed. -/
def execSharingCountRaise (t : Nat) (s : State) : Out :=
  if !s.exchange || !(s.tenant t).phase.issues then .next s
  else
    let s' := (s.dev t).raises.foldl (fun s (r : Nat × Nat) =>
      let child := (s.dev t).streams.get r.1 {}
      let parent := (s.dev t).streams.get r.2 {}
      let s := copyRoot t parent child (raiseTables t parent s)
      s.modDev t (fun d => { d with streams := d.streams.set r.1 { child with parked := false } })) s
    .next (s'.modDev t (fun d => { d with raises := [] }))

/-- REFERENCE_RELEASE (R267): the messages of the prunes that the last commit made. -/
def execReferenceRelease (t : Nat) (s : State) : Out :=
  if !s.exchange || !(s.tenant t).phase.issues then .next s
  else
    let sids := (s.dev t).releases
    let s' := sids.foldl (fun s sid => lowerTables t ((s.dev t).streams.get sid {}) s) s
    .next (s'.modDev t (fun d => { d with releases := [], released := d.released ++ sids }))

/-- A frame's count falls by one, and at 0 it returns to the reserve (R267, Table 7.3). -/
def dropFrame (t f : Nat) (k : TCore) : TCore :=
  let e := k.frame f
  if fmRef e ≤ 1 then k.setFrame f (fmReserve t) else k.setFrame f (fmSetRef e (fmRef e - 1))

/-- Frames that a segment table maps by its valid entries 0 to 126, each once (R260, R267). DEDUCED, log entry 85. -/
def tableFrames (v : Memory) (c : Nat) (p : Nat × Nat) : List Nat :=
  sortedSet ((List.range 127).filterMap (fun j =>
    let e := v.readNat (tableAddr c p + 2 * j) 2
    if bitOf e 8 then some (e % 256) else none))

/-- A table whose count reached 0 frees its position and the frames it maps, on every core of its group (R267). -/
def freeTable (t key : Nat) (s : State) : State :=
  (groupCores s t (keyModel key) (keyGroup key)).foldl (fun s c =>
    (tableFrames (s.dev t).vault c (keyPos key)).foldl (fun s f => s.modCoreOf t c (dropFrame t f)) s) s

/-- The descriptors that this phase released become free at its commit (R267); what has been reported of their streams says
nothing of a later one with the same identifier (R308). DEDUCED, log entry 85. -/
def commitReleases (t : Nat) (s : State) : State :=
  let gone := (s.dev t).released
  (s.modTenant t (fun x => { x with warned := x.warned.filter (fun w => !gone.contains w.2) })).modDev t (fun d => { d with
    streams := d.streams.filter (fun p => !gone.contains p.1), released := [] })

/-- The tables of a tenant that the phase has lowered to 0. -/
def freedTables (d : TenantDev) : List Nat := (sortedSet d.lowered).filter (fun k => d.counts.get k 0 == 0)

/-- The tables whose counts the committed phase has lowered to 0 are freed, once the admissions of the same boundary have raised
theirs (R267, R270). DEDUCED, log entry 85. -/
def freeTables (t : Nat) (s : State) : State :=
  (freedTables (s.dev t)).foldl (fun s k => freeTable t k s) s |>.modDev t (fun d => { d with lowered := [] })

/-! ### Batch selection (R263) -/

/-- SSEL: the old STREAM is written to g[d] before g[a] is acted on. DEDUCED, log entry 93. -/
def execSsel (d a : BitVec 5) (s : State) : Out :=
  issue (.ssel d a) s (fun s =>
    let s' := s.setReg d s.thr.stream
    let v := s'.reg a
    if v.getLsbD 63 then
      .next (retire (s'.modThr (fun th => { th with stream := th.stream &&& ~~~(0x80000000#64) })))
    else
      let i := v.toNat % 256
      let sids := ((s.here.packets.find s.thr.packet).map (·.sids)).getD []
      if s.thr.origin ≠ 1 || decide (s.thr.level ≠ 0) || decide (256 ≤ v.toNat) || decide (sids.length ≤ i) then
        trapOut (translationTrap v) s
      else .next (retire (s'.modThr (fun th => { th with stream := mkStream (sids.getD i 0) true, batch := i }))))

/-! ### Requests to the Stream Table (R258) -/

/-- A stream instruction sends its operands and leaves the rotation (R258). -/
def askStream (i : Instr) (g : List Word) (recs : List Word) (s : State) : Out := askFor { instr := i, g := g, recs := recs } s

/-- SADV (R264). -/
def execSadv (d a : BitVec 5) (s : State) : Out :=
  issue (.sadv d a) s (fun s => askStream (.sadv d a) [s.reg a] [] s)
/-- SACTPOP (R265). -/
def execSactpop (d a : BitVec 5) (s : State) : Out :=
  issue (.sactpop d a) s (fun s => askStream (.sactpop d a) [s.reg a] [] s)
/-- SACTADD (R265); its place in the order of issue travels with it. -/
def execSactadd (d a : BitVec 5) (s : State) : Out :=
  issue (.sactadd d a) s (fun s => askStream (.sactadd d a) [s.reg a, BitVec.ofNat 64 s.tick] [] s)
/-- SRET (R266); its place in the order of issue travels with it. -/
def execSret (a b : BitVec 5) (s : State) : Out :=
  issue (.sret a b) s (fun s => askStream (.sret a b) [s.reg a, s.reg b, BitVec.ofNat 64 s.tick] [] s)
/-- SPRUNE (R267). -/
def execSprune (d a : BitVec 5) (s : State) : Out :=
  issue (.sprune d a) s (fun s => askStream (.sprune d a) [s.reg a] [] s)
/-- SQUERY (R269). -/
def execSquery (d a n : BitVec 5) (s : State) : Out :=
  issue (.squery d a n) s (fun s => askStream (.squery d a n) [s.reg a] [] s)

/-- What a fork record refuses (R262). -/
def forkRecordBad (w0 w1 : Word) : Bool :=
  decide (12 < w0.toNat % 16) || w0.extractLsb' 4 2 != 0#2 || w0.extractLsb' 48 16 != 0#16 ||
    w1.extractLsb' 20 12 != 0#12 || w1.extractLsb' 48 16 != 0#16

/-- SFORK (R262): its record is read at issue. -/
def execSfork (d a b c : BitVec 5) (s : State) : Out :=
  issue (.sfork d a b c) s (fun s =>
    if (s.reg b).toNat % 16 ≠ 0 then trapOut { cause := .misaligned, val := s.reg b } s
    else (loadBytes s ((s.reg b).setWidth 20) 16).out s (fun bs =>
      let ws := wordsOf bs
      if forkRecordBad (ws.getD 0 0#64) (ws.getD 1 0#64) then trapOut (translationTrap (s.reg b)) s
      else askStream (.sfork d a b c) [s.reg a] ws s))

/-- SMIGRATE (R268): the port and the notice core are checked at issue. DEDUCED, log entry 155. -/
def execSmigrate (d a b c : BitVec 5) (s : State) : Out :=
  issue (.smigrate d a b c) s (fun s =>
    firstTrap
      [badReg (channelOf s (linkPort (s.reg b)) s.actor.tid).isNone (s.reg b),
       badReg (!s.myLaunch.cores.contains (bitsOf (s.reg c).toNat 0 12)) (s.reg c)] s
      (askStream (.smigrate d a b c) [s.reg a, s.reg b, s.reg c] []))

/-- What the Stream Table finds wrong with a stream operand (R258). DEDUCED, log entry 86. DESIGN CHOICE, log entry 163. -/
def streamTrap (s : State) (t : Nat) (v : Word) (live : Bool) : Option Trap :=
  let sid := (v.extractLsb' 0 18).toNat
  let d := descOf s t sid
  let tr (d : Desc) : Option Trap :=
    some { cause := .translation, val := v, aux := BitVec.ofNat 64 (d.state.toNat + d.migrating.toNat * 16) }
  if v.extractLsb' 18 46 != 0#46 then some (translationTrap v)
  else if d.state = 0#2 then tr (descFound s sid)
  else if (live && d.state != 1#2) || d.migrating then tr d
  else none

/-- A migration of the tenant is in progress on a port; requests of this phase do not see one another (R268, R282). -/
def portBusy (d : TenantDev) (port : Nat) : Bool := d.moves.any (fun m => m.port == port)

/-- PHASE of the first compute phase from the boundary on that opens this phase, or that ends it: in it a stream admitted there
first waits for a batch (R229, R253, R336). DEDUCED, log entry 154. -/
def admittedAt (s : State) : Word := if s.exchange then s.phase + 1#64 else s.phase

/-- The first compute phase after this one. -/
def nextCompute (s : State) : Word := if s.exchange then s.phase + 1#64 else s.phase + 2#64

/-- The child of a fork (R262). -/
def childOf (s : State) (parent : Nat) (p : Desc) (w0 w1 : Word) : Desc :=
  { p with parent := BitVec.ofNat 18 parent, pv := true, state := 1#2, actbase := w0.extractLsb' 6 42,
           actlogn := w0.extractLsb' 0 4, segrec := w1.extractLsb' 0 20, vquota := w1.extractLsb' 32 16,
           acthead := 0#16, acttail := 0#16, vused := 0#16, hused := 0#32, age := 0#16, born := nextCompute s,
           parked := true, migrating := false }

/-- The Stream Table's answer to a request, and what it asks of the commit (R258, R262 to R269). DEDUCED, log entry 86. -/
def streamDecide (s : State) (p : Party) (r : Request) : Reply × List StreamReq :=
  let t := p.tid
  let v := r.g.getD 0 0#64
  let sid := (v.extractLsb' 0 18).toNat
  let d := descOf s t sid
  let w (r : BitVec 5) (x : Word) : List (Nat × Word) := [(r.toNat, x)]
  let checked (live : Bool) (k : Reply × List StreamReq) : Reply × List StreamReq :=
    match streamTrap s t v live with
    | some tr => ({ trap := some tr }, [])
    | none => k
  match r.instr with
  | .sadv rd _ => checked true ({ writes := w rd (d.cursor.setWidth 64) }, [.advance sid])
  | .sactpop rd _ => checked true
      (if d.acthead = d.acttail then ({ writes := w rd noEntry }, [])
       else ({ writes := w rd (d.actAddr d.acthead.toNat) }, [.pop sid]))
  | .sactadd rd _ => checked true
      (if d.home.toNat ≠ p.core then ({ trap := some (translationTrap v) }, [])
       else
        let j := (((s.dev t).appends ++ (s.dev t).appendsNew).filter (fun a => a.1 == sid && a.2 == p.core)).length
        if 2 ^ d.actlogn.toNat < (d.acttail.toNat + j + 1 + 65536 - d.acthead.toNat) % 65536 then
          ({ writes := w rd noEntry }, [])
        else ({ writes := w rd (d.actAddr (d.acttail.toNat + j)) }, []))
  | .sret _ _ => checked true
      ({}, [.reward sid p.core p.slot (r.g.getD 2 0#64).toNat ((r.g.getD 1 0#64).setWidth 32)])
  | .sprune rd _ => checked false
      ({ writes := w rd (d.state.setWidth 64) }, if d.state = 3#2 then [] else [.prune sid])
  | .squery rd _ n => checked false ({ writes := w rd ((d.words t).getD n.toNat 0#64) }, [])
  | .smigrate rd _ _ _ => checked true
      (let port := linkPort (r.g.getD 1 0#64)
       let notice := r.g.getD 2 0#64
       if portBusy (s.dev t) port then ({ writes := w rd 1#64 }, [])
       else ({ writes := w rd 0#64 },
         [.migrate sid port (bitsOf notice.toNat 0 12) (notice.extractLsb' 12 6) p.core p.slot
           (((s.slotOf p).asker.map (·.launch)).getD 0)]))
  | .sfork rd _ _ rc => checked true
      (match freeSid s (sid / 65536) with
       | none => ({ writes := w rd 1#64 }, [])
       | some child =>
         if (tableKeys s t d).any (fun k => (s.dev t).counts.get k 0 == 65535) then ({ writes := w rd 2#64 }, [])
         else ({ writes := [(rc.toNat, BitVec.ofNat 64 child), (rd.toNat, 0#64)] },
           [.fork child (childOf s sid d (r.recs.getD 0 0#64) (r.recs.getD 1 0#64))]))
  | _ => ({}, [])

/-- SACTADD reserved an entry: its append waits for the commit of the next exchange phase (R265). -/
def noteAppend (p : Party) (r : Request) (y : Reply) (s : State) : State :=
  match r.instr, y.writes with
  | .sactadd _ _, [(_, x)] =>
    if x = noEntry then s
    else s.modDev p.tid (fun d => { d with
      appendsNew := d.appendsNew ++ [(((r.g.getD 0 0#64).extractLsb' 0 18).toNat, p.core)] })
  | _, _ => s

/-- An earlier SACTADD of the core to the same stream has not yet been taken: entries go by the order of issue (R265). -/
def addBehind (s : State) (p : Party) (r : Request) : Bool :=
  match r.instr with
  | .sactadd _ _ => (s.coreOf p.tid p.core).slots.any (fun x => x.2.allThreads.any (fun th => match th.open with
    | some q => match q.instr with
      | .sactadd _ _ => (q.g.getD 0 0#64) == (r.g.getD 0 0#64) && decide ((q.g.getD 1 0#64).toNat < (r.g.getD 1 0#64).toNat)
      | _ => false
    | none => false))
  | _ => false

def isStreamRequest : Instr → Bool
  | .sadv _ _ | .sactpop _ _ | .sactadd _ _ | .sret _ _ | .sprune _ _ | .squery _ _ _ | .smigrate _ _ _ _
  | .sfork _ _ _ _ => true
  | _ => false

/-- The request of a stream instruction is taken (R258). -/
def takeStream (p : Party) (r : Request) (s : State) : State :=
  if addBehind s p r then s
  else
  let (y, reqs) := streamDecide s p r
  noteAppend p r y (storeReply p r y (s.modDev p.tid (fun d => { d with reqs := d.reqs ++ reqs })))

/-- STREAM_TABLE_REPLY (R258). -/
def execStreamTableReply (t c n : Nat) (s : State) : Out :=
  replyTo isStreamRequest { tid := t, core := c, slot := n } s

/-! ### What a commit applies (R264 to R266, R270) -/

/-- Streams that ask for something in a list of requests. -/
def advanced (rs : List StreamReq) (sid : Nat) : Bool := rs.contains (.advance sid)
def popped (rs : List StreamReq) (sid : Nat) : Bool := rs.contains (.pop sid)
def prunedReq (rs : List StreamReq) (sid : Nat) : Bool := rs.contains (.prune sid)

/-- The rewards for one stream: core, slot, order, value. -/
def rewardsOf (rs : List StreamReq) (sid : Nat) : List (Nat × Nat × Nat × BitVec 32) :=
  sortBy (fun a b => decide (a.1 < b.1) || (a.1 == b.1 && (decide (a.2.1 < b.2.1) ||
      (a.2.1 == b.2.1 && decide (a.2.2.1 ≤ b.2.2.1)))))
    (rs.filterMap (fun r => match r with
      | .reward i c n o v => if i = sid then some (c, n, o, v) else none
      | _ => none))

/-- An FP32 sum, nearest even (R91). -/
def addF32 (a b : BitVec 32) : BitVec 32 := BitVec.ofNat 32 (f32Add a.toNat b.toNat).code

/-- The advance of R264 in a model of `g` groups: whether a world step completed, and the descriptor. -/
def Desc.advance (d : Desc) (g : Nat) : Desc :=
  if d.cursor.toNat + 1 < g then { d with cursor := d.cursor + 1#6 }
  else
    { d with cursor := 0#6, horizon := d.horizon - 1#32, ret := addF32 d.ret d.reward, reward := 0#32,
             state := if d.horizon = 1#32 then 2#2 else d.state }

/-- All requests of a phase for one stream, in the order of R270; `adds` are the appends that fall due.
DEDUCED, log entry 31. -/
def Desc.commit (d : Desc) (sid g adds : Nat) (rs : List StreamReq) : Desc :=
  let spent := d.horizon == 0#32
  let d := { d with acttail := d.acttail + BitVec.ofNat 16 adds }
  let d := { d with reward := (rewardsOf rs sid).foldl (fun x r => addF32 x r.2.2.2) d.reward }
  let adv := advanced rs sid && d.state == 1#2
  let stepped := adv && decide (g ≤ d.cursor.toNat + 1)
  let d := if adv then d.advance g else d
  let d := if (stepped || popped rs sid) && d.acthead != d.acttail then { d with acthead := d.acthead + 1#16 } else d
  let d := if prunedReq rs sid && (d.state == 1#2 || d.state == 2#2) then { d with state := 3#2 } else d
  if d.state = 1#2 ∧ (d.horizon = 0#32 ∨ spent) then { d with state := 2#2 } else d

/-- The children that a phase's forks make. -/
def forksOf (rs : List StreamReq) : List (Nat × Desc) :=
  rs.filterMap (fun r => match r with
    | .fork c d => some (c, d)
    | _ => none)

/-- The migrations that a phase asks for. -/
def migrationsOf (rs : List StreamReq) : List Migration :=
  rs.filterMap (fun r => match r with
    | .migrate sid port nc nt c n l =>
      some { sid := sid, port := port, noticeCore := nc, noticeType := nt, core := c, slot := n, launch := l }
    | _ => none)

/-- The requests of a phase become current (R258, R261, R265, R270). -/
def commitStreams (t : Nat) (s : State) : State :=
  let d := s.dev t
  let due := if s.exchange then d.appends else []
  let copies (sid : Nat) : Nat := d.cores.foldl (fun n k => n + k.2.charged.get sid 0) 0
  let streams : TMap Desc := d.streams.map (fun p =>
    let x := p.2.commit p.1 (groupsOf s t p.2) ((due.filter (fun a => a.1 == p.1)).length) d.reqs
    (p.1, { x with vused := BitVec.ofNat 16 (min 65535 (x.vused.toNat + copies p.1)) }))
  let pruned := (d.streams.filter (fun p => prunedReq d.reqs p.1 && (p.2.state == 1#2 || p.2.state == 2#2))).map (·.1)
  let forks := forksOf d.reqs
  let moves := migrationsOf d.reqs
  s.setDev t { d with
    streams := moves.foldl (fun m x => m.upd x.sid {} (fun e => { e with migrating := true }))
      (forks.foldl (fun m f => TMap.set m f.1 f.2) streams)
    reqs := []
    appends := if s.exchange then [] else d.appends ++ d.appendsNew
    appendsNew := []
    raises := d.raises ++ forks.map (fun f => (f.1, f.2.parent.toNat))
    releases := d.releases ++ pruned
    moves := d.moves ++ moves }

/-! ### Migration (R268) -/

/-- The notice of a migration, sent on behalf of the core that asked for it. DEDUCED, log entry 82. -/
def noticeOf (m : Migration) (result : Nat) (newId : BitVec 18) : Message :=
  { src := m.core, typ := m.noticeType, kind := .send, launch := m.launch, sid := 0#18, sv := false, seq := 0#32,
    pc := 0#20, payload := [BitVec.ofNat 64 m.sid, newId.setWidth 64, BitVec.ofNat 64 result, 0#64, 0#64, 0#64, 0#64, 0#64],
    dest := m.noticeCore, slot := m.slot }

/-- A migration whose port is down, or has been down since it began: it ends with result 3 (R385). DEDUCED, log entry 43. -/
def moveLost (s : State) (m : Migration) : Bool := m.failed || !(s.ports.get m.port {}).up

/-- The tenant holds a channel of a port, and its two ends name each other (R384). DEDUCED, log entry 112. -/
def channelWorks (s : State) (port t : Nat) : Bool := (s.ports.get port {}).chans.any (fun c => c.2.ltid == t && c.2.met)

/-- SMIGRATE_REPLY (R268, R384, R385): the notice is queued, and the stream is pruned or may be batched again at this commit. A
reply comes only over a pair of channels that works. DEDUCED, log entry 82, 112. -/
def execSmigrateReply (t port result : Nat) (newId : BitVec 18) (s : State) : Out :=
  let s := if (s.ports.get port {}).up then s.flitGood port else s
  if !s.exchange || !(s.tenant t).phase.issues then .next s
  else match (s.dev t).moves.find? (fun m => m.port == port) with
    | none => .next s
    | some m =>
      if !moveLost s m && !channelWorks s port t then .next s else
      let result := if moveLost s m then 3 else result
      let s := s.modCoreOf t m.core (fun k => { k with
        sendq := k.sendq ++ [{ noticeOf m result newId with seq := k.seq }], seq := k.seq + 1#32 })
      .next (s.modDev t (fun d => { d with
        moves := d.moves.erase m
        reqs := if result = 0 then d.reqs ++ [.prune m.sid] else d.reqs
        streams := d.streams.upd m.sid {} (fun x => { x with migrating := false }) }))

/-- The features that a tenant may use on this device (R308). -/
def admittedFeatures (s : State) (t : Nat) : BitVec 32 := (s.tenant t).permit &&& 0xFFFFF#32
def featuresOk (s : State) (t : Nat) (f : BitVec 32) : Bool := f &&& ~~~(admittedFeatures s t) == 0#32

/-- The positions on a core, frame and slot, at which a table of the tenant stands: one that a release has lowered to 0 does until
the commit that frees it (R260, R267, R270). -/
def tablesOn (s : State) (t c : Nat) : List (Nat × Nat) :=
  let d := s.dev t
  ((d.counts.map (·.1) ++ d.lowered).filter (fun k => (groupCores s t (keyModel k) (keyGroup k)).contains c)).map keyPos

/-- The table frames of a core, in the order in which they became that: no frame of the reserve, and no page without a table.
DEDUCED, log entry 84. -/
def tableFramesOn (s : State) (t c : Nat) : List Nat :=
  let k := s.coreOf t c
  k.tframes.filter (fun f => fmV (k.frame f) && !fmRsv (k.frame f) &&
    (!fmPv (k.frame f) || (tablesOn s t c).any (fun x => x.1 == f)))

/-- A free table position for a group: the lowest slot that is free on every core of the group in a frame that all of them use
for tables, of whichever group, in the frame that became one first, so that nothing of another tenant decides it (R294, R310);
else slot 0 of a reserve frame common to its cores (R260); the new frame leaves the reserve on every core.
DEDUCED, log entry 84. -/
def newPosition (t model g : Nat) (s : State) : Option ((Nat × Nat) × State) :=
  let cores := groupCores s t model g
  let frames := (tableFramesOn s t (cores.headD 0)).filter (fun f =>
    !cores.isEmpty && cores.all (fun c => (tableFramesOn s t c).contains f))
  let taken := cores.map (tablesOn s t)
  match (List.range 16).findSome? (fun n => (frames.find? (fun f =>
      taken.all (fun u => !u.contains (f, n)))).map (fun f => (f, n))) with
  | some pos => some (pos, s)
  | none =>
    let common := (List.range 256).filter (fun f => cores.all (fun c => (reserveOf s t c).contains f))
    match pickFrom s common with
    | none => none
    | some f =>
      some ((f, 0), cores.foldl (fun s c => s.modCoreOf t c (fun k =>
        k.setFrame f (mkFm 0 false true false false false t 0 false 0))) s.drawn)

/-- The part of a segment that one core holds: window pages with their bytes (R268). -/
def segmentOf (cores : List Nat) (c : Nat) (segs : List (Nat × Nat × List Byte)) (g : Nat) : List (Nat × List Byte) :=
  let i := (indexIn cores c).getD 0
  (segs.filter (fun x => x.1 == g)).map (fun x => (x.2.1, (x.2.2.drop (4096 * i)).take 4096))

/-- One page of an arriving segment takes a reserve frame of its core. DESIGN CHOICE, log entry 83. -/
def admitPage (t c : Nat) (pos : Nat × Nat) (page : Nat) (bs : List Byte) (s : State) : Option State :=
  match pickFrom s (reserveOf s t c) with
  | none => none
  | some f =>
    let s := s.drawn.modCoreOf t c (fun k => k.setFrame f (mkFm 0 false true true false false t c true 1))
    some (s.modDev t (fun d => { d with
      vault := (d.vault.writeBytes (vaultAddr c f 0) (bs ++ List.replicate (4096 - bs.length) 0#8)).writeBytes
        (tableAddr c pos + 2 * (page % 127)) (natLe 2 (256 + f)) }))

/-- The tables and frames of one group of an arriving stream. -/
def admitGroup (t model g : Nat) (d : Desc) (segs : List (Nat × Nat × List Byte)) (s : State) : Option State :=
  let cores := groupCores s t model g
  match newPosition t model g s with
  | none => none
  | some (pos, s) =>
    let s := s.modDev t (fun x => { x with
      vault := cores.foldl (fun v c => Memory.writeBytes v (tableAddr c pos) (List.replicate 256 0#8)) x.vault })
    let pages := cores.flatMap (fun c => (segmentOf cores c segs g).map (fun p => (c, p.1, p.2)))
    let s := pages.foldl (fun o x => o.bind (admitPage t x.1 pos x.2.1 x.2.2)) (some s)
    s.map (fun s => devWrite t d.home.toNat (d.segrec + BitVec.ofNat 20 (4 * g))
      (natLe 4 (pos.1 + pos.2 * 256 + 4096)) (setCount t (tableKey model g pos) 1 s))

/-- What is answered to the source of a stream, as it leaves the port: the channel, the result, the new identifier.
DESIGN CHOICE, log entry 15. -/
def answerPort (port chan result sid : Nat) (s : State) : State :=
  let p := s.ports.get port {}
  { s with ports := s.ports.set port { p with sent := (natLe 1 chan ++ natLe 1 result ++ natLe 4 sid) :: p.sent } }

/-- The descriptor that an arriving stream takes: on the die that a free value of its own record names, or the next that has
a free one (R268 names none, and R310 lets no other tenant decide). DESIGN CHOICE, log entry 83. -/
def arrivalSid (s : State) (desc : List Word) : Option Nat :=
  (List.range 4).findSome? (fun i => freeSid s (((Config.arrivalDie desc).toNat + i) % 4))

/-- Bytes of an arriving stream's state pages and action queue written at a virtual address of the tenant, each page in a fresh
one of the phase (R163, R268), which the digest does not count (R313). DESIGN CHOICE, log entry 83. -/
def admitMemory (t : Nat) (x : Nat × List Byte) (s : State) : Option State :=
  (piecesOf x.1 x.2.length).foldl (fun o u => o.bind (fun s =>
    match putHbmIf (fun _ => true) s t {} (x.1 + u.1) ((x.2.drop u.1).take u.2) with
    | .ok (s', _) => some s'
    | _ => none)) (some s)

/-- MIGRATED_STREAM_ADMISSION (R268, R308): a stream from another device is refused for its features, for a model that is
not registered, for want of a descriptor, of frames or of pages, or becomes live at this commit; none crosses a port that is
down (R385). DEDUCED, log entry 154. DESIGN CHOICE, log entry 15, 83, 130. -/
def execMigratedStreamAdmission (port : Nat) (x : StreamArrival) (s : State) : Out :=
  let s := if (s.ports.get port {}).up then s.flitGood port else s
  match (s.ports.get port {}).chans.find x.far.chan with
  | none => .next s
  | some ch =>
    let t := ch.ltid
    if !s.exchange || !(s.tenant t).phase.issues || !ch.meets x.far || !(s.ports.get port {}).up then .next s
    else
      let d := Desc.ofWords x.desc
      if !featuresOk s t d.features || (modelOf s t d.model.toNat).isNone then .next (answerPort port x.far.chan 1 0 s)
      else match arrivalSid s x.desc with
        | none => .next (answerPort port x.far.chan 2 0 s)
        | some sid =>
          let d := { d with state := 1#2, vused := 0#16, hused := 0#32, age := 0#16, born := admittedAt s, parked := true }
          let r := (List.range (groupsOf s t d)).foldl
            (fun o g => o.bind (admitGroup t d.model.toNat g d x.segments)) (some s)
          match x.memory.foldl (fun o m => o.bind (admitMemory t m)) r with
          | none => .next (answerPort port x.far.chan 2 0 s)
          | some s' => .next (answerPort port x.far.chan 0 sid
              (s'.modDev t (fun y => { y with streams := y.streams.set sid { d with parked := false } })))

end Sys2Proof.Machine
end

