-- ==== Sys2Proof/Machine/Finial.lean ====
section
/-! DEFINITION. The Finial: selections, reductions and joins (spec/12_stream_isa.md R271 to R275; spec/01_machine.md R25). -/

namespace Sys2Proof.Machine

/-! ### Submissions (R271 to R274) -/

/-- The fields of a Finial word (Table 12.4). -/
def finId (w : Word) : Nat := bitsOf w.toNat 0 6
def finOrder (w : Word) : Nat := bitsOf w.toNat 8 1
def finOp (w : Word) : Nat := bitsOf w.toNat 8 3
def finK (w : Word) : Nat := bitsOf w.toNat 16 6 + 1

/-- Width of a reduction's elements (R273). -/
def finWidth (op : Nat) : Nat := if op = 1 || op = 6 || op = 7 then 4 else 8

/-- `n` elements of `w` bytes from local address `a`, each a load (R110). -/
def loadItems (s : State) (a : LAddr) (w n : Nat) : Acc (List Word) :=
  accMap (fun i => (loadBytes s (a + BitVec.ofNat 20 (w * i)) w).bind (fun bs => .ok (BitVec.ofNat 64 (leNat bs))))
    (List.range n)

/-- The checks that SELSUB and REDSUB share (R272, R273). -/
def finChecks (s : State) (a b : BitVec 5) (w : Nat) : List (Option Trap) :=
  [(if (s.reg a).toNat % w ≠ 0 then some { cause := .misaligned, val := s.reg a } else none),
   badReg (decide ((s.reg b).toNat = 0) || decide (64 < (s.reg b).toNat)) (s.reg b)]

/-- A submission is taken with status 0, or refused with status 1. -/
def finSubmit (d : BitVec 5) (full : Bool) (x : FinSub) (s : State) : Out :=
  if full then .next (retire (s.setReg d 1#64))
  else .next (retire ((s.modDev s.actor.tid (fun v => { v with finSubs := v.finSubs ++ [x] })).setReg d 0#64))

/-- What this core has submitted to an identifier in this phase. -/
def finMine (s : State) (id : Nat) (reduce : Bool) : List FinSub :=
  (s.dev s.actor.tid).finSubs.filter (fun x => x.id == id && x.core == s.actor.core && x.reduce == reduce)

/-- SELSUB (R272). -/
def execSelsub (d a b c : BitVec 5) (s : State) : Out :=
  issue (.selsub d a b c) s (fun s =>
    let w := s.reg c
    let n := (s.reg b).toNat
    firstTrap (finChecks s a b 8) s (fun s =>
      (loadItems s ((s.reg a).setWidth 20) 8 n).out s (fun items =>
        let had := (finMine s (finId w) false).foldl (fun k x => k + x.items.length) 0
        finSubmit d (decide (64 < had + n))
          { id := finId w, core := s.actor.core, order := s.tick, reduce := false, mode := finOrder w, k := finK w,
            items := items } s)))

/-- REDSUB (R273). -/
def execRedsub (d a b c : BitVec 5) (s : State) : Out :=
  issue (.redsub d a b c) s (fun s =>
    let w := s.reg c
    let n := (s.reg b).toNat
    let width := finWidth (finOp w)
    firstTrap (finChecks s a b width) s (fun s =>
      (loadItems s ((s.reg a).setWidth 20) width n).out s (fun items =>
        finSubmit d (!(finMine s (finId w) true).isEmpty)
          { id := finId w, core := s.actor.core, order := s.tick, reduce := true, mode := finOp w, k := 0,
            items := items } s)))

/-- SJOIN (R274). -/
def execSjoin (d a b : BitVec 5) (s : State) : Out :=
  issue (.sjoin d a b) s (fun s =>
    let sid := ((s.reg a).extractLsb' 0 18).toNat
    let x := descOf s s.actor.tid sid
    let w := s.reg b
    let op := bitsOf w.toNat 0 2
    firstTrap
      [badReg (x.state == 0#2 || !x.pv) (s.reg a),
       badReg (op == 3 || w.extractLsb' 2 6 != 0#6 || w.extractLsb' 16 48 != 0#48) w] s (fun s =>
      if 64 ≤ s.here.joins then .next (retire (s.setReg d 1#64))
      else
        let s := s.modDev s.actor.tid (fun v => { v with
          joinSubs := v.joinSubs ++ [{ child := sid, op := op, keep := bitsOf w.toNat 8 8, ret := x.ret }] })
        .next (retire ((s.modHere (fun k => { k with joins := k.joins + 1 })).setReg d 0#64))))

/-! ### The tree (R25, R273) -/

/-- The place of a core among the leaves: die, then local index (R11, R273). -/
def leafIndex (c : Nat) : Nat :=
  let x := c % 64
  let y := c / 64
  (x / 32 + 2 * (y / 24)) * 768 + y % 24 * 32 + x % 32

/-- One level of the tree: present children of a node in order, left to right (R273). -/
def treeLevel (op : Nat → Nat → Nat) (n : Nat) : List (Nat × Nat) → List (Nat × Nat)
  | [] => []
  | (i, v) :: rest =>
    match treeLevel op n rest with
    | [] => [(i / n, v)]
    | (j, w) :: t => if i / n = j then (j, joinNode op n i v rest) :: t else (i / n, v) :: (j, w) :: t
where
  /-- The children of the node of leaf `i` that follow it, folded onto `v`. -/
  joinNode (op : Nat → Nat → Nat) (n i v : Nat) : List (Nat × Nat) → Nat
    | [] => v
    | (k, w) :: t => if k / n = i / n then joinNode op n i (op v w) t else v

/-- The root's value: three subtrees of four levels in each die, the dies in order (R25). -/
def treeRoot (op : Nat → Nat → Nat) (leaves : List (Nat × Nat)) : Option Nat :=
  match [4, 4, 4, 4, 3, 4].foldl (fun ls n => treeLevel op n ls) leaves with
  | [] => none
  | (_, v) :: _ => some v

/-- One ⊕ of a reduction (R273, Table 12.4). -/
def finCombine (op a b : Nat) : Nat :=
  match op with
  | 6 => if orderKey 12 a < orderKey 12 b then b else a
  | 7 => if orderKey 12 b < orderKey 12 a then b else a
  | o => (redElem (BitVec.ofNat 3 o) a b).code

/-- The elements of a reduction (R273). -/
def reduceItems (op : Nat) (subs : List FinSub) : List Word :=
  let longest := subs.foldl (fun m x => max m x.items.length) 0
  let sorted := sortBy (fun a b => decide (leafIndex a.core ≤ leafIndex b.core)) subs
  (List.range longest).filterMap (fun i =>
    (treeRoot (finCombine op) (sorted.filterMap (fun x =>
      (x.items[i]?).map (fun v => (leafIndex x.core, v.toNat))))).map (BitVec.ofNat 64))

/-- The order of candidates (R272): key, index, core, submission. -/
def candBefore (least : Bool) (a b : Word × Nat × Nat) : Bool :=
  let ka := a.1.toNat % 2 ^ 32
  let kb := b.1.toNat % 2 ^ 32
  let ia := a.1.toNat / 2 ^ 32
  let ib := b.1.toNat / 2 ^ 32
  (if least then decide (ka < kb) else decide (kb < ka)) ||
    (ka == kb && (decide (ia < ib) || (ia == ib && (decide (a.2.1 < b.2.1) ||
      (a.2.1 == b.2.1 && decide (a.2.2 ≤ b.2.2))))))

/-- The first k candidates (R272). -/
def selectItems (least : Bool) (k : Nat) (subs : List FinSub) : List Word :=
  ((sortBy (candBefore least) (subs.flatMap (fun x => x.items.map (fun w => (w, x.core, x.order))))).take k).map (·.1)

/-- The result of one identifier's round; `free` is the kind that a mixed round reports, which the manual leaves open: a free
value of the tenant's own digest (R271, R275, R310). DESIGN CHOICE, log entry 87. -/
def finRound (free : Bool) (subs : List FinSub) : FinResult :=
  match subs with
  | [] => { reduce := false, mode := 0, conflict := true, items := [] }
  | x :: _ =>
    let mixed := subs.any (fun y => y.reduce != x.reduce)
    if mixed || subs.any (fun y => y.mode != x.mode || y.k != x.k) then
      { reduce := if mixed then free else x.reduce, mode := x.mode, conflict := true, items := [] }
    else if x.reduce then { reduce := true, mode := x.mode, conflict := false, items := reduceItems x.mode subs }
    else { reduce := false, mode := x.mode, conflict := false, items := selectItems (x.mode == 1) x.k subs }

/-! ### Joins (R274) -/

/-- The siblings of a parent, each child once, in rising identifier. DESIGN CHOICE, log entry 156. -/
def siblingsOf (s : State) (t parent : Nat) (subs : List JoinSub) : List JoinSub :=
  (sortedSet ((subs.map (·.child)).filter (fun c => (descOf s t c).parent.toNat == parent))).filterMap
    (fun c => subs.find? (fun x => x.child == c))

/-- The rank order of siblings: RETURN's order key, greatest first, then identifier. -/
def joinBefore (a b : JoinSub) : Bool :=
  let ka := orderKey 12 a.ret.toNat
  let kb := orderKey 12 b.ret.toNat
  decide (kb < ka) || (ka == kb && decide (a.child ≤ b.child))

/-- J and the pruned siblings of one parent (R274). -/
def joinOf (sib : List JoinSub) : BitVec 32 × List Nat :=
  match sib with
  | [] => (0#32, [])
  | x :: rest =>
    let ranked := sortBy joinBefore sib
    let sum := rest.foldl (fun a y => addF32 a y.ret) x.ret
    let j := if x.op = 0 then (ranked.map (·.ret)).headD 0#32
      else if x.op = 1 then sum
      else BitVec.ofNat 32 (f32DivNat sum.toNat sib.length)
    (j, if x.keep = 0 then [] else (ranked.drop x.keep).map (·.child))

/-- FINIAL_ROUND (R271 to R274): the rounds of what the last compute phase submitted. -/
def execFinialRound (t : Nat) (s : State) : Out :=
  if !s.exchange || !(s.tenant t).phase.issues then .next s
  else
    let d := s.dev t
    let ids := sortedSet (d.finSubs.map (·.id))
    let res := ids.foldl (fun m id => TMap.set m id
      (finRound (Config.mixedRound d.digest id) (d.finSubs.filter (fun x => x.id == id)))) d.finRes
    let parents := sortedSet (d.joinSubs.map (fun x => (descOf s t x.child).parent.toNat))
    let joins := parents.map (fun p => (p, joinOf (siblingsOf s t p d.joinSubs)))
    .next ((s.setDev t { d with finRes := res, finSubs := [], joinRes := d.joinRes ++ joins, joinSubs := [] }))

/-- What the join round asks of the commit (R274). -/
def commitJoins (t : Nat) (s : State) : State :=
  s.modDev t (fun d => { d with
    streams := d.joinRes.foldl (fun m j =>
      match m.find j.1 with
      | none => m
      | some x => if x.state = 1#2 ∨ x.state = 2#2 then m.set j.1 { x with ret := addF32 x.ret j.2.1 } else m) d.streams
    reqs := d.reqs ++ d.joinRes.flatMap (fun j => j.2.2.map (fun c => .prune c))
    joinRes := [] })

/-! ### Reading a result (R275) -/

/-- SELGET reads the last committed round; its bytes are checked like a vector store's before any is written. -/
def execSelget (d a b : BitVec 5) (s : State) : Out :=
  issue (.selget d a b) s (fun s =>
    if (s.reg a).toNat % 8 ≠ 0 then trapOut { cause := .misaligned, val := s.reg a } s
    else match (s.old s.actor.tid).finRes.find (finId (s.reg b)) with
      | none => .next (retire (s.setReg d 512#64))
      | some r =>
        let w := if r.reduce then finWidth r.mode else 8
        let base : LAddr := (s.reg a).setWidth 20
        (storeAll s (r.items.zipIdx.map (fun p => (base + BitVec.ofNat 20 (w * p.2), natLe w p.1.toNat)))).out s (fun s' =>
          .next (retire (s'.setReg d
            (BitVec.ofNat 64 (r.items.length % 128 + r.conflict.toNat * 256 + r.reduce.toNat * 1024))))))

end Sys2Proof.Machine
end

