-- ==== Sys2Proof/Machine/Oculus.lean ====
section
/-! DEFINITION. The Oculus: sequences, submissions, rounds and the dirty map (spec/12_stream_isa.md R276 to R280;
spec/01_machine.md R26). -/

namespace Sys2Proof.Machine

/-! ### Sequence records (Table 12.5) -/

/-- The fields of a configured sequence. -/
structure SeqConf where
  n    : Nat
  s    : Nat
  m    : Nat
  wr   : Nat
  lmin : Nat
  f    : Nat
  g    : Nat
  x0   : Nat
  y0   : Nat
  rw   : Nat
  rh   : Nat
  tok  : LAddr
  deriving DecidableEq, Repr

def seqConf (recs : List Word) : SeqConf :=
  let a := (recs.getD 0 0#64).toNat
  let b := (recs.getD 1 0#64).toNat
  { n := bitsOf a 0 15, s := bitsOf a 16 16, m := bitsOf a 32 15, wr := bitsOf a 48 8, lmin := bitsOf a 56 6,
    f := bitsOf b 0 16, g := bitsOf b 16 6 + 1, x0 := bitsOf b 32 6, y0 := bitsOf b 38 6, rw := bitsOf b 44 6 + 1,
    rh := bitsOf b 50 6 + 1, tok := (recs.getD 2 0#64).setWidth 20 }

/-- Blocks of a sequence. -/
def SeqConf.blocks (q : SeqConf) : Nat := (q.n + 31) / 32
/-- Cores of the holding rectangle. -/
def SeqConf.cores (q : SeqConf) : Nat := q.rw * q.rh
/-- The core that holds a position (R276). -/
def SeqConf.holder (q : SeqConf) (pos : Nat) : Nat :=
  let b := pos / 32
  (q.y0 + b % q.cores / q.rw) * 64 + q.x0 + b % q.cores % q.rw
/-- The local address of a position's token (R276). -/
def SeqConf.tokenAddr (q : SeqConf) (pos : Nat) : LAddr :=
  q.tok + BitVec.ofNat 20 (128 * (pos / 32 / q.cores) + 4 * (pos % 32))

/-- A record that UMSTATE refuses: a field out of range, a reserved bit, a rectangle outside the launch (R276). -/
def seqRefused (s : State) (recs : List Word) : Bool :=
  let q := seqConf recs
  let a := recs.getD 0 0#64
  let b := recs.getD 1 0#64
  let c := recs.getD 2 0#64
  q.n == 0 || decide (16384 < q.n) || q.m == 0 || decide (16384 < q.m) || q.tok.toNat % 128 != 0 ||
    a.getLsbD 15 || a.getLsbD 47 || a.extractLsb' 62 2 != 0#2 || b.extractLsb' 22 10 != 0#10 ||
    b.extractLsb' 56 8 != 0#8 || c.extractLsb' 20 44 != 0#44 || (recs.drop 3).any (fun w => w != 0#64) ||
    decide (64 < q.x0 + q.rw) || decide (48 < q.y0 + q.rh) ||
    !(List.range q.cores).all (fun j => s.myLaunch.cores.contains ((q.y0 + j / q.rw) * 64 + q.x0 + j % q.rw))

/-- The sequence that a register names (R257, R276). -/
def seqOf (v : Word) : Nat := (v.extractLsb' 0 12).toNat
/-- A value that is no sequence of the tenant's range, bits above [11:0] included (log entry 41). DEDUCED, log entry 41. -/
def seqOutside (s : State) (v : Word) : Bool :=
  let tn := s.tenant s.actor.tid
  decide (v.toNat < tn.seqBase) || decide (tn.seqBase + tn.seqCount ≤ v.toNat) || decide (4096 ≤ v.toNat)
/-- The committed sequence of the actor's tenant. -/
def seqHere (s : State) (v : Word) : Option Sequence := (s.old s.actor.tid).seqs.find (seqOf v)

/-- Bits that are one. -/
def popcount : Nat → Nat → Nat
  | 0, _ => 0
  | k + 1, v => v % 2 + popcount k (v / 2)

/-- What UMSTATE asks of the commit. -/
def askSeq (r : SeqReq) (s : State) : State := s.modDev s.actor.tid (fun d => { d with seqReqs := d.seqReqs ++ [r] })

/-! ### UMSTATE (R276) -/

/-- UMSTATE 0: the record is read at issue; the sequence is configured at the commit. DEDUCED, log entry 92. -/
def execUmstateConfigure (d a c : BitVec 5) (s : State) : Out :=
  issue (.umstateConfigure d a c) s (fun s =>
    if seqOutside s (s.reg a) then trapOut (translationTrap (s.reg a)) s
    else if (s.reg c).toNat % 64 ≠ 0 then trapOut { cause := .misaligned, val := s.reg c } s
    else match loadBytes s ((s.reg c).setWidth 20) 64 with
      | .trap t => trapOut { t with val := s.reg c } s
      | .lost x => .next (lostStop x s)
      | .ok bs =>
        if seqRefused s (wordsOf bs) then trapOut (translationTrap (s.reg c)) s
        else .next (retire (askSeq (.configure (seqOf (s.reg a)) (wordsOf bs) s.thr.launch) s)))

/-- UMSTATE 1: the status word. -/
def execUmstateStatus (d a c : BitVec 5) (s : State) : Out :=
  issue (.umstateStatus d a c) s (fun s =>
    if seqOutside s (s.reg a) then trapOut (translationTrap (s.reg a)) s
    else .next (retire (s.setReg d (match seqHere s (s.reg a) with
      | none => 0#64
      | some q => BitVec.ofNat 64 (q.round.toNat + popcount (bitLen q.mask) q.mask * 2 ^ 32 + 2 ^ 63)))))

/-- UMSTATE 2: 64 mask bits. -/
def execUmstateMask (d a c : BitVec 5) (s : State) : Out :=
  issue (.umstateMask d a c) s (fun s =>
    let j := (s.reg c).toNat
    if seqOutside s (s.reg a) then trapOut (translationTrap (s.reg a)) s
    else match seqHere s (s.reg a) with
      | none => trapOut (translationTrap (s.reg c)) s
      | some q =>
        if 256 ≤ j ∨ (seqConf q.recs).n ≤ 64 * j then trapOut (translationTrap (s.reg c)) s
        else .next (retire (s.setReg d (BitVec.ofNat 64 (q.mask / 2 ^ (64 * j) % 2 ^ 64)))))

/-- UMSTATE 3: released at the commit. DEDUCED, log entry 92. -/
def execUmstateRelease (d a c : BitVec 5) (s : State) : Out :=
  issue (.umstateRelease d a c) s (fun s =>
    if seqOutside s (s.reg a) then trapOut (translationTrap (s.reg a)) s
    else .next (retire (askSeq (.release (seqOf (s.reg a))) s)))

/-! ### Submissions (R277) -/

/-- A later submission for a position replaces an earlier one. DEDUCED, log entry 108. -/
def addSub (subs : List SeqSub) (x : SeqSub) : List SeqSub := subs.filter (fun y => y.pos != x.pos) ++ [x]

/-- Submissions added to the sequence of this phase. -/
def submitSeq (id : Nat) (xs : List SeqSub) (s : State) : State :=
  s.modDev s.actor.tid (fun d => match d.seqs.find id with
    | none => d
    | some q => { d with seqs := d.seqs.set id { q with subs := xs.foldl addSub q.subs } })

/-- A submission of the running thread. -/
def mkSub (s : State) (pos key token : Nat) (forced : Bool) : SeqSub :=
  { pos := pos, forced := forced, key := key, token := token, core := s.actor.core, slot := s.actor.slot,
    launch := s.thr.launch, birth := s.thr.birth }

/-- The candidates of UMSUB, each loaded and then checked (R277). -/
def loadCands (s : State) (q : SeqConf) (a : LAddr) (n : Nat) : Acc (List SeqSub) :=
  accMap (fun i =>
    let at' := a + BitVec.ofNat 20 (8 * i)
    (loadBytes s at' 8).bind (fun bs =>
      let v := leNat bs
      let pos := bitsOf v 32 14
      if q.n ≤ pos ∨ q.holder pos ≠ s.actor.core then .trap (translationTrap (at'.setWidth 64))
      else .ok (mkSub s pos (bitsOf v 0 32) (bitsOf v 46 18) false))) (List.range n)

/-- UMSUB (R277). -/
def execUmsub (a b c : BitVec 5) (s : State) : Out :=
  issue (.umsub a b c) s (fun s =>
    let n := (s.reg c).toNat
    if (s.reg b).toNat % 8 ≠ 0 then trapOut { cause := .misaligned, val := s.reg b } s
    else if seqOutside s (s.reg a) then trapOut (translationTrap (s.reg a)) s
    else match seqHere s (s.reg a) with
      | none => trapOut (translationTrap (s.reg a)) s
      | some q =>
        if n = 0 ∨ 64 < n then trapOut (translationTrap (s.reg c)) s
        else (loadCands s (seqConf q.recs) ((s.reg b).setWidth 20) n).out s (fun xs =>
          .next (retire (submitSeq (seqOf (s.reg a)) xs s))))

/-- UMCOMMIT (R277). -/
def execUmcommit (a b c : BitVec 5) (s : State) : Out :=
  issue (.umcommit a b c) s (fun s =>
    let pos := (s.reg b).toNat
    if seqOutside s (s.reg a) then trapOut (translationTrap (s.reg a)) s
    else match seqHere s (s.reg a) with
      | none => trapOut (translationTrap (s.reg a)) s
      | some q =>
        let k := seqConf q.recs
        if 16384 ≤ pos ∨ k.n ≤ pos ∨ k.holder pos ≠ s.actor.core then trapOut (translationTrap (s.reg b)) s
        else if (s.reg c).extractLsb' 18 46 ≠ 0#46 then trapOut (translationTrap (s.reg c)) s
        else .next (retire (submitSeq (seqOf (s.reg a)) [mkSub s pos 0 (s.reg c).toNat true] s)))

/-- UMDIRTY (R280). -/
def execUmdirty (d a b : BitVec 5) (s : State) : Out :=
  issue (.umdirty d a b) s (fun s =>
    let v := s.reg b
    let l := bitsOf v.toNat 0 6
    let j := bitsOf v.toNat 8 6
    if seqOutside s (s.reg a) then trapOut (translationTrap (s.reg a)) s
    else match seqHere s (s.reg a) with
      | none => trapOut (translationTrap (s.reg a)) s
      | some q =>
        let k := seqConf q.recs
        if k.g ≤ l ∨ k.blocks ≤ 64 * j ∨ v.extractLsb' 6 2 ≠ 0#2 ∨ v.extractLsb' 14 50 ≠ 0#50 then
          trapOut (translationTrap v) s
        else
          let bits := q.dirty.get l 0 / 2 ^ (64 * j) % 2 ^ 64
          .next (retire ((askSeq (.clean (seqOf (s.reg a)) l (bits * 2 ^ (64 * j))) s).setReg d (BitVec.ofNat 64 bits))))

/-! ### Rounds (R278, R279) -/

/-- The submissions that a round commits, in its order: the forced ones by position, then those by key (R278).
DESIGN CHOICE, log entry 134. -/
def roundCommits (q : Sequence) : List SeqSub :=
  let k := seqConf q.recs
  let open' := sortBy (fun a b => decide (a.pos ≤ b.pos)) (q.subs.filter (fun x => bitOf q.mask x.pos))
  let forced := open'.filter (·.forced)
  let ranked := sortBy (fun a b => decide (b.key < a.key) || (a.key == b.key && decide (a.pos ≤ b.pos)))
    (open'.filter (fun x => !x.forced))
  let masked := popcount (bitLen q.mask) q.mask - forced.length
  let n := min (max k.m (masked * k.s / 65536)) (min masked ranked.length)
  forced ++ ranked.take n

/-- The bits of a list of positions. -/
def bitsFrom (ps : List Nat) : Nat := (sortedSet ps).foldl (fun v p => v + 2 ^ p) 0

/-- The dirty map after a round that committed the blocks `cs` (R279). -/
def dirtyAfter (k : SeqConf) (round : Nat) (cs : List Nat) (d : TMap Nat) : TMap Nat :=
  let all := 2 ^ k.blocks - 1
  let own := bitsFrom cs
  let near := bitsFrom ((List.range k.blocks).filter (fun b => cs.any (fun c => decide (b ≤ c + k.wr ∧ c ≤ b + k.wr))))
  let full := k.f ≠ 0 ∧ round % k.f = 0
  (List.range k.g).foldl (fun m l =>
    TMap.set m l (m.get l 0 ||| own ||| (if k.lmin ≤ l then near else 0) ||| (if full then all else 0))) d

/-- The slot that takes the trap of a failing token write (R278). -/
def tokenSlot (s : State) (t : Nat) (x : SeqSub) : Option Nat :=
  let k := s.coreOf t x.core
  let sl := k.slot x.slot
  if (sl.thread.live && sl.thread.birth == x.birth) || sl.handlers.any (fun h => h.birth == x.birth) then some x.slot
  else (liveSlots k).head?

/-- The tokens of a round written in its order under the position's core, which must hold the frame: the state, or what failed
first. No core reads them before the commit (R162, R171, R278). -/
def writeTokens (t : Nat) (k : SeqConf) : List SeqSub → State → State × Option (SeqSub × Cause)
  | [], s => (s, none)
  | x :: rest, s =>
    let c := k.holder x.pos
    let a := k.tokenAddr x.pos
    let r : Acc State := if 0x80000 ≤ a.toNat then .trap { cause := .translation }
      else landLater (fun _ e => fmCapv e && fmHolder e == c) s t c a 4 (fun _ => natLe 4 x.token)
    match r with
    | .ok s' => writeTokens t k rest s'
    | .trap e => (s, some (x, if e.cause = .localUnmapped then .translation else e.cause))
    | .lost _ => (s, some (x, .memLost))

/-- A failed round: a deferred fault of a slot, or, where no slot of the core lives, an entry, the void, and the
submissions discarded with it (R278). -/
def roundFails (t seq : Nat) (k : SeqConf) (x : SeqSub) (c : Cause) (s : State) : State :=
  let e : FaultEvent := { cause := c, core := x.core, slot := x.slot, value := (k.tokenAddr x.pos).setWidth 64 }
  match tokenSlot s t x with
  | some n => deferFault t x.launch { e with slot := n } (if c = .memLost then 1 else 2) s
  | none =>
    let s := voidTenant t (record x.launch e s)
    { s with com := s.com.upd t {} (fun d => match d.seqs.find seq with
        | none => d
        | some q => { d with seqs := d.seqs.set seq { q with subs := [] } }) }

/-- OCULUS_ROUND (R278): a round of a sequence that the last compute phase gave submissions. -/
def execOculusRound (t seq : Nat) (s : State) : Out :=
  if !s.exchange || !(s.tenant t).phase.issues then .next s
  else match (s.dev t).seqs.find seq with
    | none => .next s
    | some q =>
      if q.subs.isEmpty then .next s
      else
        let k := seqConf q.recs
        let xs := roundCommits q
        let q' := { q with
          round := q.round + 1#32
          mask := q.mask - bitsFrom (xs.map (·.pos))
          dirty := dirtyAfter k (q.round + 1#32).toNat (sortedSet (xs.map (fun x => x.pos / 32))) q.dirty
          subs := [] }
        let s := s.modDev t (fun d => { d with seqs := d.seqs.set seq q' })
        match writeTokens t k xs s with
        | (s', none) => .next s'
        | (s', some (x, c)) => .next (roundFails t seq k x c s')

/-! ### The commit (R276, R280) -/

/-- A sequence as a record configures it: every position masked, every bit dirty. -/
def freshSeq (recs : List Word) (launch : Nat) : Sequence :=
  let k := seqConf recs
  { recs := recs, mask := 2 ^ k.n - 1, round := 0#32, launch := launch
    dirty := (List.range k.g).map (fun l => (l, 2 ^ k.blocks - 1)) }

/-- The requests of a phase to its sequences become current. DESIGN CHOICE, log entry 157. -/
def commitSeqs (t : Nat) (s : State) : State :=
  s.modDev t (fun d => { d with
    seqs := d.seqReqs.foldl (fun m r => match r with
      | .configure i recs l => TMap.set m i (freshSeq recs l)
      | .release i => TMap.del m i
      | .clean i l bits => match TMap.find m i with
        | none => m
        | some q =>
          TMap.set m i { q with dirty := q.dirty.set l (q.dirty.get l 0 - (q.dirty.get l 0 &&& bits)) }) d.seqs
    seqReqs := [] })

end Sys2Proof.Machine
end

