-- ==== Sys2Proof/Machine/System.lean ====
section
/-! DEFINITION. Control and status registers, traps and their return, IDLE, HALT, capabilities, and the privileged
operations (spec/16_system_isa.md R316 to R333; spec/02_state.md R43 to R46; spec/20_device.md R379, R380). -/

namespace Sys2Proof.Machine

/-! ### Control and status registers (R43, R44, R317, R318) -/

/-- The die of a core (R11). -/
def dieOf (c : Nat) : Nat := c % 64 / 32 + 2 * (c / 64 / 24)

/-- The value of a CSR of the running thread; none for a number that names no CSR (Tables 2.6, 2.7, 16.2). -/
def csrValue (s : State) (n : Nat) : Option Word :=
  let x := s.slotHere
  let k := s.here
  let l := s.myLaunch
  let w (v : Nat) : Option Word := some (BitVec.ofNat 64 v)
  match n with
  | 0x000 => some s.cycle
  | 0x001 => some s.phase
  | 0x002 => w (s.actor.core % 64 + s.actor.core / 64 * 2 ^ 6 + dieOf s.actor.core * 2 ^ 12)
  | 0x003 => w (s.actor.slot + x.lane * 2 ^ 4 + s.thr.level * 2 ^ 8 + s.thr.origin * 2 ^ 10)
  | 0x004 => w (l.tmode + l.det.toNat * 2 ^ 2 + x.amask.toNat * 2 ^ 3 + l.priv.toNat * 2 ^ 6)
  | 0x005 => some s.thr.stream
  | 0x006 => w (s.actor.tid + s.thr.launch % 4096 * 2 ^ 16)
  | 0x008 => some x.latcnt
  | 0x009 => w (k.limit + k.used * 2 ^ 8 + (reserveOf s s.actor.tid s.actor.core).length % 256 * 2 ^ 16)
  | 0x00A => some x.rprog
  | 0x010 => some x.cause
  | 0x011 => some x.trappc
  | 0x012 => some x.trapval
  | 0x013 => some x.trapaux
  | 0x014 => some s.trapvec
  | 0x020 => some x.flags
  | 0x030 => some (s.old s.actor.tid).digest
  | 0x040 => some x.rngctr
  | 0x100 => some x.ptenant
  | _ => none

/-- ALLOW.LIMIT as a write stores it. -/
def clampLimit (v : Word) : Nat := max 8 (min 64 (v.extractLsb' 0 7).toNat)

/-- A CSR with a value written under the access rules of R43; none where no field of it is writable. -/
def csrStore (s : State) (n : Nat) (v : Word) : Option State :=
  let put (f : Slot → Slot) : Option State := some (s.modSlot f)
  match n with
  | 0x004 => put (fun x => { x with amask := v.extractLsb' 3 3 })
  | 0x008 => put (fun x => { x with latcnt := v })
  | 0x009 => some (s.modHere (fun k => { k with limit := clampLimit v }))
  | 0x00A => put (fun x => { x with rprog := v &&& 0x80FFFFFF#64 })
  | 0x010 => put (fun x => { x with cause := v &&& 0x1FF#64 })
  | 0x011 => put (fun x => { x with trappc := v })
  | 0x012 => put (fun x => { x with trapval := v })
  | 0x013 => put (fun x => { x with trapaux := v })
  | 0x014 => some (s.setTrapvec (v &&& 0xFFFFC#64))
  | 0x020 => put (fun x => { x with flags := v &&& 0x3F#64 })
  | 0x040 => put (fun x => { x with rngctr := v })
  | 0x100 => put (fun x => { x with ptenant := v &&& 0x3F#64 })
  | _ => none

/-- ILLEGAL_INSTRUCTION of an instruction that has passed its checks. -/
def illegalOut (i : Instr) (s : State) : Out := trapOut { cause := .illegalInstruction, val := trapWords s i } s

/-- A write form reads the CSR and writes it back in one step (R317). -/
def csrUpdate (i : Instr) (c : BitVec 12) (f : Word → Word) (s : State) : Out :=
  match (csrValue s c.toNat).bind (fun v => csrStore s c.toNat (f v)) with
  | none => illegalOut i s
  | some s' => .next (retire s')

/-- CSRR (R317). -/
def execCsrr (d : BitVec 5) (c : BitVec 12) (s : State) : Out :=
  issue (.csrr d c) s (fun s => match csrValue s c.toNat with
    | none => illegalOut (.csrr d c) s
    | some v => .next (retire (s.setReg d v)))
/-- CSRW (R317). -/
def execCsrw (a : BitVec 5) (c : BitVec 12) (s : State) : Out :=
  issue (.csrw a c) s (fun s => csrUpdate (.csrw a c) c (fun _ => s.reg a) s)
/-- CSRSET (R317). -/
def execCsrset (a : BitVec 5) (c : BitVec 12) (s : State) : Out :=
  issue (.csrset a c) s (fun s => csrUpdate (.csrset a c) c (fun v => v ||| s.reg a) s)
/-- CSRCLR (R317). -/
def execCsrclr (a : BitVec 5) (c : BitVec 12) (s : State) : Out :=
  issue (.csrclr a c) s (fun s => csrUpdate (.csrclr a c) c (fun v => v &&& ~~~(s.reg a)) s)
/-- DIGEST (R331). -/
def execDigest (d : BitVec 5) (s : State) : Out :=
  issue (.digest d) s (fun s => .next (retire (s.setReg d (s.old s.actor.tid).digest)))

/-! ### Traps (R321 to R324) -/

/-- TRAP raises SOFTWARE; TRAPPC is the following instruction (R322). -/
def execTrap (a : BitVec 5) (c : BitVec 12) (s : State) : Out :=
  issue (.trap a c) s (fun s => trapOut
    { cause := .software, val := c.setWidth 64, aux := s.reg a, pc := some (s.wordAddr + 4#20) } s)

/-- DBRK raises DEBUG; with a debugger attached its slot stops at the following instruction and the tenant drains
(R322, R354). -/
def execDbrk (c : BitVec 12) (s : State) : Out :=
  issue (.dbrk c) s (fun s =>
    if s.myLaunch.debugger then
      .next ((retireInto (.stopped s.exchange) s).modTenant s.actor.tid (fun t => { t with draining := true }))
    else trapOut { cause := .debugStop, val := c.setWidth 64, pc := some (s.wordAddr + 4#20) } s)

/-- The frame that ERET completes: the REP word stands before it, and TRAPAUX names the execution (R71).
DEDUCED, log entry 51. -/
def frameAt (s : State) (pc : LAddr) (aux : Word) : Option RepFrame :=
  let k := bitsOf aux.toNat 48 8
  let i := bitsOf aux.toNat 56 4
  let base := pc - BitVec.ofNat 20 (4 * i)
  if !aux.getLsbD 60 then none
  else match fetchFrom s s.actor.tid s.actor.core (base - 4#20) with
    | none => none
    | some (_, w) => match decode w with
      | .ok (.rep z y x st c l) =>
        let f := frameOf base z y x st c l
        if i < f.len ∧ k < f.cnt then some { f with k := k, i := i } else none
      | _ => none

/-- ERET (R321). DEDUCED, log entry 50. -/
def execEret (s : State) : Out :=
  issue .eret s (fun s =>
    let x := s.slotHere
    if s.thr.level ≠ 0 || !x.h then illegalOut .eret s
    else if x.trappc.extractLsb' 0 2 ≠ 0#2 then trapOut { cause := .misaligned, val := x.trappc } s
    else .next (trapReturn (frameAt s (x.trappc.setWidth 20) x.trapaux) s))

/-- IDLE (R323). -/
def execIdle (a : BitVec 5) (s : State) : Out :=
  issue (.idle a) s (fun s =>
    .next (retireInto (.idle (max 1 ((s.reg a).extractLsb' 0 16).toNat)) s))

/-- A thread of a halted launch stops and counts as arrived (R324). -/
def haltThread (n : Nat) (th : Thread) : Thread :=
  if th.live && th.launch == n then { th with status := .arrived, pfx := none, frame := none } else th

/-- The launch of the thread of a level in a slot. -/
def Slot.launchAt (x : Slot) (lv : Nat) : Nat :=
  if lv = 0 then x.thread.launch else ((x.handlers.find? (fun h => h.level == lv)).map (·.launch)).getD 0

/-- A launch's threads stop and its operations are abandoned on one core (R324). -/
def haltCore (n : Nat) (k : TCore) : TCore :=
  { k with
    slots := k.slots.map (fun p => (p.1, { p.2 with thread := haltThread n p.2.thread, handlers := p.2.handlers.map (haltThread n) }))
    mq := k.mq.filter (fun o => o.launch != n)
    cq := k.cq.filter (fun o => (k.slot o.slot).launchAt o.level != n)
    links := k.links.filter (fun o => (k.slot o.slot).launchAt o.level != n)
    xq := k.xq.filter (fun o => o.ctx.launch != n)
    port := k.port.filter (fun o => o.ctx.launch != n) }

/-- HALT (R324): the launch's threads stop at once and the tenant's phase is voided at its end; what the boundary does is
`voidState`. -/
def execHalt (a : BitVec 5) (s : State) : Out :=
  issue (.halt a) s (fun s =>
    let t := s.actor.tid
    let n := s.thr.launch
    let s := voidTenant t (record n { cause := .software, core := s.actor.core, slot := s.actor.slot, value := s.reg a } s)
    let s := s.modTenant t (fun x => { x with halted := addOnce n x.halted })
    .next (s.modDev t (fun d => { d with cores := d.cores.map (fun p => (p.1, haltCore n p.2)) })))

/-! ### Capabilities (R326 to R330) -/

/-- A region as a capability instruction names it (R326). -/
inductive Region where
  | own (frame : Nat)
  | other (word : Word)
  /-- A page of the issuing core that maps no frame. -/
  | nothing
  deriving DecidableEq, Repr

/-- The region that g[a] names, or TRANSLATION for a malformed address; a local page without a frame is `nothing`.
DEDUCED, log entry 95. -/
def regionOf (s : State) (v : Word) : Acc Region :=
  if v.toNat < 2 ^ 20 then
    match xlate s s.actor.tid s.actor.core s.thr (v.setWidth 20) with
    | some (.vault f _) =>
      if segLost s s.actor.tid s.actor.core s.thr (v.setWidth 20) then .lost v else .ok (.own f)
    | _ => .ok .nothing
  else match globalOf v with
    | .none => .trap (translationTrap v)
    | .hbm _ => .ok (.other v)
    | .vault c la =>
      if c = s.actor.core then .ok (match privFrame s.here (la.toNat / 4096) with
        | some f => .own f
        | none => .nothing)
      else .ok (.other v)

/-- A local page without a frame raises LOCAL_UNMAPPED (R326). DEDUCED, log entry 95. -/
def regionTrap (v : Word) (r : Region) : Option Trap :=
  match r with
  | .nothing => if v.toNat < 2 ^ 20 then some (unmapped (v.setWidth 20)) else none
  | _ => none

/-- Capability messages that a tenant may issue on a core in one phase (R326). -/
def capLimit : Nat := 64

/-- A capability message of the running thread. -/
def capMessage (s : State) (give : Bool) (v : Word) (r : Region) (target : Option Nat) : CapMsg :=
  { src := s.actor.core, slot := s.actor.slot, give := give, region := v, target := target, launch := s.thr.launch
    frame := match r with
      | .own f => some f
      | _ => none }

/-- The message is queued with status 0, or refused with status 1 (R326). -/
def sendCap (d : BitVec 5) (m : CapMsg) (s : State) : State :=
  if capLimit ≤ s.here.capSent then retire (s.setReg d 1#64)
  else
    let s := s.modDev s.actor.tid (fun v => { v with capMsgs := v.capMsgs ++ [m] })
    retire ((s.modHere (fun k => { k with capSent := k.capSent + 1 })).setReg d 0#64)

/-- A target of CAPGIVE that is malformed (R327). DEDUCED, log entry 94. -/
def giveTarget (w : Word) : Acc (Option Nat) :=
  if w.getLsbD 63 then .ok none
  else if w.extractLsb' 12 51 ≠ 0#51 ∨ coreCount ≤ (w.extractLsb' 0 12).toNat then .trap (translationTrap w)
  else .ok (some (w.extractLsb' 0 12).toNat)

/-- CAPGIVE once its operands are read (R327). DEDUCED, log entry 94. -/
def giveRegion (d : BitVec 5) (v : Word) (r : Region) (target : Option Nat) (s : State) : Out :=
  let away := target.any (fun c => !(tenantCores s s.actor.tid).contains c)
  let self := target == some s.actor.core
  let m := capMessage s true v r target
  let capability : Trap := { cause := .capability, val := v }
  match r with
  | .own f =>
    if !holds s.here s.actor.core f then trapOut capability s
    else if away then .next (retire (s.setReg d 1#64))
    else if self then .next (retire (s.setReg d 0#64))
    else if capLimit ≤ s.here.capSent then .next (retire (s.setReg d 1#64))
    else .next (sendCap d m (s.modHere (fun k => k.setFrame f (fmSetCap (k.frame f) none))))
  | .nothing => trapOut capability s
  | .other _ =>
    if away then .next (retire (s.setReg d 1#64))
    else if self then .next (retire (s.setReg d 0#64))
    else .next (sendCap d m s)

/-- CAPGIVE (R327). DEDUCED, log entry 94. -/
def execCapgive (d a b : BitVec 5) (s : State) : Out :=
  issue (.capgive d a b) s (fun s =>
    (regionOf s (s.reg a)).out s (fun r => (giveTarget (s.reg b)).out s (fun target =>
      firstTrap [regionTrap (s.reg a) r] s (giveRegion d (s.reg a) r target))))

/-- CAPTAKE (R328). -/
def execCaptake (d a : BitVec 5) (s : State) : Out :=
  issue (.captake d a) s (fun s =>
    (regionOf s (s.reg a)).out s (fun r => firstTrap [regionTrap (s.reg a) r] s (fun s =>
      .next (sendCap d (capMessage s false (s.reg a) r (some s.actor.core)) s))))

/-- The word of Table 16.4 for a vault frame. -/
def capWordFrame (f : Nat) (e : Word) : Word :=
  if !fmV e then 0#64
  else BitVec.ofNat 64 (fmHolder e + (fmCapv e).toNat * 2 ^ 12 + (fmW e).toNat * 2 ^ 13 + (fmCow e).toNat * 2 ^ 14 +
    fmRef e * 2 ^ 16 + f * 2 ^ 32 + 2 ^ 63)

/-- The word of Table 16.4 for an HBM page. -/
def capWordPage (l : Leaf) : Word :=
  BitVec.ofNat 64 (l.holder + l.capv.toNat * 2 ^ 12 + l.w.toNat * 2 ^ 13 + l.cow.toNat * 2 ^ 14 + l.st.toNat * 2 ^ 15 +
    l.refcnt * 2 ^ 16 + l.pfn * 2 ^ 32 + (l.size + 1) * 2 ^ 61 + 2 ^ 63)

/-- CAPQ (R330): a frame of the issuing core as it stands, every other region as committed. DEDUCED, log entry 95. -/
def execCapq (d a : BitVec 5) (s : State) : Out :=
  issue (.capq d a) s (fun s =>
    (regionOf s (s.reg a)).out s (fun r =>
      let t := s.actor.tid
      let w : Word := match r with
        | .own f => capWordFrame f (s.here.frame f)
        | .nothing => 0#64
        | .other v => match globalOf v with
          | .hbm va => match s.walk t va with
            | .ok l => capWordPage l
            | _ => 0#64
          | _ => match frameNamed s t v with
            | some (c, f) => capWordFrame f (((s.old t).core c).frame f)
            | none => 0#64
      .next (retire (s.setReg d w))))

/-- What a capability message names, as committed: a frame by core and number, or a page by its leaf's place. -/
inductive RegionKey where
  | frame (core f : Nat)
  | page (loc : Nat)
  deriving DecidableEq, Repr

def capKey (s : State) (t : Nat) (m : CapMsg) : Option RegionKey :=
  match m.frame with
  | some f => some (.frame m.src f)
  | none => match frameNamed s t m.region with
    | some (c, f) => some (.frame c f)
    | none => (leafLoc s t m.region).map .page

/-- The core holds the region as committed (R327). DEDUCED, log entry 96. -/
def capHeld (s : State) (t : Nat) (m : CapMsg) : Bool :=
  match frameNamed s t m.region with
  | some (c, f) => holds ((s.old t).core c) m.src f
  | none => match globalOf m.region with
    | .hbm va => match s.walk t va with
      | .ok l => l.capv && l.holder == m.src
      | _ => false
    | _ => false

/-- The messages of a tenant with the first undelivered one delivered, and whether it was valid. DEDUCED, log entry 96. -/
def deliverFirst (valid : CapMsg → Bool) : List CapMsg → List CapMsg
  | [] => []
  | m :: t => if m.done then m :: deliverFirst valid t else { m with done := true, valid := valid m } :: t

/-- CAPABILITY_MESSAGE_DELIVERY (R327): a give of a region of another core is checked as it is delivered. -/
def execCapabilityMessageDelivery (t : Nat) (s : State) : Out :=
  if !s.exchange || !(s.tenant t).phase.issues then .next s
  else match (s.dev t).capMsgs.find? (fun m => !m.done) with
    | none => .next s
    | some m =>
      let given := (s.dev t).capMsgs.any (fun x => x.done && x.valid && x.give && x.src == m.src && x.frame.isNone &&
        capKey s t x == capKey s t m)
      let ok := !m.give || m.frame.isSome || (capHeld s t m && !given)
      let s' := s.modDev t (fun d => { d with capMsgs := deliverFirst (fun _ => ok) d.capMsgs })
      .next (if ok then s' else deferFault t m.launch
        { cause := .capability, core := m.src, slot := m.slot, value := m.region } 2 s')

/-! ### Changes of the page tables and pools -/

/-- `n` bytes at a physical address of HBM zeroed under key material (R299). -/
def zeroPage (mat : BitVec 512) (pfn bytes : Nat) (s : State) : State :=
  { s with hbm := s.hbm.clear (pfn * 4096) (pfn * 4096 + bytes), hbmKey := tagPage mat pfn bytes s.hbmKey }

/-- A 16-byte entry of a page table of tenant `t` written at its place through the table key slot (R301).
DEDUCED, log entry 98. -/
def putEntry (t loc e : Nat) (s : State) : State :=
  s.hbmPuts (s.material (s.tenant t).tableKey) loc (natLe 16 e)

/-- The places of a leaf's entries: one, or the sixteen of a 64 KiB page (R51). -/
def leafPlaces (size loc : Nat) : List Nat := if size = 1 then (List.range 16).map (fun j => loc + 16 * j) else [loc]

/-- An entry with some of its bits replaced. -/
def setBits (e lo n v : Nat) : Nat := e - bitsOf e lo n * 2 ^ lo + v % 2 ^ n * 2 ^ lo

/-- The entry at a place of a table of tenant `t`. -/
def entryAt (s : State) (t loc : Nat) : Nat := s.tableEntry t (loc / 4096) (loc % 4096 / 16)

/-- A valid leaf as the device writes it: REFCNT holds the page-count array's value (R302). DEDUCED, log entry 98. -/
def countedLeaf (s : State) (e : Nat) : Nat :=
  if bitOf e 0 then setBits e 80 16 (s.pageCnt.get (bitsOf e 12 29) 0) else e

/-- A leaf's entries changed by `f`, and written with their reserved bits zero (R7). -/
def editLeaf (t : Nat) (l : Leaf) (f : Nat → Nat) (s : State) : State :=
  (leafPlaces l.size l.loc).foldl (fun s p => putEntry t p (countedLeaf s (f (leafFields (entryAt s t p)))) s) s

/-- The TLB entries of a tenant that `drop` names leave every core (R300). -/
def flushTlb (t : Nat) (drop : TlbEntry → Bool) (s : State) : State :=
  modBoth t (fun d => { d with cores := d.cores.map (fun p => (p.1, { p.2 with tlb := p.2.tlb.filter (fun e => !drop e) })) }) s

/-- A page returns to a tenant's pool, unless one of its frames is lost (R303, R361, R387). -/
def toPool (t pfn bytes : Nat) (s : State) : State :=
  if s.retired pfn (bytes / 4096) then s else modBoth t (fun d => { d with pool := d.pool ++ [(pfn, bytes)] }) s

/-- One leaf fewer maps a state page: at 0 it returns to the pool (R302, R303). -/
def lowerPage (t pfn bytes : Nat) (s : State) : State :=
  let n := s.pageCnt.get pfn 0
  if n ≤ 1 then toPool t pfn bytes { s with pageCnt := s.pageCnt.del pfn }
  else { s with pageCnt := s.pageCnt.set pfn (n - 1) }

/-! ### Privileged operations (R332, R333, R379, R380) -/

/-- The request of a privileged instruction: operand, PTENANT and record. -/
def askPrivileged (i : Instr) (v : Word) (recs : List Word) (s : State) : Out :=
  askFor { instr := i, g := [v, s.slotHere.ptenant], recs := recs } s

/-- A privileged instruction with a record of `n` bytes at g[a]; `busy` is RESIDENCY's condition (R332, R333). -/
def askRecord (i : Instr) (v : Word) (n : Nat) (busy : State → List Word → Bool) (s : State) : Out :=
  (loadBytes s (v.setWidth 20) n).out s (fun bs =>
    if busy s (wordsOf bs) then trapOut { cause := .residency, val := v } s else askPrivileged i v (wordsOf bs) s)

/-- A frame of this core holds a shadow or a copy of the phase (R333). -/
def frameBusy (s : State) (recs : List Word) : Bool :=
  let f := bitsOf (recs.getD 0 0#64).toNat 0 8
  s.cur.any (fun d => let k := d.2.core s.actor.core
    k.copied.contains f || k.shadows.any (fun p => p.1 == f || p.2 == f))

/-- Two ranges meet. -/
def framesMeet (p n q m : Nat) : Bool := decide (p < q + m) && decide (q < p + n)

/-- The bytes that a record of MODESET 7 maps, from the address it names down to a page of its size. -/
def leafSpan (recs : List Word) : Nat × Nat :=
  let size := if bitsOf (recs.getD 1 0#64).toNat 0 1 = 1 then 2 else if bitOf (recs.getD 2 0#64).toNat 3 then 1 else 0
  ((recs.getD 0 0#64).toNat / pageBytes size * pageBytes size, pageBytes size)

/-- A record of MODESET 7 names a page that has a fresh page of the phase, by its addresses in the target tenant or by its
frames, or a fresh page itself (R333). DEDUCED, log entry 97. -/
def pageBusy (s : State) (recs : List Word) : Bool :=
  let span := leafSpan recs
  let pfn := bitsOf (recs.getD 2 0#64).toNat 12 29
  let mapped (first bytes : Nat) : Bool := framesMeet pfn (span.2 / 4096) first (bytes / 4096)
  (s.dev s.slotHere.ptenant.toNat).fresh.any (fun f => framesMeet span.1 span.2 f.va f.bytes) ||
    (bitOf (recs.getD 2 0#64).toNat 0 && s.cur.any (fun d => d.2.fresh.any (fun f => mapped f.old f.bytes || mapped f.new f.bytes)))

/-- QUOTASET 0 (R333). -/
def execQuotasetVquota (d a : BitVec 5) (s : State) : Out :=
  issue (.quotasetVquota d a) s (fun s => askPrivileged (.quotasetVquota d a) (s.reg a) [] s)
/-- QUOTASET 1. -/
def execQuotasetHquota (d a : BitVec 5) (s : State) : Out :=
  issue (.quotasetHquota d a) s (fun s => askPrivileged (.quotasetHquota d a) (s.reg a) [] s)
/-- QUOTASET 2. -/
def execQuotasetSpill (d a : BitVec 5) (s : State) : Out :=
  issue (.quotasetSpill d a) s (fun s => askPrivileged (.quotasetSpill d a) (s.reg a) [] s)
/-- QUOTASET 3. -/
def execQuotasetPoolAdd (d a : BitVec 5) (s : State) : Out :=
  issue (.quotasetPoolAdd d a) s (fun s => askPrivileged (.quotasetPoolAdd d a) (s.reg a) [] s)
/-- QUOTASET 4. -/
def execQuotasetPoolRemove (d a : BitVec 5) (s : State) : Out :=
  issue (.quotasetPoolRemove d a) s (fun s => askPrivileged (.quotasetPoolRemove d a) (s.reg a) [] s)
/-- QUOTASET 5. -/
def execQuotasetSeqRange (d a : BitVec 5) (s : State) : Out :=
  issue (.quotasetSeqRange d a) s (fun s => askPrivileged (.quotasetSeqRange d a) (s.reg a) [] s)
/-- QUOTASET 6. -/
def execQuotasetTaskRange (d a : BitVec 5) (s : State) : Out :=
  issue (.quotasetTaskRange d a) s (fun s => askPrivileged (.quotasetTaskRange d a) (s.reg a) [] s)
/-- KEYSEL 0. -/
def execKeyselAssign (d a : BitVec 5) (s : State) : Out :=
  issue (.keyselAssign d a) s (fun s => askPrivileged (.keyselAssign d a) (s.reg a) [] s)
/-- KEYSEL 1. -/
def execKeyselRelease (d a : BitVec 5) (s : State) : Out :=
  issue (.keyselRelease d a) s (fun s => askPrivileged (.keyselRelease d a) (s.reg a) [] s)
/-- KEYSEL 2: its record of 128 bytes is read at issue (R380). -/
def execKeyselImport (d a : BitVec 5) (s : State) : Out :=
  issue (.keyselImport d a) s (fun s => askRecord (.keyselImport d a) (s.reg a) 128 (fun _ _ => false) s)
/-- MODESET 0. -/
def execModesetFeatures (d a : BitVec 5) (s : State) : Out :=
  issue (.modesetFeatures d a) s (fun s => askPrivileged (.modesetFeatures d a) (s.reg a) [] s)
/-- MODESET 1. -/
def execModesetSeed (d a : BitVec 5) (s : State) : Out :=
  issue (.modesetSeed d a) s (fun s => askPrivileged (.modesetSeed d a) (s.reg a) [] s)
/-- MODESET 2. -/
def execModesetRoot (d a : BitVec 5) (s : State) : Out :=
  issue (.modesetRoot d a) s (fun s => askPrivileged (.modesetRoot d a) (s.reg a) [] s)
/-- MODESET 3. -/
def execModesetSystemFlag (d a : BitVec 5) (s : State) : Out :=
  issue (.modesetSystemFlag d a) s (fun s => askPrivileged (.modesetSystemFlag d a) (s.reg a) [] s)
/-- MODESET 4. -/
def execModesetComputeBudget (d a : BitVec 5) (s : State) : Out :=
  issue (.modesetComputeBudget d a) s (fun s => askPrivileged (.modesetComputeBudget d a) (s.reg a) [] s)
/-- MODESET 5. -/
def execModesetExchangeBudget (d a : BitVec 5) (s : State) : Out :=
  issue (.modesetExchangeBudget d a) s (fun s => askPrivileged (.modesetExchangeBudget d a) (s.reg a) [] s)
/-- MODESET 6: its record of 16 bytes is read at issue. -/
def execModesetFrameMap (d a : BitVec 5) (s : State) : Out :=
  issue (.modesetFrameMap d a) s (fun s => askRecord (.modesetFrameMap d a) (s.reg a) 16 frameBusy s)
/-- MODESET 7: its record of 32 bytes is read at issue. -/
def execModesetLeaf (d a : BitVec 5) (s : State) : Out :=
  issue (.modesetLeaf d a) s (fun s => askRecord (.modesetLeaf d a) (s.reg a) 32 pageBusy s)
/-- MODESET 8: its record of 512 bytes is read at issue. -/
def execModesetRegister (d a : BitVec 5) (s : State) : Out :=
  issue (.modesetRegister d a) s (fun s => askRecord (.modesetRegister d a) (s.reg a) 512 (fun _ _ => false) s)
/-- MODESET 9. -/
def execModesetUnregister (d a : BitVec 5) (s : State) : Out :=
  issue (.modesetUnregister d a) s (fun s => askPrivileged (.modesetUnregister d a) (s.reg a) [] s)

/-! ### Refusals of Table 16.5 -/

/-- The page of QUOTASET 3 and 4: frame and bytes; none for the size code 3. -/
def poolPage (v : Word) : Option (Nat × Nat) :=
  match bitsOf v.toNat 0 2 with
  | 0 => some (bitsOf v.toNat 12 29, 4096)
  | 1 => some (bitsOf v.toNat 12 29, 65536)
  | 2 => some (bitsOf v.toNat 12 29, 2097152)
  | _ => none

/-- The physical frames that the tables of a tenant use, a level at a time: tables and the leaves of the last two levels, each
with its frames (R51). -/
def tableFramesOf (s : State) (t : Nat) : Nat → Nat → List (Nat × Nat)
  | k, table =>
    (table, 2) :: (List.range 512).flatMap (fun i =>
      let e := s.tableEntry t table i
      if !bitOf e 0 then []
      else if bitOf e 2 then (if k = 1 then [(bitsOf e 12 29, 512)]
        else if k = 0 then [(bitsOf e 12 29, if bitOf e 3 then 16 else 1)] else [])
      else match k with
        | 0 => []
        | k' + 1 => tableFramesOf s t k' (bitsOf e 12 29))

/-- A physical range that some tenant's tables use. -/
def pageMapped (s : State) (pfn n : Nat) : Bool :=
  s.tenants.any (fun p => match p.2.root with
    | none => false
    | some root => (tableFramesOf s p.1 3 root).any (fun q => framesMeet pfn n q.1 q.2))

/-- A physical range that some tenant's pool or fresh pages hold. -/
def pagePooled (s : State) (pfn n : Nat) : Bool :=
  s.cur.any (fun d => d.2.pool.any (fun q => framesMeet pfn n q.1 (q.2 / 4096)))

/-- The range of QUOTASET 5 and 6. -/
def rangeBase (v : Word) : Nat := bitsOf v.toNat 0 12
def rangeCount (v : Word) : Nat := bitsOf v.toNat 16 13

/-- Ranges of identifiers meet. -/
def rangeRefused (v : Word) (t : Nat) (others : List (Nat × Nat × Nat)) (used : List Nat) : Bool :=
  let b := rangeBase v
  let n := rangeCount v
  decide (4096 < b + n) ||
    others.any (fun o => o.1 != t && decide (0 < n) && decide (0 < o.2.2) && framesMeet b n o.2.1 o.2.2) ||
    used.any (fun i => decide (i < b) || decide (b + n ≤ i))

/-- A tenant has a share of a core. -/
def hasShare (s : State) (t c : Nat) : Bool := (s.coreOf t c).share != {}

/-- The table that holds the leaf of `va` at the level that `up` levels above the last one, following tables only. -/
def leafTable (s : State) (t va : Nat) (up : Nat) : Nat → Nat → Option Nat
  | 0, table => some table
  | k + 1, table =>
    let e := s.tableEntry t table (va / 2 ^ (12 + 9 * (k + 1 + up)) % 512)
    if bitOf e 0 && !bitOf e 2 then leafTable s t va up k (bitsOf e 12 29) else none

/-- The places in the tables of tenant `t` that a record of MODESET 7 names, none where a table is missing. -/
def leafRecordPlaces (s : State) (t : Nat) (recs : List Word) : Option (List Nat) :=
  let va := (recs.getD 0 0#64).toNat
  let up := bitsOf (recs.getD 1 0#64).toNat 0 1
  let big := up = 0 ∧ bitOf (recs.getD 2 0#64).toNat 3
  match (s.tenant t).root with
  | none => none
  | some root => (leafTable s t va up (3 - up) root).map (fun table =>
      let i := va / 2 ^ (12 + 9 * up) % 512
      let first := table * 4096 + (if big then i / 16 * 16 else i) * 16
      if big then (List.range 16).map (fun j => first + 16 * j) else [first])

/-- The leaf of a record of MODESET 7, its reserved bits zero (Table 2.10, R7). -/
def leafRecord (recs : List Word) : Nat :=
  leafFields ((recs.getD 2 0#64).toNat + (recs.getD 3 0#64).toNat * 2 ^ 64)

/-- A rectangle of a model record as corners (Tables 20.6 and 8.7), none where it leaves the mesh. -/
def modelRect (w : Nat) : Option (BitVec 24) :=
  let x := bitsOf w 0 6
  let y := bitsOf w 6 6
  let x1 := x + bitsOf w 12 6
  let y1 := y + bitsOf w 18 6
  if 64 ≤ x1 ∨ 48 ≤ y1 then none else some (BitVec.ofNat 24 (x + y * 2 ^ 6 + x1 * 2 ^ 12 + y1 * 2 ^ 18))

/-- Bytes of a model record as words of 32 bits. -/
def rectWord (recs : List Word) (l : Nat) : Nat :=
  bitsOf (recs.getD (32 + l / 2) 0#64).toNat (32 * (l % 2)) 32

/-- The model that a record of Table 20.6 describes, none where it is refused (R379); Bmin and A of 0 take their
defaults (R224). DEDUCED, log entry 99. -/
def modelOfRecord (s : State) (t : Nat) (recs : List Word) : Option (Nat × Model) :=
  let w := (recs.getD 0 0#64).toNat
  let g := bitsOf w 8 6 + 1
  let b := bitsOf w 16 9
  let bmin := if bitsOf w 32 9 = 0 then b else bitsOf w 32 9
  let a := if bitsOf w 48 8 = 0 then 8 else bitsOf w 48 8
  let n := bitsOf (recs.getD 1 0#64).toNat 0 12
  let l := s.launchOf n
  let rects := (List.range g).map (fun i => modelRect (rectWord recs i))
  if l.tid ≠ t || !l.live || (s.launches.find n).isNone || b = 0 || 256 < b || b < bmin then none
  else if ((s.tenant t).models.find (bitsOf w 0 8)).isSome then none
  else if (List.range g).any (fun i => (l.templates.find (64 * bitsOf w 0 8 + i)).isNone) then none
  else if rects.any (fun r => match r with
      | none => true
      | some r => !(rectCores r).all (fun c => l.cores.contains c)) then none
  else
    let tmpls : TMap (List Word) :=
      (List.range g).foldl (fun m i => TMap.set m i (l.templates.get (64 * bitsOf w 0 8 + i) [])) []
    some (bitsOf w 0 8,
      { groups := g, rects := rects.filterMap id, b := b, bmin := bmin, a := a, launch := n, templates := tmpls })

/-- A live stream names the model (R379). -/
def modelUsed (s : State) (t model : Nat) : Bool :=
  (s.old t).streams.any (fun p => p.2.state == 1#2 && p.2.model.toNat == model)

/-- A live launch of a tenant. -/
def hasLaunch (s : State) (t : Nat) : Bool := s.launches.any (fun p => p.2.live && p.2.tid == t)

/-- The wrapped key of a record (R380). DEDUCED, log entry 100. -/
def unwrapped (s : State) (t : Nat) (recs : List Word) : Option (Nat × List Byte) :=
  let slot := bitsOf (recs.getD 0 0#64).toNat 0 13
  match (s.tenant t).importKey with
  | none => none
  | some kek =>
    if (s.keys.get slot {}).owner ≠ some t then none
    else (keyUnwrap (bytes256 kek) ((bytesOf recs).drop 8 |>.take 72)).map (fun bs => (slot, bs))

/-- The pool page of an operand is refused (QUOTASET 3); so is one with a lost frame (R361, R387). DEDUCED, log entry 97. -/
def poolAddRefused (s : State) (v : Word) : Bool :=
  match poolPage v with
  | none => true
  | some (p, n) => decide (p % (n / 4096) ≠ 0) || s.retired p (n / 4096) || pageMapped s p (n / 4096) || pagePooled s p (n / 4096) ||
      reservedPfn (p + n / 4096 - 1)

/-- A table place holds a valid leaf: that of a 64 KiB page stands sixteen times (R51). -/
def leafStands (s : State) (t up loc : Nat) : Bool :=
  let e := entryAt s t loc
  bitOf e 0 && bitOf e 2 && (up == 1 || !bitOf e 3 ||
    (List.range 16).all (fun j => leafFields (entryAt s t (loc / 256 * 256 + 16 * j)) == leafFields e))

/-- The state pages that the valid leaves at some places of one row of sixteen map, each leaf with its page's bytes: a 64 KiB
leaf is one (R51, R302). -/
def statePagesAt (s : State) (t : Nat) (up : Nat) (places : List Nat) : List (Nat × Nat) :=
  let mine := ((places.filter (leafStands s t up)).map (entryAt s t)).filter (fun e => bitOf e 5)
  let big (e : Nat) : Bool := up == 0 && bitOf e 3
  (mine.filter (fun e => !big e)).map (fun e => (bitsOf e 12 29, if up = 1 then 2097152 else 4096)) ++
    ((mine.filter big).take 1).map (fun e => (bitsOf e 12 29, 65536))

/-- The state pages that all leaves below a table map, one for each leaf; `k` levels lie below the table (R302). -/
def statePagesBelow (s : State) (t : Nat) : Nat → Nat → List (Nat × Nat)
  | 0, table => (List.range 32).flatMap (fun i =>
      statePagesAt s t 0 ((List.range 16).map (fun j => table * 4096 + (16 * i + j) * 16)))
  | k + 1, table => (List.range 512).flatMap (fun i =>
      let e := s.tableEntry t table i
      if !bitOf e 0 then []
      else if bitOf e 2 then if k = 0 then statePagesAt s t 1 [table * 4096 + i * 16] else []
      else statePagesBelow s t k (bitsOf e 12 29))

/-- The state pages that all leaves of a tenant's table map. -/
def statePagesOf (s : State) (t : Nat) : List (Nat × Nat) :=
  match (s.tenant t).root with
  | none => []
  | some root => statePagesBelow s t 3 root

/-- The state pages that lose a leaf when a record of MODESET 7 is written at its places: those of the leaves there, and of
every leaf below a table whose entry it replaces (R302). -/
def statePagesLost (s : State) (t : Nat) (recs : List Word) (places : List Nat) : List (Nat × Nat) :=
  let up := bitsOf (recs.getD 1 0#64).toNat 0 1
  statePagesAt s t up places ++
    (if up = 1 then places.flatMap (fun p =>
      let e := entryAt s t p
      if bitOf e 0 && !bitOf e 2 then statePagesBelow s t 0 (bitsOf e 12 29) else []) else [])

/-- One leaf more maps a state page (R302). -/
def raisePage (pfn : Nat) (s : State) : State := { s with pageCnt := s.pageCnt.upd pfn 0 (· + 1) }

/-- The leaf of a record is refused (MODESET 7). -/
def leafRefused (s : State) (t : Nat) (recs : List Word) : Bool :=
  let e := leafRecord recs
  match leafRecordPlaces s t recs with
  | none => true
  | some places => (s.keys.get (bitsOf e 48 13) {}).owner != some t || reservedPfn (bitsOf e 12 29) ||
      (bitOf e 0 && bitOf e 5 && s.pageCnt.get (bitsOf e 12 29) 0 == 65535 &&
        !(statePagesLost s t recs places).any (fun p => p.1 == bitsOf e 12 29))

/-- Whether a privileged change is refused (Table 16.5); a tenant that does not exist refuses all. DEDUCED, log entry 97. -/
def privRefused (s : State) (r : PrivReq) : Bool :=
  let t := r.tid
  let key := bitsOf r.arg.toNat 0 13
  (s.tenants.find t).isNone || match r.instr with
  | .quotasetSpill _ _ => !hasShare s t r.core
  | .quotasetPoolAdd _ _ => poolAddRefused s r.arg
  | .quotasetPoolRemove _ _ => match poolPage r.arg with
    | none => true
    | some p => !(s.dev t).pool.contains p
  | .quotasetSeqRange _ _ => rangeRefused r.arg t (s.tenants.map (fun p => (p.1, p.2.seqBase, p.2.seqCount)))
      ((s.old t).seqs.map (·.1))
  | .quotasetTaskRange _ _ => rangeRefused r.arg t (s.tenants.map (fun p => (p.1, p.2.taskBase, p.2.taskCount)))
      ((s.dev t).tasks.map (·.1))
  | .keyselAssign _ _ => key == 0 || (s.keys.get key {}).owner.isSome
  | .keyselRelease _ _ => (s.keys.get key {}).owner != some t
  | .keyselImport _ _ => (unwrapped s t r.recs).isNone
  | .modesetRoot _ _ => (s.keys.get (bitsOf r.arg.toNat 48 13) {}).owner != some t ||
      reservedPfn (bitsOf r.arg.toNat 12 29)
  | .modesetSystemFlag _ _ => hasLaunch s t
  | .modesetComputeBudget _ _ => let n := bitsOf r.arg.toNat 0 25
    n == 0 || decide (2 ^ 24 < n)
  | .modesetExchangeBudget _ _ => let n := bitsOf r.arg.toNat 0 23
    n == 0 || decide (2 ^ 22 < n)
  | .modesetFrameMap _ _ => let e := r.recs.getD 1 0#64
    fmV e && !hasShare s (fmTenant e) r.core
  | .modesetLeaf _ _ => leafRefused s t r.recs
  | .modesetRegister _ _ => (modelOfRecord s t r.recs).isNone
  | .modesetUnregister _ _ => let m := bitsOf r.arg.toNat 0 8
    ((s.tenant t).models.find m).isNone || modelUsed s t m
  | _ => false

/-! ### The changes themselves -/

/-- The tenant that owns a stream identifier. -/
def ownerOfSid (s : State) (sid : Nat) : Option Nat :=
  s.com.findSome? (fun p => if (p.2.streams.find sid).isSome then some p.1 else none)

/-- A field of a descriptor set by a privileged party, as it stands and as committed (R332). -/
def setQuota (sid : Nat) (f : Desc → Desc) (s : State) : State :=
  match ownerOfSid s sid with
  | none => s
  | some t => modBoth t (fun d => match d.streams.find sid with
      | none => d
      | some x => { d with streams := d.streams.set sid (f x) }) s

/-- A frame leaves every tenant of a core but `keep` (R299). -/
def dropFrameOwner (c f : Nat) (keep : Option Nat) (s : State) : State :=
  let drop (p : Nat × TenantDev) : Nat × TenantDev :=
    if some p.1 = keep then p
    else (p.1, { p.2 with
      cores := p.2.cores.map (fun k => if k.1 = c then (k.1, { k.2 with fm := k.2.fm.filter (fun e => e.1 != f) }) else k)
      vault := p.2.vault.clear (vaultAddr c f 0) (vaultAddr c f 0 + 4096) })
  { s with cur := s.cur.map drop, com := s.com.map drop }

/-- MODESET 6 at its commit: the entry written, the frame zeroed where its tenant changes, the lost mark cleared for a new
mapping (R299, R333, R361). DEDUCED, log entry 98. -/
def applyFrameMap (c : Nat) (recs : List Word) (s : State) : State :=
  let f := bitsOf (recs.getD 0 0#64).toNat 0 8
  let e := (recs.getD 1 0#64) &&& 0x0000FFFF7FFFFFFF#64
  if !fmV e then dropFrameOwner c f none s
  else
    let s := { s with lostFrames := s.lostFrames.filter (fun p => p != (c, f)) }
    let table := (tablesOn s (fmTenant e) c).any (fun x => x.1 == f)
    modBoth (fmTenant e) (fun d => d.modCore c (fun k => let k := k.setFrame f e
      if table then k else { k with tframes := k.tframes.filter (fun x => x != f) }))
      (dropFrameOwner c f (some (fmTenant e)) s)

/-- MODESET 7 at its commit: the page-count array, which the new leaf raises before the old one lowers it, the entries, the
lost marks of the new mapping, and the TLB entries that cover a changed page (R300, R302, R333, R361). DEDUCED, log entry 98. -/
def applyLeaf (t : Nat) (recs : List Word) (s : State) : State :=
  match leafRecordPlaces s t recs with
  | none => s
  | some places =>
    let e := leafRecord recs
    let pfn := bitsOf e 12 29
    let span := leafSpan recs
    let old := statePagesLost s t recs places
    let s := if bitOf e 0 && bitOf e 5 then raisePage pfn s else s
    let s := old.foldl (fun s p => lowerPage t p.1 p.2 s) s
    let s := if bitOf e 0 then { s with
        lostPages := s.lostPages.filter (fun p => !decide (pfn ≤ p ∧ p < pfn + span.2 / 4096)) } else s
    let s := places.foldl (fun s p => putEntry t p (countedLeaf s e) s) s
    flushTlb t (fun x => decide (x.page * pageBytes x.size < span.1 + span.2 ∧ span.1 < (x.page + 1) * pageBytes x.size)) s

/-- MODESET 2 at its commit: the leaves of the new table count, and those of the old one no longer do (R302, R333).
DEDUCED, log entry 98. -/
def applyRoot (t root key : Nat) (s : State) : State :=
  let old := statePagesOf s t
  let s := s.modTenant t (fun x => { x with root := some root, tableKey := key })
  let s := (statePagesOf s t).foldl (fun s p => raisePage p.1 s) s
  flushTlb t (fun _ => true) (old.foldl (fun s p => lowerPage t p.1 p.2 s) s)

/-- The key slot under which a page that enters a tenant's pool is zeroed (R299): the table key's where the tenant owns it, else
the lowest-numbered slot that it owns. DEDUCED, log entry 98. -/
def poolKey (s : State) (t : Nat) : Nat :=
  let mine (k : Nat) : Bool := (s.keys.get k {}).owner == some t
  if mine (s.tenant t).tableKey then (s.tenant t).tableKey
  else ((s.keys.find? (fun p => p.2.owner == some t)).map (·.1)).getD 0

/-- The material of that slot; of a tenant without a key slot, the cleared material of none. -/
def poolMaterial (s : State) (t : Nat) : BitVec 512 := if poolKey s t = 0 then 0#512 else s.material (poolKey s t)

/-- A stream that is no longer live and names the model, its references not yet released. DEDUCED, log entry 147. -/
def holdsTables (d : TenantDev) (model : Nat) (p : Nat × Desc) : Bool :=
  (p.2.state == 2#2 || p.2.state == 3#2) && p.2.model.toNat == model && !p.2.freed && !d.released.contains p.1

/-- The references of the complete and pruned streams of a model, lowered while its groups are known. DEDUCED, log entry 147. -/
def releaseModel (t model : Nat) (s : State) : State :=
  ((s.dev t).streams.filter (holdsTables (s.dev t) model)).foldl (fun s p =>
    (lowerTables t p.2 s).modDev t (fun d => { d with streams := d.streams.set p.1 { p.2 with freed := true } })) s

/-- The model of a number is no longer registered: what the phase has released of it, and what its complete and pruned streams
still hold, is freed while its groups are known (R259, R267, R379). DEDUCED, log entry 147. -/
def applyUnregister (t model : Nat) (s : State) : State :=
  let s := releaseModel t model s
  let s := ((freedTables (s.dev t)).filter (fun k => keyModel k == model)).foldl (fun s k => freeTable t k s) s
  modBoth t (fun d => { d with lowered := d.lowered.filter (fun k => keyModel k != model) })
    (s.modTenant t (fun y => { y with models := y.models.del model }))

/-- One accepted change, as its commit makes it current (Table 16.5). -/
def applyPriv (r : PrivReq) (s : State) : State :=
  let t := r.tid
  let v := r.arg.toNat
  match r.instr with
  | .quotasetVquota _ _ => setQuota (bitsOf v 0 18) (fun x => { x with vquota := r.arg.extractLsb' 32 16 }) s
  | .quotasetHquota _ _ => setQuota (bitsOf v 0 18) (fun x => { x with hquota := r.arg.extractLsb' 32 32 }) s
  | .quotasetSpill _ _ =>
    modBoth t (fun d => d.modCore r.core (fun k => { k with share := { k.share with spill := bitsOf v 0 16 } })) s
  | .quotasetPoolAdd _ _ => match poolPage r.arg with
    | none => s
    | some p => modBoth t (fun d => { d with pool := d.pool ++ [p] })
        (zeroPage (poolMaterial s t) p.1 p.2 s)
  | .quotasetPoolRemove _ _ => match poolPage r.arg with
    | none => s
    | some p => modBoth t (fun d => { d with pool := d.pool.erase p }) s
  | .quotasetSeqRange _ _ => s.modTenant t (fun x => { x with seqBase := rangeBase r.arg, seqCount := rangeCount r.arg })
  | .quotasetTaskRange _ _ => s.modTenant t (fun x => { x with taskBase := rangeBase r.arg, taskCount := rangeCount r.arg })
  | .keyselAssign _ _ =>
    ({ s with keys := s.keys.set (bitsOf v 0 13) { owner := some t, material := Config.keyMaterial s.draw } }).drawn
  | .keyselRelease _ _ =>
    flushTlb t (fun e => e.key == bitsOf v 0 13) { s with keys := s.keys.del (bitsOf v 0 13) }
  | .keyselImport _ _ => match unwrapped s t r.recs with
    | none => s
    | some (slot, bs) => { s with keys := s.keys.set slot { owner := some t, material := BitVec.ofNat 512 (leNat bs) } }
  | .modesetFeatures _ _ => s.modTenant t (fun x => { x with permit := r.arg.setWidth 32 ||| 1#32 })
  | .modesetSeed _ _ => s.modTenant t (fun x => { x with seedNext := some r.arg })
  | .modesetRoot _ _ => applyRoot t (bitsOf v 12 29) (bitsOf v 48 13) s
  | .modesetSystemFlag _ _ => s.modTenant t (fun x => { x with system := bitOf v 0 })
  | .modesetComputeBudget _ _ => s.modTenant t (fun x => { x with compute := bitsOf v 0 25 })
  | .modesetExchangeBudget _ _ => s.modTenant t (fun x => { x with exchange := bitsOf v 0 23 })
  | .modesetFrameMap _ _ => applyFrameMap r.core r.recs s
  | .modesetLeaf _ _ => applyLeaf t r.recs s
  | .modesetRegister _ _ => match modelOfRecord s t r.recs with
    | none => s
    | some (m, x) => s.modTenant t (fun y => { y with models := y.models.set m x })
  | .modesetUnregister _ _ => applyUnregister t (bitsOf v 0 8) s
  | _ => s

/-! ### Requests and replies (R258, R332) -/

/-- QUOTASET 0 and 1 go to the Stream Table. -/
def isQuotaRequest : Instr → Bool
  | .quotasetVquota _ _ | .quotasetHquota _ _ => true
  | _ => false

/-- The change that a request asks for. -/
def privOf (p : Party) (r : Request) : PrivReq :=
  { order := 0, instr := r.instr, tid := (r.g.getD 1 0#64).toNat, core := p.core, arg := r.g.getD 0 0#64, recs := r.recs }

/-- The register that takes the status. DEDUCED, log entry 86. -/
def privDest : Instr → Nat
  | .quotasetVquota d _ | .quotasetHquota d _ | .quotasetSpill d _ | .quotasetPoolAdd d _ | .quotasetPoolRemove d _
  | .quotasetSeqRange d _ | .quotasetTaskRange d _ | .keyselAssign d _ | .keyselRelease d _ | .keyselImport d _
  | .modesetFeatures d _ | .modesetSeed d _ | .modesetRoot d _ | .modesetSystemFlag d _ | .modesetComputeBudget d _
  | .modesetExchangeBudget d _ | .modesetFrameMap d _ | .modesetLeaf d _ | .modesetRegister d _
  | .modesetUnregister d _ => d.toNat
  | _ => 0

/-- A change accepted or refused: the status stored for the slot, the change kept for the commit (R332); a stream's quota
counts for checks once the reply has reached the slot (R333). -/
def answerPriv (p : Party) (r : Request) (refused : Bool) (s : State) : State :=
  let q := privOf p r
  let quota : List (Nat × Bool × Nat) := match q.instr with
    | .quotasetVquota _ _ => [(bitsOf q.arg.toNat 0 18, false, bitsOf q.arg.toNat 32 16)]
    | .quotasetHquota _ _ => [(bitsOf q.arg.toNat 0 18, true, bitsOf q.arg.toNat 32 32)]
    | _ => []
  let s := storeReply p r { writes := [(privDest r.instr, if refused then 1#64 else 0#64)]
                            quota := if refused then [] else quota } s
  if refused then s else s.modDev p.tid (fun d => { d with priv := d.priv ++ [{ q with order := s.tick }] })

/-- STREAM_TABLE_REQUEST (R258, R332). -/
def execStreamTableRequest (t c n : Nat) (s : State) : Out :=
  let p : Party := { tid := t, core := c, slot := n }
  match openRequest s p with
  | none => .next s
  | some r =>
    if isStreamRequest r.instr then .next (takeStream p r s)
    else if isQuotaRequest r.instr then
      .next (answerPriv p r (stateFound s (bitsOf (r.g.getD 0 0#64).toNat 0 18) == 0#2) s)
    else .next s

/-- The changes accepted and not yet current, in the order of their acceptance, whichever tenant issued them.
DESIGN CHOICE, log entry 165. -/
def pendingPriv (s : State) : List PrivReq := sortBy (fun a b => decide (a.order ≤ b.order)) (s.cur.flatMap (fun d => d.2.priv))

/-- Every change accepted and not yet current, made: what a later request is judged on. DESIGN CHOICE, log entry 165. -/
def withPending (s : State) : State := (pendingPriv s).foldl (fun s r => applyPriv r s) s

/-- PRIVILEGED_OPERATION_REPLY (R332): the target's state decides, and the reply reaches the slot. -/
def execPrivilegedOperationReply (t c n : Nat) (s : State) : Out :=
  let p : Party := { tid := t, core := c, slot := n }
  match openRequest s p with
  | some r =>
    if privilegedOf r.instr && !isQuotaRequest r.instr then
      .next (deliverReply p (answerPriv p r (privRefused (withPending s) (privOf p r)) s))
    else .next s
  | none => replyTo privilegedOf p s

end Sys2Proof.Machine
end

