-- ==== Sys2Proof/Machine/Debug.lean ====
section
/-! DEFINITION. The state that a debugger names in a held tenant: the target word, what it reads, and its writes
(spec/20_device.md R381; spec/18_recovery.md R355, R356). -/

namespace Sys2Proof.Machine

/-- The fields of a target word (Table 20.10). -/
structure Target where
  core   : Nat
  slot   : Nat
  kind   : Nat
  level  : Nat
  index  : Nat
  offset : Nat
  deriving DecidableEq, Repr

def targetOf (w : Word) : Target :=
  let v := w.toNat
  { core := bitsOf v 0 12, slot := bitsOf v 12 4, kind := bitsOf v 16 4, level := bitsOf v 20 4, index := bitsOf v 24 16,
    offset := bitsOf v 40 12 }

/-- CSRs below 0x100 that exist (Table 2.6). -/
def lowCsr (n : Nat) : Bool :=
  [0x000, 0x001, 0x002, 0x003, 0x004, 0x005, 0x006, 0x008, 0x009, 0x00A, 0x010, 0x011, 0x012, 0x013, 0x014, 0x020, 0x030,
    0x040].contains n

/-- Bytes that a transfer with a target moves: none for a malformed target; `some none` for any multiple of 8 within the
frame (Table 20.10). -/
def targetBytes (t : Target) : Option (Option Nat) :=
  let i := t.index
  match t.kind with
  | 0 =>
    if t.offset ≠ 0 ∨ 3 < t.level then none
    else if (1 ≤ i ∧ i ≤ if t.level = 0 then 31 else 8) ∨ i = 32 then some (some 8)
    else if t.level = 0 ∧ ((40 ≤ i ∧ i ≤ 47) ∨ (0x1000 ≤ i ∧ lowCsr (i - 0x1000))) then some (some 8)
    else none
  | 1 => if t.slot ≠ 0 ∨ t.level ≠ 0 ∨ 256 ≤ i ∨ t.offset % 8 ≠ 0 then none else some none
  | 2 => if t.slot ≠ 0 ∨ t.level ≠ 0 ∨ 256 ≤ i ∨ t.offset ≠ 0 then none else some (some 8)
  | 3 =>
    if t.slot ≠ 0 ∨ t.level ≠ 0 ∨ t.offset ≠ 0 then none
    else if i ≤ 7 then some (some 4096) else if i ≤ 11 then some (some 128) else if i < 16 then none
    else if i ≤ 47 then some (some 4) else if i ≤ 63 then some (some 8) else none
  | 4 =>
    if t.level ≠ 0 ∨ t.offset ≠ 0 then none
    else if i ≤ 127 then some (some 128) else if i ≤ 135 then some (some 16) else if i ≤ 143 then some (some 4096) else none
  | _ => none

/-- The target word and the length are well formed; reserved bits [63:52] of the target word are ignored (R7, R381). -/
def targetOk (w : Word) (len : Nat) : Bool :=
  let t := targetOf w
  match targetBytes t with
    | none => false
    | some (some n) => len == n
    | some none => len % 8 == 0 && decide (0 < len) && decide (t.offset + len ≤ 4096)

/-- The target lies in the held tenant's state: every bank of a slot that it holds does; a captured register needs its capture,
and an accumulator its assignment. DEDUCED, log entry 26. -/
def targetOwned (s : State) (tid : Nat) (t : Target) : Bool :=
  let k := (s.old tid).core t.core
  (tenantCores s tid).contains t.core && match t.kind with
  | 0 => k.share.slots.getLsbD t.slot
  | 1 | 2 => fmV (k.frame t.index) && fmTenant (k.frame t.index) == tid
  | 3 =>
    if t.index ≤ 7 then k.share.acc.getLsbD t.index
    else if t.index ≤ 11 then k.share.q.getLsbD (t.index - 8)
    else if t.index ≤ 47 then k.share.sem.getLsbD (t.index - 16)
    else k.share.ring.getLsbD (t.index - 48)
  | _ => (decide (t.index < 136) || k.share.acc.getLsbD (t.index - 136)) &&
      (s.tenant tid).captures.any (fun c => c.1 == t.core && c.2.1 == t.slot)

/-- A write that is refused: of captured state, of a ring handle that RINGADV refuses, of a frame-map entry that MODESET 6
refuses. -/
def debugRefused (s : State) (t : Target) (bs : List Byte) : Bool :=
  let v := BitVec.ofNat 64 (leNat bs)
  match t.kind with
  | 4 => true
  | 3 => decide (48 ≤ t.index) && ringRefused v
  | 2 => fmV v && !hasShare s (fmTenant v) t.core
  | _ => false

/-- An accumulator's 4 KiB, row by row. -/
def accBytes (m : TMap (BitVec 32)) (a : Nat) : List Byte :=
  (List.range 1024).flatMap (fun i => natLe 4 (m.get (a * 1024 + i) 0#32).toNat)

/-- A slot of the held tenant as the actor, its own thread the one that CSR accesses see: LEVEL 0 (Table 20.10). -/
def asLevel0 (p : Party) (s : State) : State := { s.modSlotOf p (fun x => { x with handlers := [] }) with actor := p }

/-- The device as the held tenant committed it, with the own thread of one of its slots as the actor. -/
def frozen (s : State) (tid : Nat) (t : Target) : State :=
  asLevel0 { tid := tid, core := t.core, slot := t.slot } { s with cur := s.com }

/-- The thread of a level in a slot; where no handler is at the level, what its bank holds. DEDUCED, log entry 26. -/
def Slot.atLevel (x : Slot) (lv : Nat) : Thread :=
  if lv = 0 then x.thread else (x.handlers.find? (fun h => h.level == lv)).getD (x.banks.get lv {})
/-- That thread, or that bank, changed. DEDUCED, log entry 26. -/
def Slot.modLevel (x : Slot) (lv : Nat) (f : Thread → Thread) : Slot :=
  if lv = 0 then { x with thread := f x.thread }
  else if x.handlers.any (fun h => h.level == lv) then
    { x with handlers := x.handlers.map (fun h => if h.level = lv then f h else h) }
  else { x with banks := x.banks.set lv (f (x.banks.get lv {})) }

/-- What a target reads. DEDUCED, log entry 26. -/
def debugRead (s : State) (tid : Nat) (w : Word) (len : Nat) : List Byte :=
  let t := targetOf w
  let k := (s.old tid).core t.core
  let x := k.slot t.slot
  let i := t.index
  match t.kind with
  | 0 => natLe 8 (
      if i ≤ 31 then ((x.atLevel t.level).reg (BitVec.ofNat 5 i)).toNat
      else if i = 32 then (x.atLevel t.level).pc.toNat
      else if i ≤ 47 then (x.sh.get (i - 40) 0#64).toNat
      else ((csrValue (frozen s tid t) (i - 0x1000)).getD 0#64).toNat)
  | 1 => (s.old tid).vault.readBytes (vaultAddr t.core i t.offset) len
  | 2 => natLe 8 (k.frame i).toNat
  | 3 =>
    if i ≤ 7 then accBytes k.accs i
    else if i ≤ 11 then
      let q := k.queues.get (i - 8) []
      (List.range 16).flatMap (fun j => natLe 8 (q.getD j 0#64).toNat)
    else if i ≤ 47 then natLe 4 (k.sems.get (i - 16) 0#32).toNat
    else natLe 8 (k.rings.get (i - 48) 0#64).toNat
  | _ => match (s.tenant tid).captures.find? (fun c => c.1 == t.core && c.2.1 == t.slot) with
    | none => []
    | some c =>
      let y := c.2.2.1
      if i ≤ 127 then natLe 128 (y.v.get i 0#1024).toNat
      else if i ≤ 135 then natLe 16 (if i = 128 then BitVec.allOnes 128 else y.vm.get (i - 128) 0#128).toNat
      else accBytes c.2.2.2 (i - 136)

/-- A core with a debugger's value in a register of it. -/
def debugCore (i : Nat) (bs : List Byte) (k : TCore) : TCore :=
  if i ≤ 7 then { k with accs := (List.range 1024).foldl (fun m j =>
      TMap.set m (i * 1024 + j) (BitVec.ofNat 32 (leNat ((bs.drop (4 * j)).take 4)))) k.accs }
  else if i ≤ 11 then { k with queues := k.queues.set (i - 8) ((List.range 16).map (fun j =>
      BitVec.ofNat 64 (leNat ((bs.drop (8 * j)).take 8)))) }
  else if i ≤ 47 then { k with sems := k.sems.set (i - 16) (BitVec.ofNat 32 (leNat bs)) }
  else { k with rings := k.rings.set (i - 48) (BitVec.ofNat 64 (leNat bs)) }

/-- One write of a debugger becomes current (R356). -/
def debugWrite (tid : Nat) (w : Word) (bs : List Byte) (s : State) : State :=
  let t := targetOf w
  let v := BitVec.ofNat 64 (leNat bs)
  let i := t.index
  let p : Party := { tid := tid, core := t.core, slot := t.slot }
  match t.kind with
  | 0 =>
    if i ≤ 31 then s.modSlotOf p (fun x => x.modLevel t.level (fun th => th.setReg (BitVec.ofNat 5 i) v))
    else if i = 32 then s.modSlotOf p (fun x => x.modLevel t.level (fun th => { th with pc := pcOf (v.setWidth 20) }))
    else if i ≤ 47 then s.modSlotOf p (fun x => { x with sh := x.sh.set (i - 40) v })
    else ((csrStore (asLevel0 p s) (i - 0x1000) v).map (fun u =>
      { u.modSlotOf p (fun x => { x with handlers := (s.slotOf p).handlers }) with actor := s.actor })).getD s
  | 1 => s.modDev tid (fun d => { d with vault := d.vault.writeBytes (vaultAddr t.core i t.offset) bs })
  | 2 => applyFrameMap t.core [BitVec.ofNat 64 i, v] s
  | 3 => s.modCoreOf tid t.core (debugCore i bs)
  | _ => s

end Sys2Proof.Machine
end

