-- ==== Sys2Proof/Machine/Commit.lean ====
section
/-! DEFINITION. What a phase boundary does to a tenant: its commit or its void, the end of a launch, and the release of
what a tenant no longer has (spec/02_state.md R41, R42; spec/07_ordering.md R161 to R166; spec/15_isolation.md R296,
R299, R303, R304, R312, R313; spec/16_system_isa.md R324, R329; spec/18_recovery.md R360, R364). -/

namespace Sys2Proof.Machine

/-! ### The digest (R312, R313) -/

/-- One word taken into H. -/
def digestStep (h w : Word) : Word :=
  let x := (h ^^^ w) * 0xD6E8FEB86659FD93#64
  (x ^^^ (x >>> 32)) + 0x9E3779B97F4A7C15#64

/-- H(A, D) over the eight words of a line. -/
def lineHash (a : Word) (ws : List Word) : Word :=
  let h := ws.foldl digestStep (a ^^^ 0x6A09E667F3BCC908#64) * 0xD6E8FEB86659FD93#64
  h ^^^ (h >>> 29)

/-- The words of a line written by tenant `t`: in a vault, with what the device has landed there, or in a page of HBM. -/
def lineWords (s : State) (t : Nat) (l : Bool × Nat) : List Word :=
  wordsOf (if l.1 then s.hbm.readBytes l.2 64 else (s.dev t).landed l.2 ((s.dev t).vault.readBytes l.2 64))

/-- What the lines of a phase add to the digest. -/
def phaseDigest (s : State) (t : Nat) : Word :=
  (s.dev t).lines.foldl (fun a l => a + lineHash (BitVec.ofNat 64 l.1) (lineWords s t l.2)) 0#64

/-! ### Vault frames and HBM pages (Tables 7.3 and 15.3) -/

/-- Each shadow becomes its frame, and the reserve frame that it took holds the frame's old bytes. DEDUCED, log entry 102. -/
def swapShadows (t : Nat) (s : State) : State :=
  (s.dev t).cores.foldl (fun s k => k.2.shadows.foldl (fun s p => s.modDev t (fun d => { d with
    vault := d.vault.copyRange (s.old t).vault (vaultAddr k.1 p.2 0) (vaultAddr k.1 p.1 0) 4096 })) s) s

/-- Reference counts that copies lowered. -/
def commitDrops (t : Nat) (s : State) : State :=
  s.modDev t (fun d => { d with cores := d.cores.map (fun k =>
    (k.1, k.2.drops.foldl (fun x p => (List.range p.2).foldl (fun x _ => dropFrame t p.1 x) x) k.2)) })

/-- A fresh page becomes the page of its leaf (R303). -/
def commitPage (t : Nat) (f : Fresh) (s : State) : State :=
  match s.walk t f.va with
  | .ok l =>
    let s := modBoth t (fun d => { d with pool := d.pool.filter (fun p => p.1 != f.new) }) s
    let s := if l.st then lowerPage t f.old f.bytes { s with pageCnt := s.pageCnt.set f.new 1 }
      else toPool t f.old f.bytes s
    let s := editLeaf t l (fun e => setBits e 12 29 f.new) s
    let s := flushTlb t (fun x => x.page == f.va / pageBytes x.size) s
    match f.charge with
    | none => s
    | some sid => s.modDev t (fun d => { d with
        streams := d.streams.map (fun p => if p.1 = sid then (p.1, { p.2 with hused := p.2.hused + 1#32 }) else p) })
  | _ => s

def commitFresh (t : Nat) (s : State) : State := (s.dev t).fresh.foldl (fun s f => commitPage t f s) s

/-! ### Capabilities (R329) -/

/-- The holder that the messages for one region give it: none where nothing changes. -/
def resolveHolder (free : Bool) (ms : List CapMsg) : Option (Option Nat) :=
  match ms.find? (fun m => m.give && m.valid) with
  | some m => some m.target
  | none =>
    if free then
      match ms.filter (fun m => !m.give) with
      | [] => none
      | m :: rest => some (some (rest.foldl (fun c x => min c x.src) m.src))
    else none

/-- A page's holder changed in its leaf. -/
def setPageHolder (t : Nat) (l : Leaf) (h : Option Nat) (s : State) : State :=
  editLeaf t l (fun e => setBits (match h with
    | none => e
    | some c => setBits e 64 12 c) 76 1 h.isSome.toNat) s

/-- One region's messages resolved. -/
def resolveRegion (t : Nat) (m : CapMsg) (s : State) : State :=
  let ms := (s.dev t).capMsgs.filter (fun x => x.done && capKey s t x == capKey s t m)
  match capKey s t m with
  | some (.frame c f) =>
    match resolveHolder (!fmCapv (((s.old t).core c).frame f)) ms with
    | none => s
    | some h => s.modCoreOf t c (fun k => k.setFrame f (fmSetCap (k.frame f) h))
  | some (.page _) => match globalOf m.region with
    | .hbm va => match s.walk t va with
      | .ok l => match resolveHolder (!l.capv) ms with
        | none => s
        | some h => setPageHolder t l h s
      | _ => s
    | _ => s
  | none => s

/-- The first message of each region. -/
def firstOfRegion (s : State) (t : Nat) : List CapMsg → List CapMsg
  | [] => []
  | m :: rest => m :: (firstOfRegion s t rest).filter (fun x => !(capKey s t x == capKey s t m))

/-- All capability messages of an exchange phase resolved; a region's messages are judged before any leaf changes. -/
def commitCaps (t : Nat) (s : State) : State :=
  if !s.exchange then s
  else ((firstOfRegion s t (s.dev t).capMsgs).foldl (fun s m => resolveRegion t m s) s).modDev t
    (fun d => { d with capMsgs := [] })

/-! ### Slots and cores at a commit (Table 2.5) -/

/-- What a thread that has arrived does next (R199, R200, R323). DEDUCED, log entry 110. -/
def Status.pass : Status → Status
  | .arrived => .ready
  | .idle n => if n ≤ 1 then .ready else .idle (n - 1)
  | .held n => .held (n - 1)
  | st => st

def Thread.pass (th : Thread) : Thread := { th with status := th.status.pass }

/-- A slot at a boundary: vector and mask registers are zero, its XBARs are counted anew (R201). -/
def Slot.pass (x : Slot) : Slot := { x.modThreads Thread.pass with v := [], vm := [], hbmOpen := 0, bars := [] }

/-- Frames that hold the entries of the spill ring: from the first entry's to the last's (R219). DEDUCED, log entry 91. -/
def TCore.spillHeld (k : TCore) : Nat :=
  if k.spill.isEmpty then 0 else (k.spillTail - 1) / 32 + 1 - (k.spillTail - k.spill.length) / 32

/-- A core at a commit: accumulators zero, queues empty, the phase's counts zero, ended packets gone, emptied frames of
the spill ring in the reserve again (R219, R226). -/
def TCore.pass (k : TCore) : TCore :=
  { k with
    slots := k.slots.map (fun p => (p.1, p.2.pass)), queues := [], accs := [], shadows := [], copied := [], charged := []
    drops := [], capSent := 0, joins := 0, packets := k.packets.filter (fun p => !p.2.ended)
    spillFrames := k.spillFrames.drop (k.spillFrames.length - k.spillHeld)
    spillTail := if k.spill.isEmpty then 0 else k.spillTail }

/-- Slots that debug hold stopped in this phase keep a copy of their vector state and of the core's accumulators for the
debugger, in place of an earlier one (R355). DEDUCED, log entry 25. -/
def capture (t : Nat) (s : State) : State :=
  let kept := (s.dev t).cores.flatMap (fun k =>
    (k.2.slots.filter (fun p => p.2.allThreads.any (fun th => th.status == .stopped s.exchange))).map
      (fun p => (k.1, p.1, p.2, k.2.accs)))
  let again (c : Nat × Nat × Slot × TMap (BitVec 32)) : Bool := kept.any (fun k => k.1 == c.1 && k.2.1 == c.2.1)
  if kept.isEmpty then s else s.modTenant t (fun x => { x with captures := x.captures.filter (fun c => !again c) ++ kept })

/-- Tasks whose count is zero become ready (R228). -/
def readyTasks (phase : Word) (m : TMap Task) : TMap Task :=
  m.map (fun p => (p.1, if p.2.count == 0#32 && p.2.ready.isNone && !p.2.started then { p.2 with ready := some phase } else p.2))

/-! ### The void (R42, R166, R324) -/

/-- LATCNT runs on: every slot keeps it, one that was first used in the voided phase too (Table 2.5). -/
def TCore.keepLat (now old : TCore) : TCore :=
  now.slots.foldl (fun k p =>
    let lat := (now.slot p.1).latcnt
    if (k.slot p.1).latcnt = lat then k else k.setSlot p.1 { k.slot p.1 with latcnt := lat }) old

/-- A slot without the threads of a launch. -/
def Slot.without (n : Nat) (x : Slot) : Slot :=
  let x := { x with handlers := x.handlers.filter (fun h => h.launch != n) }
  if x.thread.launch = n then { x with thread := {}, h := false } else x

/-- A core without the threads, operations, messages, updates and continuations of a launch. -/
def TCore.without (n : Nat) (k : TCore) : TCore :=
  let k := haltCore n k
  { k with
    slots := k.slots.map (fun p => (p.1, p.2.without n))
    sendq := k.sendq.filter (fun m => m.launch != n), arrq := k.arrq.filter (fun m => m.launch != n)
    spill := k.spill.filter (fun m => m.launch != n), updates := k.updates.filter (fun m => m.launch != n)
    deque := k.deque.filter (fun x => x.launch != n), packets := k.packets.filter (fun p => p.2.launch != n) }

/-- The spawns of a launch that core `c` sent and no core has dispatched: discarding their messages ends them (R240). -/
def TenantDev.spawnsOf (d : TenantDev) (n c : Nat) : Nat :=
  d.cores.foldl (fun x k => x + ((k.2.sendq ++ k.2.arrq ++ k.2.spill).filter (fun m =>
    m.launch == n && m.kind == .spawn && m.src == c)).length) 0

/-- A tenant without the threads and messages of a launch. -/
def TenantDev.without (n : Nat) (d : TenantDev) : TenantDev :=
  { d with
    cores := d.cores.map (fun k => (k.1, { k.2.without n with spawns := k.2.spawns - d.spawnsOf n k.1 }))
    toStart := d.toStart.filter (fun x => x != n) }

/-- The void of a tenant: its state as of its last commit, but for LATCNT, for the slots of launches that HALT ended, and
for the appends that the voided exchange phase was to commit (R265). DEDUCED, log entry 18. -/
def voidState (t : Nat) (s : State) : State :=
  let now := s.dev t
  let old := s.old t
  let d := { old with
    cores := old.cores.map (fun k => (k.1, (now.core k.1).keepLat k.2))
    appends := if s.exchange then [] else old.appends }
  let d := (s.tenant t).halted.foldl (fun d n => d.without n) d
  { s with cur := s.cur.set t d, com := s.com.set t d }

/-! ### The end of a launch (R248, R324, R360, R379) -/

/-- The completion record of a command, then its queue's MSI-X vector (Table 20.6); the address is aligned to 32. -/
def completeTo (crec : Word) (fn vec status check launch : Nat) (counts value : Word) (s : State) : State :=
  let bs := natLe 8 (status + check * 2 ^ 8 + launch * 2 ^ 32) ++ natLe 8 s.phase.toNat ++ natLe 8 counts.toNat ++
    natLe 8 value.toNat
  { s with
    hostMem := s.hostMem.writeBytes (crec.toNat / 32 * 32) bs
    host := { s.host with msix := (fn, vec) :: s.host.msix } }

/-- The completion of a command of a queue. -/
def complete (crec : Word) (queue status check launch : Nat) (counts value : Word) (s : State) : State :=
  let q := s.host.queues.get queue {}
  completeTo crec q.owner q.vec.toNat status check launch counts value s

/-- A command's completion with nothing but a status. DEDUCED, log entry 13. -/
def answer (c : HostCmd) (status : Nat) (s : State) : State := complete c.crec c.queue status 0 0 0#64 0#64 s

/-- The completion of a command, if a command asked. -/
def answerSome (c : Option HostCmd) (status : Nat) (s : State) : State := c.elim s (fun c => answer c status s)

/-- A window write dropped and counted. DEDUCED, log entry 47. -/
def dropWrite (fn : Nat) (s : State) : State :=
  let bump (x : BitVec 32) : BitVec 32 := if x = BitVec.allOnes 32 then x else x + 1#32
  { s with host := { s.host with winErr := s.host.winErr.upd fn 0#32 bump } }

/-- Host window writes that wait for the tenant's commit, applied after the tenant's own; one whose page no longer translates
is dropped and counted (R375). DEDUCED, log entry 47. -/
def applyWindow (t : Nat) (s : State) : State :=
  let mine := s.host.winBuf.filter (fun w => w.tid == t)
  let s := { s with host := { s.host with winBuf := s.host.winBuf.filter (fun w => w.tid != t) } }
  mine.foldl (fun s w => if (s.hbmRead t w.va w.data.length).isSome then s.hbmWrite t w.va w.data else dropWrite w.fn s) s

/-- All writes of the debugger of a tenant, at its commit, and the completions of their commands (R356, R379).
DEDUCED, log entry 26. -/
def applyDebug (t : Nat) (s : State) : State :=
  let ws := (s.tenant t).debugWrites
  if ws.isEmpty then s
  else ws.foldl (fun s w => answer w.1 0 (debugWrite t (w.1.args.getD 1 0#64) w.2 s))
    (s.modTenant t (fun x => { x with debugWrites := [] }))

/-- The committed state of a tenant is what stands now. -/
def publish (t : Nat) (s : State) : State := { s with com := s.com.set t (s.dev t) }

/-- What the device has landed for the frames' holders becomes readable (R171, R175). DEDUCED, log entry 132. -/
def settleLater (t : Nat) (s : State) : State :=
  s.modDev t (fun d => { d with vault := d.later.foldl (fun m p => m.writeBytes p.1 [p.2]) d.vault, later := [] })

/-- The commit of a tenant (R161, R165, R270), but for privileged changes, which follow every tenant's (R332).
DESIGN CHOICE, log entry 158. -/
def commitTenant (t : Nat) (s : State) : State :=
  let s := settleLater t s
  let s := s.modDev t (fun d => { d with digest := d.digest + phaseDigest s t })
  let s := commitFresh t (commitDrops t (swapShadows t s))
  let s := commitSeqs t (commitReleases t (commitStreams t (commitJoins t s)))
  let s := capture t (commitCaps t s)
  applyWindow t (publish t (applyDebug t (s.modDev t (fun d => { d with
    tasks := readyTasks s.phase d.tasks, fresh := [], lines := [], quotas := []
    cores := d.cores.map (fun k => (k.1, k.2.pass)) }))))

/-- A launch completes: failed where its fault record holds anything; its task entry frees (R248, R252). -/
def completeLaunch (n : Nat) (s : State) : State :=
  match s.launches.find n with
  | none => s
  | some l =>
    let failed := l.failed || l.written != 0#32 || l.dropped != 0#32
    let s := s.modLaunch n (fun l => { l with live := false })
    match l.task with
    | some i => modBoth l.tid (fun d => { d with tasks := d.tasks.del i }) s
    | none => complete l.crec l.queue failed.toNat 0 n
        (BitVec.ofNat 64 (l.written.toNat + l.dropped.toNat * 2 ^ 32)) 0#64 s

/-- Every live launch of a tenant ends at once, failed, with a MEM_LOST entry; what the phase has not committed is dropped,
and a save under way ends with them (R360, R362). DEDUCED, log entry 38. -/
def endLaunches (t under : Nat) (value : Word) (s : State) : State :=
  let s := (s.liveLaunches t).foldl (fun s n => completeLaunch n (modBoth t (fun d => d.without n)
    (record n { cause := .memLost, under := under, value := value } s))) (voidState t s)
  let s := match s.saves.find t with
    | none => s
    | some v => if v.complete then s else answerSome v.cmd 1 { s with saves := s.saves.del t }
  s.modTenant t (fun x => { x with phase := .run, halted := [], traps := [], trapped := [] })

/-- A launch has nothing more to do: no thread, continuation, message, update or start of it, neither now nor as
committed (R248). DEDUCED, log entry 152. -/
def TCore.doneWith (n : Nat) (k : TCore) : Bool :=
  k.slots.all (fun p => !(p.2.thread.live && p.2.thread.launch == n) && p.2.handlers.all (fun h => h.launch != n)) &&
    k.deque.all (fun x => x.launch != n) && k.updates.all (fun m => m.launch != n) &&
    (k.sendq ++ k.arrq ++ k.spill).all (fun m => m.launch != n)
def TenantDev.doneWith (n : Nat) (d : TenantDev) : Bool :=
  !d.toStart.contains n && d.cores.all (fun k => k.2.doneWith n)

/-- A live launch that has started has nothing more to do (R248). -/
def launchDone (s : State) (p : Nat × Launch) : Bool :=
  p.2.live && !p.2.waiting && (s.dev p.2.tid).doneWith p.1 && (s.old p.2.tid).doneWith p.1

/-- LAUNCH_COMPLETE (R248): the lowest-numbered live launch that is done. -/
def execLaunchComplete (s : State) : Out :=
  match s.launches.find? (launchDone s) with
  | none => .next s
  | some p => .next (completeLaunch p.1 s)

/-- The launches that a commit finds done complete with it, in order of number (R248, R338). -/
def completeLaunches (s : State) : State :=
  (s.launches.filter (launchDone s)).foldl (fun s p => completeLaunch p.1 s) s

/-! ### Release of a share (R296, R299, R304) -/

/-- The leaves of a tenant's tables below one table, each with a virtual address in it. -/
def leavesOf (s : State) (t : Nat) : Nat → Nat → Nat → List (Nat × Nat)
  | k, table, va =>
    (List.range 512).flatMap (fun i =>
      let e := s.tableEntry t table i
      let va' := va + i * 2 ^ (12 + 9 * k)
      if !bitOf e 0 then []
      else if bitOf e 2 then [(va', e)]
      else match k with
        | 0 => []
        | k' + 1 => leavesOf s t k' (bitsOf e 12 29) va')

/-- Pages that a core holds lose their holder. -/
def freePages (t c : Nat) (s : State) : State :=
  match (s.tenant t).root with
  | none => s
  | some root =>
    ((leavesOf s t 3 root 0).filter (fun p => bitOf p.2 76 && bitsOf p.2 64 12 == c)).foldl (fun s p =>
      match s.walk t p.1 with
      | .ok l => setPageHolder t l none s
      | _ => s) s

/-- A tenant's share of a core ends: its slots, registers and control pages are cleared, and the regions that the core held
have no writer; its frames stay the tenant's, with their bytes and counts (R339). DEDUCED, log entry 33, 35. -/
def releaseShare (t c : Nat) (s : State) : State :=
  let drop (d : TenantDev) : TenantDev :=
    { d with
      cores := (d.cores.set c
          { fm := (d.core c).fm, tframes := (d.core c).tframes, limit := (d.core c).limit }).map (fun k => (k.1, { k.2 with
        fm := k.2.fm.map (fun e => (e.1, if fmCapv e.2 && fmHolder e.2 == c then fmSetCap e.2 none else e.2)) }))
      ctl := d.ctl.clear (ctlAddr c 0) (ctlAddr (c + 1) 0) }
  modBoth t drop (freePages t c s)

/-- The shares that no live launch of their tenant uses, by tenant and core; a pre-empted tenant's are the save's (R348).
DEDUCED, log entry 33. -/
def endedShares (s : State) : List (Nat × Nat) :=
  s.tenants.flatMap (fun p =>
    let keep := tenantCores s p.1
    if p.2.phase = .away then []
    else ((s.old p.1).cores.filter (fun k => !keep.contains k.1 && k.2.share != {})).map (fun k => (p.1, k.1)))

/-- The shares of a list end. -/
def releaseShares (xs : List (Nat × Nat)) (s : State) : State := xs.foldl (fun s q => releaseShare q.1 q.2 s) s

/-! ### Replicas (R363 to R365) -/

/-- A commit flit: ordinal, kind, contribution, filled to 256 bytes; its layout is the model's. -/
def replicaFlit (ordinal : Word) (exchange : Bool) (sum : Word) : List Byte :=
  natLe 8 ordinal.toNat ++ natLe 8 exchange.toNat ++ natLe 8 sum.toNat ++ List.replicate 232 0#8

/-- The partner's contribution agrees with the tenant's own. DEDUCED, log entry 39. -/
def replicaAgrees (s : State) (t : Nat) (r : Replica) : Bool :=
  match r.partner with
  | [] => true
  | (c, kind, sum) :: _ => c == r.ordinal && kind == s.exchange && sum == phaseDigest s t

/-- The host sees an event: its bit is set and the PF's vector 0 is signalled (R382). -/
def raiseEvent (n : Nat) (s : State) : State :=
  { s with host := { s.host with events := s.host.events ||| BitVec.ofNat 4 (2 ^ n), msix := (0, 0) :: s.host.msix } }

/-! ### A tenant at the end of a phase (R213) -/

/-- The HOLD commands of a tenant whose hold is in force complete. DEDUCED, log entry 25. -/
def answerHolds (t : Nat) (s : State) : State :=
  ((s.tenant t).holdCmds.foldl (fun s c => answer c 0 s) s).modTenant t (fun x => { x with holdCmds := [] })

/-- The tenant is committed; a debug or thermal hold that falls due begins (R354, R390). A replica counts the commits of the
phases that it takes part in, and uses up the flit of its partner, with any further one for the same commit (R363, R364).
DEDUCED, log entry 39. -/
def endCommit (t : Nat) (s : State) : State :=
  let tn := s.tenant t
  let counts := !(s.liveLaunches t).isEmpty
  let s := commitTenant t s
  let held := tn.thermal || (tn.draining && s.exchange)
  let s := if held then answerHolds t s else s
  s.modTenant t (fun x => { x with
    phase := if held then .held (!s.exchange) else .run
    stopping := if held then [] else x.stopping
    committed := s.phase
    replica := if !counts then x.replica
      else x.replica.map (fun r => { r with
        ordinal := r.ordinal + 1#64, misses := 0, sent := false
        partner := r.partner.tail.filter (fun q => q.1 != r.ordinal) }) })

/-- The tenant is voided: it sits out the next phase, or is held where a hold was asked for (R213, R354). A replica sends its
flit anew, and its partner's flit for this commit stands (R364). DEDUCED, log entry 18, 39. -/
def endVoid (t : Nat) (s : State) : State :=
  let s := voidState t s
  let s := (s.tenant t).halted.foldl (fun s n => completeLaunch n (s.modLaunch n (fun l => { l with failed := true }))) s
  let s := if (s.tenant t).draining || (s.tenant t).thermal then answerHolds t s else s
  s.modTenant t (fun x => { x with
    halted := [], trapped := []
    phase := if x.draining || x.thermal then .held s.exchange else .sitout s.exchange
    stopping := if x.draining || x.thermal then [] else x.stopping
    replica := x.replica.map (fun r => { r with sent := false }) })

/-- The replicas disagree: the flit compared is used up, the phase is voided, and a second time in a row the pair halts, which
the host is told with c, both contributions and the tenant (R364, R365). DEDUCED, log entry 39. DESIGN CHOICE, log entry 15. -/
def endMismatch (t : Nat) (r : Replica) (s : State) : State :=
  let again := decide (1 ≤ r.misses)
  let told : Mismatch :=
    { tid := t, ordinal := r.ordinal, own := phaseDigest s t, partner := (r.partner.head?.map (·.2.2)).getD 0#64 }
  let s := endVoid t (if again then s else recordAll t { cause := .replicaMismatch } s)
  let s := s.modTenant t (fun x => { x with
    phase := if again then .held s.exchange else x.phase
    replica := some { r with misses := r.misses + 1, partner := r.partner.tail, sent := false, halted := again } })
  if again then raiseEvent 2 { s with host := { s.host with mismatches := told :: s.host.mismatches } } else s

/-- A boundary that passes an IDLE without a commit of its tenant. -/
def Status.rest : Status → Status
  | .idle n => if n ≤ 1 then .ready else .idle (n - 1)
  | .held n => .held (n - 1)
  | st => st

/-- The IDLE counts of a tenant at a boundary without a commit: that boundary has passed too (R323). DEDUCED, log entry 110. -/
def restIdle (t : Nat) (s : State) : State :=
  modBoth t (fun d => { d with cores := d.cores.map (fun k => (k.1, { k.2 with
    slots := k.2.slots.map (fun p => (p.1, p.2.modThreads (fun th => { th with status := th.status.rest }))) })) }) s

/-- What a boundary does with one tenant (Table 10.1). DEDUCED, log entry 24. -/
def endPhaseOf (t : Nat) (s : State) : State :=
  match (s.tenant t).phase with
  | .run =>
    if (s.liveLaunches t).isEmpty then endCommit t s
    else match (s.tenant t).replica with
      | none => endCommit t s
      | some r => if replicaAgrees s t r then endCommit t s else restIdle t (endMismatch t r s)
  | .voiding _ => restIdle t (endVoid t s)
  | .sitout e => restIdle t (if (s.tenant t).thermal then s.modTenant t (fun x => { x with phase := .held e }) else s)
  | .held _ | .away => s

/-- The privileged changes of the tenants that commit, made once every tenant has committed or been voided (R332): a voided
tenant has none left. -/
def applyPrivileged (s : State) : State :=
  let clear (d : Nat × TenantDev) : Nat × TenantDev := (d.1, { d.2 with priv := [] })
  (pendingPriv s).foldl (fun s r => applyPriv r s) { s with cur := s.cur.map clear, com := s.com.map clear }

/-- The commit part of a boundary (Table 1.3): every tenant's commit or void, the privileged changes, the end of the shares
whose launches had completed before (R296), the launches that are done (R248), and PHASE + 1. -/
def closePhase (s : State) : State :=
  let ended := endedShares s
  let s := s.tenants.foldl (fun s p => endPhaseOf p.1 s) s
  let s := completeLaunches (releaseShares ended (applyPrivileged s))
  { s with phase := s.phase + 1#64, rot := [] }

end Sys2Proof.Machine
end

