-- ==== Sys2Proof/Machine/Admit.lean ====
section
/-! DEFINITION. Admissions at a boundary: launches with their checks and images, and stream admissions (spec/10_progress.md
R229; spec/11_thread_isa.md R253; spec/15_isolation.md R297, R308, R314; spec/20_device.md R377, R378). -/

namespace Sys2Proof.Machine

/-! ### The launch descriptor and the image (Tables 20.4 and 20.5) -/

/-- A record of an image: kind, bits [63:32] of its header, data. -/
structure ImageRec where
  kind : Nat
  word : Nat
  data : List Byte
  deriving DecidableEq, Repr

/-- `n` records from `va` on, and the address after them. DESIGN CHOICE, log entry 17. -/
def readRecords (s : State) (t : Nat) : Nat → Nat → Option (List ImageRec × Nat)
  | 0, va => some ([], va)
  | n + 1, va =>
    match s.hbmRead t va 8 with
    | none => none
    | some h =>
      let w := leNat h
      let len := bitsOf w 16 16
      match s.hbmRead t (va + 8) len, readRecords s t n (va + 8 + len) with
      | some bs, some (rs, e) => some ({ kind := w % 256, word := bitsOf w 32 32, data := bs } :: rs, e)
      | _, _ => none

/-- An image as read: its header's three words, its records, all its bytes. -/
structure Image where
  head : List Word
  recs : List ImageRec
  bytes : List Byte
  deriving DecidableEq, Repr

/-- The image at `va`; none where it cannot be read or its FORMAT is wrong. DESIGN CHOICE, log entry 17. -/
def readImage (s : State) (t va : Nat) : Option Image :=
  match s.hbmRead t va 24 with
  | none => none
  | some h =>
    let w := leNat (h.take 8)
    if bitsOf w 0 16 ≠ 1 then none
    else match readRecords s t (bitsOf w 16 16) (va + 24) with
      | none => none
      | some (rs, e) => (s.hbmRead t va (e - va)).map (fun bs => { head := wordsOf h, recs := rs, bytes := bs })

/-- What a launch descriptor and its image ask for. -/
structure Plan where
  tid    : Nat
  desc   : List Word
  image  : Image
  cores  : List Nat
  deriving DecidableEq, Repr

def Plan.field (p : Plan) (word lo n : Nat) : Nat := bitsOf (p.desc.getD word 0#64).toNat lo n
def Plan.head (p : Plan) (word lo n : Nat) : Nat := bitsOf (p.image.head.getD word 0#64).toNat lo n
def Plan.priv (p : Plan) : Bool := p.field 0 0 1 == 1
def Plan.slots (p : Plan) : Nat := p.field 0 16 16
def Plan.frec (p : Plan) : Nat := p.field 2 0 48
def Plan.entries (p : Plan) : Nat := p.field 3 0 17
def Plan.reserve (p : Plan) : Nat := p.field 5 0 9
def Plan.allow (p : Plan) : Nat := p.field 5 16 7
def Plan.feats (p : Plan) : Nat := p.head 0 32 32
def Plan.tmode (p : Plan) : Nat := p.head 1 0 2
def Plan.det (p : Plan) : Bool := p.head 1 2 1 == 1
def Plan.entry (p : Plan) : Nat := p.head 1 20 20
def Plan.starts (p : Plan) : Nat := p.head 1 48 16
def Plan.lane (p : Plan) (n : Nat) : Nat := p.head 2 (4 * n) 4

/-- The share that the descriptor asks for (Table 20.4), SPILL as it stands: 0 is a quota of 0 (R219).
DEDUCED, log entry 141. -/
def Plan.share (p : Plan) : Share :=
  { slots := BitVec.ofNat 16 p.slots, arrq := p.field 4 0 7, sendq := p.field 4 8 7, deq := p.field 4 16 6,
    tlb := p.field 4 24 7, ct := p.field 4 32 5, walk := p.field 4 40 7, spill := p.field 4 48 16,
    acc := BitVec.ofNat 8 (p.field 6 0 8), q := BitVec.ofNat 4 (p.field 6 8 4), ring := BitVec.ofNat 16 (p.field 6 16 16),
    sem := BitVec.ofNat 32 (p.field 6 32 32), reserve := p.reserve }

/-- Slots named by SLOTS. -/
def Plan.slotList (p : Plan) : List Nat := (List.range 16).filter (bitOf p.slots)

/-- The cores of a core mask of 48 words. -/
def maskCores (ws : List Word) : List Nat :=
  (ws.zipIdx).flatMap (fun p => if p.1 = 0#64 then [] else
    (List.range 64).filterMap (fun i => if p.1.getLsbD i then some (64 * p.2 + i) else none))

/-! ### The checks of R297 -/

/-- A private page of every core of a list is mapped for the tenant. -/
def pagesMapped (s : State) (t : Nat) (cores : List Nat) (addr len : Nat) : Bool :=
  cores.all (fun c => (List.range ((addr + len + 4095) / 4096 - addr / 4096)).all (fun i =>
    (privFrame (s.coreOf t c) (addr / 4096 + i)).isSome))

/-- A record can be loaded (R378). DEDUCED, log entry 32. -/
def recordOk (s : State) (t : Nat) (cores : List Nat) (r : ImageRec) : Bool :=
  let len := r.data.length
  match r.kind with
  | 1 => decide (r.word + len ≤ 0x7C000) && (len == 0 || pagesMapped s t cores r.word len)
  | 2 => decide (r.word < 64) && len == 8
  | 3 => decide (r.word < 256) && len % 2 == 0 && decide (len ≤ 32)
  | 4 => true
  | 5 =>
    let a := r.word % 2 ^ 20
    let c := r.word / 2 ^ 20
    cores.contains c && decide (a + len ≤ 0x7C000) && (len == 0 || pagesMapped s t [c] a len)
  | _ => false

/-- A tenant's share of a core has ended, and no save of the tenant holds its frames (R296, R348). -/
def shareEnded (s : State) (t c : Nat) : Bool :=
  (s.coreOf t c).share == {} && (s.tenant t).phase != .away && (s.saves.find t).isNone

/-- Frames of a core that a new reserve can take: those that no tenant holds and no error has taken, then the reserve frames
of ended shares, the tenant's own before those of others. DESIGN CHOICE, log entry 36. -/
def freeFrames (s : State) (t c : Nat) : List Nat :=
  let held (f : Nat) (d : Nat × TenantDev) : Bool := fmV ((d.2.core c).frame f)
  let left (f : Nat) (d : Nat × TenantDev) : Bool := !held f d || (fmRsv ((d.2.core c).frame f) && shareEnded s d.1 c)
  let fs := (List.range 256).filter (fun f => !s.retiredFrames.contains (c, f) && s.cur.all (left f))
  let free (f : Nat) : Bool := !s.cur.any (held f)
  let own (f : Nat) : Bool := fmV ((s.coreOf t c).frame f)
  fs.filter own ++ fs.filter free ++ fs.filter (fun f => !own f && !free f)

/-- A frame that a tenant receives leaves the one whose ended share had it, cleared (R299). DESIGN CHOICE, log entry 36. -/
def takeFrame (t c f : Nat) (s : State) : State :=
  let leave (d : Nat × TenantDev) : Nat × TenantDev :=
    if d.1 = t || !fmV ((d.2.core c).frame f) then d
    else (d.1, { d.2.modCore c (fun k => { k with fm := k.fm.del f }) with
      vault := d.2.vault.clear (vaultAddr c f 0) (vaultAddr c (f + 1) 0) })
  { s with cur := s.cur.map leave }.modCoreOf t c (fun k => k.setFrame f (fmReserve t))

/-- Shares of a core that other tenants hold. -/
def otherShares (s : State) (t c : Nat) : List Share :=
  (s.cur.filter (fun d => d.1 != t)).map (fun d => (d.2.core c).share)

/-- Walkers of a die that a tenant holds. -/
def walkersOf (d : TenantDev) (die : Nat) : Nat :=
  (d.cores.filter (fun k => dieOf k.1 == die)).foldl (fun m k => max m k.2.share.walk) 0

def totalOf (f : Share → Nat) (xs : List Share) : Nat := xs.foldl (fun n x => n + f x) 0

/-- A share lies in the ranges of Table 15.2. -/
def Share.inRange (x : Share) : Bool :=
  decide (4 ≤ x.arrq ∧ x.arrq ≤ 64) && decide (4 ≤ x.sendq ∧ x.sendq ≤ 64) && decide (1 ≤ x.deq ∧ x.deq ≤ 32) &&
    decide (4 ≤ x.tlb ∧ x.tlb ≤ 64) && decide (1 ≤ x.ct ∧ x.ct ≤ 16) && decide (1 ≤ x.walk ∧ x.walk ≤ 96)

/-- A share of core `c` fits beside the others, and is the tenant's own where it has one (check 4). DEDUCED, log entry 34. -/
def shareFits (s : State) (t c : Nat) (x : Share) : Bool :=
  let own := (s.coreOf t c).share
  let xs := otherShares s t c
  if own != {} then { own with slots := 0#16 } == { x with slots := 0#16 }
  else
    decide (totalOf (·.arrq) xs + x.arrq ≤ 64) && decide (totalOf (·.sendq) xs + x.sendq ≤ 64) &&
      decide (totalOf (·.deq) xs + x.deq ≤ 32) && decide (totalOf (·.tlb) xs + x.tlb ≤ 64) &&
      decide (totalOf (·.ct) xs + x.ct ≤ 16) &&
      xs.all (fun y => y.acc &&& x.acc == 0#8 && y.q &&& x.q == 0#4 && y.ring &&& x.ring == 0#16 && y.sem &&& x.sem == 0#32) &&
      decide (x.reserve ≤ (freeFrames s t c).length)

/-- The walkers of every die that the mask touches suffice (check 4). -/
def walkersFit (s : State) (t : Nat) (cores : List Nat) (walk : Nat) : Bool :=
  (sortedSet (cores.map dieOf)).all (fun die =>
    let own := walkersOf (s.dev t) die
    (own == 0 || own == walk) &&
      decide ((s.cur.filter (fun d => d.1 != t)).foldl (fun n d => n + walkersOf d.2 die) 0 + walk ≤ 96))

/-- Live launches whose mask meets the plan's, on some core. -/
def launchesOn (s : State) (p : Plan) : List Launch :=
  (s.launches.filter (fun l => l.2.live && l.2.cores.any p.cores.contains)).map (·.2)

/-- Slot-to-lane map (check 5): active slots, none held by another tenant, lanes distinct among themselves and from those
of the tenant's live launches on a core of the mask. -/
def lanesOk (s : State) (p : Plan) : Bool :=
  let lanes := p.slotList.map p.lane
  decide (p.slots < 2 ^ (16 / 2 ^ p.tmode)) &&
    p.cores.all (fun c => (otherShares s p.tid c).all (fun y => y.slots.toNat &&& p.slots == 0)) &&
    (sortedSet lanes).length == lanes.length &&
    (launchesOn s p).all (fun l => l.tid != p.tid ||
      (List.range 16).all (fun n => !l.slots.getLsbD n || !lanes.contains (l.lanes.getD n n)))

/-- The first check of R297 that the plan fails, in the order 7, 1 to 5, 6, 9. DEDUCED, log entry 32. -/
def planCheck (s : State) (p : Plan) : Option Nat :=
  let tn := s.tenant p.tid
  let fails : List (Bool × Nat) :=
    [(!p.image.recs.all (recordOk s p.tid p.cores) || (p.starts &&& p.slots) != p.starts, 7),
     (BitVec.ofNat 32 p.feats &&& ~~~(admittedFeatures s p.tid) != 0#32, 1),
     (p.priv && !tn.system, 2),
     ((launchesOn s p).any (fun l => l.tmode != p.tmode), 3),
     (!p.share.inRange || !p.cores.all (fun c => shareFits s p.tid c p.share) ||
       !walkersFit s p.tid p.cores p.share.walk, 4),
     (!lanesOk s p, 5),
     (tn.replica.isSome && !p.det, 6),
     (decide (p.entries < 16) || decide (65536 < p.entries) || !s.hbmWritable p.tid p.frec (64 + 32 * p.entries), 9)]
  (fails.find? (·.1)).map (·.2)

/-- What stands at a launch descriptor's address. -/
inductive Reading where
  /-- No descriptor can be read there. -/
  | malformed
  /-- A check fails before the plan is complete: 8, the tenant is not bound; 7, the image cannot be read. -/
  | fails (check : Nat)
  | plan (p : Plan)
  deriving DecidableEq, Repr

/-- The descriptor at `va` of tenant `t` and its image. DEDUCED, log entry 32. -/
def readPlan (s : State) (t va : Nat) : Reading :=
  if (s.tenants.find t).isNone then .fails 8
  else if va % 1024 ≠ 0 then .malformed
  else match s.hbmRead t va 1024 with
    | none => .malformed
    | some bs =>
      let ws := wordsOf bs
      match readImage s t (bitsOf (ws.getD 1 0#64).toNat 0 48) with
      | none => .fails 7
      | some im => .plan { tid := t, desc := ws, image := im, cores := maskCores ((ws.drop 32).take 48) }

/-! ### Admission (R377, R378, R314) -/

/-- Bytes loaded at a private address of a core: into the mapped page whatever its W bit, with no shadow.
DEDUCED, log entry 33. -/
def loadAt (t c addr : Nat) (bs : List Byte) (s : State) : State :=
  (piecesOf addr bs.length).foldl (fun s u =>
    match privFrame (s.coreOf t c) ((addr + u.1) / 4096) with
    | none => s
    | some f => s.modDev t (fun d => { d with
        vault := d.vault.writeBytes (vaultAddr c f ((addr + u.1) % 4096)) ((bs.drop u.1).take u.2) })) s

/-- Dispatch-table entries as the device writes them: reserved bits zero (Table 2.7, R7). -/
def dispatchBytes (bs : List Byte) : List Byte := (wordsOf bs).flatMap (fun w => natLe 8 (bitsOf w.toNat 0 23))

/-- One record of an image takes effect; a packet template belongs to the launch. -/
def loadRecord (t : Nat) (cores : List Nat) (r : ImageRec) (s : State) : State :=
  match r.kind with
  | 1 => cores.foldl (fun s c => loadAt t c r.word r.data s) s
  | 2 => s.modDev t (fun d => { d with
      ctl := cores.foldl (fun m c => m.writeBytes (ctlAddr c (0x3000 + 8 * r.word)) (dispatchBytes r.data)) d.ctl })
  | 3 => s.modDev t (fun d => { d with
      groups := d.groups.set r.word ((List.range (r.data.length / 2)).map (fun j => leNat ((r.data.drop (2 * j)).take 2))) })
  | 5 => loadAt t (r.word / 2 ^ 20) (r.word % 2 ^ 20) r.data s
  | _ => s

/-- The packet templates of an image, by 64 times the model plus the group. DESIGN CHOICE, log entry 17. -/
def templatesOf (p : Plan) : TMap (List Word) :=
  (p.image.recs.filter (fun r => r.kind == 4)).foldl (fun m r =>
    let ws := wordsOf ((r.data ++ List.replicate 48 0#8).take 48)
    let w := (ws.getD 0 0#64).toNat
    TMap.set m (64 * bitsOf w 0 8 + bitsOf w 8 6) ws) []

/-- The tenant's share of a core, made or widened by the slots of the launch; a new share takes its reserve frames beside those
that a save holds. The send sequence counter starts at 0 in a new share and runs on in one that stands (R240).
DEDUCED, log entry 34, 144. DESIGN CHOICE, log entry 36. -/
def takeShare (p : Plan) (c : Nat) (s : State) : State :=
  let own := (s.coreOf p.tid c).share
  if own != {} then s.modCoreOf p.tid c (fun k => { k with share := { own with slots := own.slots ||| p.share.slots } })
  else
    let fs := (freeFrames s p.tid c).take p.reserve
    let k : TCore :=
      { share := p.share, limit := max 8 (min 64 p.allow), fm := (s.coreOf p.tid c).fm, tframes := (s.coreOf p.tid c).tframes }
    fs.foldl (fun s f => takeFrame p.tid c f s) (s.setCoreOf p.tid c k)

/-- The launch number that an admission takes, of the 64 that the tenant has: 64 times its identifier and up. It is the next
one that no live or saved launch has, where there is one; no other tenant's launches decide it (R310, Table 18.4). DESIGN
CHOICE, log entry 28. DESIGN CHOICE, log entry 28. -/
def freeLaunch (s : State) (t : Nat) : Option Nat :=
  let ns := (List.range 64).map (fun i => 64 * t + ((s.tenant t).nextLaunch + i) % 64)
  ns.find? (fun n => !(s.launches.get n { tid := 0, live := false }).live &&
    ((s.saves.find t).map (fun v => (v.launches.find n).isNone)).getD true)

/-- A chain extended by a launch (R314). -/
def extendChain (m : BitVec 256) (p : Plan) : BitVec 256 :=
  ofBytes256 (sha256 (bytes256 m ++ sha256 p.image.bytes ++ natLe 4 p.feats ++ natLe 1 (p.det.toNat + 2 * p.priv.toNat)))

/-- The launch of a plan that passes. -/
def launchOfPlan (p : Plan) (va rank : Nat) (since crec : Word) (queue : Nat) (task : Option Nat) : Launch :=
  { tid := p.tid, priv := p.priv, det := p.det, tmode := p.tmode, feats := BitVec.ofNat 32 p.feats ||| 1#32, cores := p.cores,
    slots := BitVec.ofNat 16 p.slots, starts := BitVec.ofNat 16 p.starts, lanes := (List.range 16).map p.lane,
    entry := BitVec.ofNat 20 p.entry, sh := (p.desc.drop 8).take 8, trapvec := BitVec.ofNat 64 (p.field 7 0 20),
    frec := BitVec.ofNat 64 p.frec, entries := p.entries, templates := templatesOf p, desc := BitVec.ofNat 64 va,
    waiting := true, since := since, rank := rank, crec := crec, queue := queue, task := task }

/-- The launch of a plan that passes is admitted: shares, image, chains, fault-record header. It waits for its slots.
DEDUCED, log entry 27. -/
def admitPlan (n : Nat) (p : Plan) (l : Launch) (s : State) : State :=
  let s := p.cores.foldl (fun s c => takeShare p c s) s
  let s := p.image.recs.foldl (fun s r => loadRecord p.tid p.cores r s) s
  let s := s.modTenant p.tid (fun x => { x with chain := extendChain x.chain p, nextLaunch := (n + 1) % 64 })
  let s := if p.priv then { s with sysChain := extendChain s.sysChain p } else s
  putHeader { s with launches := s.launches.set n l } n

/-- A launch presented by the host is admitted, or refused with its check (R297, R376); where its tenant has 64 live launches it
stays presented for the next boundary. -/
def admitHost (phase : Word) (rank : Nat) (c : HostCmd) (t : Option Nat) (s : State) : State :=
  let va := (c.args.getD 0 0#64).toNat
  let refuse (check : Nat) : State := complete c.crec c.queue 2 check 0 0#64 0#64 s
  match t with
  | none => refuse 8
  | some t => match readPlan s t va with
    | .malformed => complete c.crec c.queue 3 0 0 0#64 0#64 s
    | .fails k => refuse k
    | .plan p => match planCheck s p with
      | some k => refuse k
      | none => match freeLaunch s t with
        | none => { s with presented := s.presented ++ [(c, some t)] }
        | some n => admitPlan n p (launchOfPlan p va rank phase c.crec c.queue none) s

/-- A launch task that has become ready is admitted; where its launch is refused, or has no descriptor, its entry frees.
DEDUCED, log entry 29. -/
def admitTask (t i : Nat) (x : Task) (s : State) : State :=
  let free := s.modDev t (fun d => { d with tasks := d.tasks.del i })
  let va := bitsOf (x.recs.getD 1 0#64).toNat 0 48
  match readPlan s t va with
  | .plan p => match planCheck s p with
    | some _ => free
    | none => match freeLaunch s t with
      | none => s
      | some n => admitPlan n p (launchOfPlan p va i (x.ready.getD 0#64) 0#64 0 (some i))
          (s.modDev t (fun d => { d with tasks := d.tasks.set i { x with started := true } }))
  | _ => free

/-- Ready tasks of a kind that have not started, in the order of R229: tenant and index. -/
def tasksReady (s : State) (kind : Nat) : List (Word × Nat × Nat) :=
  sortBy (fun a b => decide (a.1 < b.1) || (a.1 == b.1 && decide (a.2.2 ≤ b.2.2)))
    (s.cur.flatMap (fun d => d.2.tasks.filterMap (fun p => match p.2.ready with
      | some w => if !p.2.started && bitsOf (p.2.recs.getD 0 0#64).toNat 0 2 == kind then some (w, d.1, p.1) else none
      | none => none)))

/-! ### Stream admissions (R229, R253, R308) -/

/-- The descriptor that an admission's record makes (Table 11.7). -/
def admittedDesc (recs : List Word) (born : Word) : Desc :=
  let w := recs.getD 1 0#64
  { Desc.ofWords ((recs.drop 2).take 6) with
    home := w.extractLsb' 0 12, segrec := w.extractLsb' 12 20, mbx := w.extractLsb' 32 20, mbxlogn := w.extractLsb' 52 4,
    state := 1#2, vused := 0#16, hused := 0#32, age := 0#16, born := born }

/-- A ready stream admission starts where a descriptor is free on its die, and is refused for its features, or for a model that
is not registered (R259). DEDUCED, log entry 30, 154. DESIGN CHOICE, log entry 130. -/
def admitStream (t i : Nat) (x : Task) (s : State) : State :=
  let free (s : State) : State := s.modDev t (fun d => { d with tasks := d.tasks.del i })
  let d := admittedDesc x.recs (admittedAt s)
  match freeSid s (bitsOf (x.recs.getD 1 0#64).toNat 56 2) with
  | none => s
  | some sid =>
    if !featuresOk s t d.features then
      record x.launch { cause := .feature, value := d.features.setWidth 64 } (free s)
    else if (modelOf s t d.model.toNat).isNone then
      record x.launch { cause := .translation, value := d.model.setWidth 64 } (free s)
    else raiseTables t d (free (s.modDev t (fun y => { y with streams := y.streams.set sid d })))

/-! ### Starts (R229) -/

/-- Slots of a launch: core and slot number. -/
def Launch.places (l : Launch) : List (Nat × Nat) :=
  l.cores.flatMap (fun c => (List.range 16).filterMap (fun n => if l.slots.getLsbD n then some (c, n) else none))

/-- A slot is free for a launch that is to start: it holds no thread, and no other launch is about to start in it. -/
def placeFree (s : State) (t : Nat) (q : Nat × Nat) : Bool :=
  ((s.coreOf t q.1).slot q.2).isFree && (s.dev t).toStart.all (fun n => !(s.launchOf n).places.contains q)

/-- Waiting launches in the order of R229. DEDUCED, log entry 27. -/
def waitingLaunches (s : State) : List (Nat × Launch) :=
  sortBy (fun a b => decide (a.2.since < b.2.since) || (a.2.since == b.2.since && decide (a.2.rank ≤ b.2.rank)))
    (s.launches.filter (fun p => p.2.live && p.2.waiting))

/-- Waiting launches start in order, each where all its slots are free and none is one that an earlier launch waits for:
`kept` lists those. DEDUCED, log entry 27. -/
def startLaunches : List (Nat × Launch) → List (Nat × Nat × Nat) → State → State
  | [], _, s => s
  | (n, l) :: rest, kept, s =>
    if l.places.all (fun q => placeFree s l.tid q && !kept.contains (l.tid, q.1, q.2)) then
      startLaunches rest kept ((s.modLaunch n (fun x => { x with waiting := false })).modDev l.tid
        (fun d => { d with toStart := d.toStart ++ [n] }))
    else startLaunches rest (kept ++ l.places.map (fun q => (l.tid, q.1, q.2))) s

/-- The tenant that a command acts for: the entry's for the PF, the bound one for a VF (R376). -/
def cmdTenant (s : State) (c : HostCmd) : Option Nat := if c.fn = 0 then some c.tid else s.host.vf.find c.fn

/-- All admissions and starts of a boundary: stream admissions, launch tasks, the host's launches, then the starts. Every
tenant stands as committed here, and what is admitted is part of that. -/
def admissions (s : State) : State :=
  let s := (tasksReady s 1).foldl (fun s q => match (s.dev q.2.1).tasks.find q.2.2 with
    | none => s
    | some x => admitStream q.2.1 q.2.2 x s) s
  let s := s.tenants.foldl (fun s p => if (s.dev p.1).lowered.isEmpty then s else freeTables p.1 s) s
  let s := (tasksReady s 0).foldl (fun s q => match (s.dev q.2.1).tasks.find q.2.2 with
    | none => s
    | some x => admitTask q.2.1 q.2.2 x s) s
  let s := (s.presented.zipIdx 4096).foldl (fun s p => admitHost (s.phase - 1#64) p.2 p.1.1 p.1.2 s)
    { s with presented := [] }
  let s := startLaunches (waitingLaunches s) [] s
  { s with com := s.cur }

end Sys2Proof.Machine
end

