-- ==== Sys2Proof/Machine/Batch.lean ====
section
/-! DEFINITION. The start of a phase: launch threads, the traps of a tenant that leaves SITOUT, the Campanile's batches, the
dispatch of arrivals, packets and continuations (spec/02_state.md R42, R45, R53; spec/10_progress.md R214, R215, R221 to
R226; spec/11_thread_isa.md R236; spec/12_stream_isa.md R260; spec/15_isolation.md R308; spec/18_recovery.md R357). -/

namespace Sys2Proof.Machine

/-! ### Launch threads (R377) -/

/-- The threads of one launch start on every core of its mask, in the slots of STARTS. -/
def startThreadsOf (n : Nat) (s : State) : State :=
  let l := s.launchOf n
  l.cores.foldl (fun s c => ((List.range 16).filter (fun i => l.starts.getLsbD i)).foldl (fun s i =>
    startThread l.tid c i { launch := n, pc := l.entry } l.sh l.trapvec s) s) s

/-- EPOCH and RNGCTR are zero in every slot of a launch when it starts (R100, R377). DEDUCED, log entry 49. -/
def resetRandom (n : Nat) (s : State) : State :=
  let l := s.launchOf n
  l.places.foldl (fun s q => s.modSlotOf { tid := l.tid, core := q.1, slot := q.2 }
    (fun x => { x with rngctr := 0#64, epoch := 0#48 })) s

/-- The admitted launches of a tenant whose threads have not started. DEDUCED, log entry 27. -/
def startLaunchThreads (t : Nat) (s : State) : State :=
  ((s.dev t).toStart.foldl (fun s n => startThreadsOf n (resetRandom n s)) s).modDev t (fun d => { d with toStart := [] })

/-! ### Traps on leaving SITOUT (R214, R215) -/

/-- The slot that a pending trap falls to: a budget trap to the lowest slot that had not arrived, else to the lowest live
one; any other to the slot it names, if that holds a thread. DEDUCED, log entry 111. -/
def pendSlot (k : TCore) (p : PendTrap) : Option Nat :=
  let live := liveSlots k
  if p.rank = 4 then
    match live.filter (fun n => bitOf p.aux.toNat (16 + n)) with
    | n :: _ => some n
    | [] => live.head?
  else if live.contains p.slot then some p.slot else none

/-- The traps that the slots of a core take, in increasing slot (R342): one for each slot, the first cause in the order of R215,
of one rank the earliest recorded. DEDUCED, log entry 58. -/
def trapsOn (k : TCore) (ps : List PendTrap) : List (Nat × PendTrap) :=
  sortBy (fun a b => decide (a.1 ≤ b.1)) ((sortBy (fun a b => decide (a.rank ≤ b.rank)) ps).foldl (fun acc p =>
    match pendSlot k p with
    | none => acc
    | some n => if acc.any (fun q => q.1 == n) then acc else acc ++ [(n, p)]) [])

/-- A thread that is held: one that could issue, and one in IDLE with the boundaries it has still to wait for (R215). -/
def Status.heldFrom : Status → Status
  | .ready => .held 0
  | .idle n => .held n
  | st => st

/-- The other live slots of a core are held, counting as arrived. -/
def holdOthers (slots : List Nat) (k : TCore) : TCore :=
  { k with slots := k.slots.map (fun p =>
      if slots.contains p.1 || p.2.isFree then p
      else (p.1, p.2.setTop { p.2.top with status := p.2.top.status.heldFrom })) }

/-- All the traps of a tenant that leaves SITOUT. -/
def takePending (t : Nat) (s : State) : State :=
  let ps := (s.tenant t).traps
  let chosen := (sortedSet (ps.map (·.core))).map (fun c => (c, trapsOn (s.coreOf t c) (ps.filter (fun p => p.core == c))))
  let s := s.modTenant t (fun x => { x with
    traps := [], trapped := chosen.flatMap (fun q => q.2.map (fun y => (q.1, y.1))) })
  let s := chosen.foldl (fun s q => if q.2.isEmpty then s else s.modCoreOf t q.1 (holdOthers (q.2.map (·.1)))) s
  chosen.foldl (fun s q => q.2.foldl (fun s y =>
    let p : Party := { tid := t, core := q.1, slot := y.1 }
    onThread p (s.slotOf p).top.level (takeTrap { cause := y.2.cause, val := y.2.val, aux := y.2.aux }) s) s) s

/-- Slots that debug hold stopped in a phase of this kind resume (R357). -/
def resumeStopped (t : Nat) (s : State) : State :=
  if (s.tenant t).draining then s
  else
    let go (th : Thread) : Thread := if th.status = .stopped s.exchange then { th with status := .ready } else th
    s.modDev t (fun d => { d with cores := d.cores.map (fun k =>
      (k.1, { k.2 with slots := k.2.slots.map (fun p => (p.1, p.2.modThreads go)) })) })

/-! ### Batches (R224, R225, R260, R264, R308) -/

/-- A stream waits at a group: live, its CURSOR there, world steps left, and in no packet whose task has not quit.
DEDUCED, log entry 31, 162. -/
def streamWaits (d : TenantDev) (model g : Nat) (p : Nat × Desc) : Bool :=
  p.2.state == 1#2 && p.2.horizon != 0#32 && p.2.model.toNat == model && p.2.cursor.toNat == g && !p.2.parked && !p.2.migrating &&
    !d.cores.any (fun k => k.2.packets.any (fun q => !q.2.ended && q.2.sids.contains p.1))

/-- The order in which a batch is chosen (R225). DEDUCED, log entry 107. -/
def batchBefore (det : Bool) (a : Nat) (x y : Nat × Desc) : Bool :=
  let old (p : Nat × Desc) : Bool := decide (a ≤ p.2.age.toNat)
  if det then
    if old x == old y then decide (x.1 ≤ y.1) else old x
  else if x.2.age ≠ y.2.age then decide (y.2.age.toNat < x.2.age.toNat)
  else if x.2.born ≠ y.2.born then decide (x.2.born.toNat < y.2.born.toNat)
  else decide (x.1 ≤ y.1)

/-- One entry for a cause and a stream, written once, in the record of the launch bound to the model (R260, R308). -/
def warnOnce (t n : Nat) (cause : Cause) (sid : Nat) (value : Word) (s : State) : State :=
  if (s.tenant t).warned.contains (cause.code, sid) then s
  else record n { cause := cause, value := value } (s.modTenant t (fun x => { x with warned := x.warned ++ [(cause.code, sid)] }))

/-- REFCNT of a table's frame would pass 65,535 on some core (R260). -/
def countsFull (s : State) (t : Nat) (cores : List Nat) (pos : Nat × Nat) : Bool :=
  cores.any (fun c => (tableFrames (s.dev t).vault c pos).any (fun f => fmRef ((s.coreOf t c).frame f) == 65535))

/-- Every frame that a table maps has one more reference, and is copied at the next store (R260 step 3). -/
def shareFrames (t c : Nat) (pos : Nat × Nat) (s : State) : State :=
  (tableFrames (s.dev t).vault c pos).foldl (fun s f => s.modCoreOf t c (fun k =>
    let e := k.frame f
    k.setFrame f (mkFm (fmPage e) (fmPv e) (fmV e) (fmW e) true (fmRsv e) (fmTenant e) (fmHolder e) (fmCapv e) (fmRef e + 1)))) s

/-- A table's entries copied to a new position, their reserved bits zero (R7, R260 step 2). -/
def copyTable (c : Nat) (new old : Nat × Nat) (v : Memory) : Memory :=
  v.writeBytes (tableAddr c new)
    ((List.range 128).flatMap (fun j => natLe 2 (v.readNat (tableAddr c old + 2 * j) 2 % 512)))

/-- The five steps of R260 once a free position has been taken. DEDUCED, log entry 84. -/
def moveTable (t g : Nat) (x : Desc) (old new : Nat × Nat) (s : State) : State :=
  let model := x.model.toNat
  let cores := groupCores s t model g
  let s := s.modDev t (fun d => { d with vault := cores.foldl (fun v c => copyTable c new old v) d.vault })
  let s := cores.foldl (fun s c => shareFrames t c new s) (setCount t (tableKey model g new) 1 s)
  let s := setCount t (tableKey model g old) ((s.dev t).counts.get (tableKey model g old) 0 - 1) s
  devWrite t x.home.toNat (x.segrec + BitVec.ofNat 20 (4 * g)) (natLe 4 (new.1 + new.2 * 256 + 4096)) s

/-- The table position that a stream's batch-list entry names, its table unshared where it is shared; none where the stream
is left out of the batch (R260). -/
def placeStream (t n g : Nat) (p : Nat × Desc) (s : State) : Option (Nat × Nat) × State :=
  match rootEntry s t p.2 g with
  | none => (none, s)
  | some pos =>
    let model := p.2.model.toNat
    if (s.dev t).counts.get (tableKey model g pos) 0 ≤ 1 then (some pos, s)
    else if countsFull s t (groupCores s t model g) pos then
      (none, warnOnce t n .refcountSaturated p.1 (BitVec.ofNat 64 p.1) s)
    else match newPosition t model g s with
      | none => (none, s)
      | some (new, s) => (some new, moveTable t g p.2 pos new s)

/-- Up to `b` streams of an ordered list placed in the batch: stream, frame, slot. DEDUCED, log entry 107. -/
def fillBatch (t n g : Nat) : Nat → List (Nat × Desc) → State → List (Nat × Nat × Nat) × State
  | _, [], s => ([], s)
  | 0, _, s => ([], s)
  | b + 1, p :: rest, s =>
    match placeStream t n g p s with
    | (none, s) => fillBatch t n g (b + 1) rest s
    | (some pos, s) =>
      let (xs, s) := fillBatch t n g b rest s
      ((p.1, pos.1, pos.2) :: xs, s)

/-- The first free work-ring entry of a core (R226). DESIGN CHOICE, log entry 151. -/
def freeEntry (k : TCore) : Option Nat := (List.range 4).find? (fun i => (k.packets.find i).isNone)

/-- The 64 bytes of a packet from its template (Table 2.12); the reserved half of word 1 is written as zero (R7). -/
def packetBytes (tmpl : List Word) (model g n i : Nat) (issued : Word) (seq : BitVec 32) : List Byte :=
  natLe 8 (model + g * 2 ^ 8 + n * 2 ^ 16 + (0x7C000 + 2048 * i) * 2 ^ 32) ++
    natLe 8 (bitsOf (tmpl.getD 1 0#64).toNat 0 32) ++
    (List.range 4).flatMap (fun j => natLe 8 (tmpl.getD (j + 2) 0#64).toNat) ++ natLe 8 issued.toNat ++ natLe 8 seq.toNat

/-- A batch's packet and batch list written to one core of its group (R53, R225). -/
def writePacket (t model g : Nat) (m : Model) (xs : List (Nat × Nat × Nat)) (c : Nat) (s : State) : State :=
  match freeEntry (s.coreOf t c) with
  | none => s
  | some i =>
    let seq := (s.coreOf t c).packSeq
    let tmpl := m.templates.get g []
    let entries := (xs ++ List.replicate (256 - xs.length) (0, 0, 0)).flatMap
      (fun (x : Nat × Nat × Nat) => natLe 8 (x.1 + x.2.1 * 2 ^ 20 + x.2.2 * 2 ^ 28))
    let s := s.modDev t (fun d => { d with
      ctl := (d.ctl.writeBytes (ctlAddr c (2048 * i)) entries).writeBytes (ctlAddr c (0x3200 + 64 * i))
        (packetBytes tmpl model g xs.length i s.phase seq) })
    s.modCoreOf t c (fun k => { k with
      packets := k.packets.set i { launch := m.launch, model := model, group := g, sids := xs.map (·.1), issued := s.phase, seq := seq }
      packSeq := seq + 1#32 })

/-- AGE after a compute-phase start: 0 for a stream that joined, one more for each other one that waited (R224). -/
def ageStreams (t : Nat) (waited joined : List Nat) (s : State) : State :=
  s.modDev t (fun d => { d with streams := d.streams.map (fun p =>
    if joined.contains p.1 then (p.1, { p.2 with age := 0#16 })
    else if waited.contains p.1 && p.2.age != 65535#16 then (p.1, { p.2 with age := p.2.age + 1#16 })
    else p) })

/-- At most one batch for a layer group (R225). -/
def batchGroup (t model : Nat) (m : Model) (g : Nat) (s : State) : State :=
  let l := s.launchOf m.launch
  let cores := groupCores s t model g
  let waits := (s.dev t).streams.filter (streamWaits (s.dev t) model g)
  let ok (p : Nat × Desc) : Bool := p.2.features &&& ~~~l.feats == 0#32
  let s := (waits.filter (fun p => !ok p)).foldl (fun s p =>
    warnOnce t m.launch .feature p.1 (p.2.features.setWidth 64) s) s
  let mine := sortBy (batchBefore (tenantDet s t) m.a) (waits.filter ok)
  let due := l.live && cores.all (fun c => (freeEntry (s.coreOf t c)).isSome) &&
    (decide (m.bmin ≤ waits.length) || waits.any (fun p => decide (m.a ≤ p.2.age.toNat)))
  let (xs, s) := if due then fillBatch t m.launch g m.b mine s else ([], s)
  let s := if xs.isEmpty then s else cores.foldl (fun s c => writePacket t model g m xs c s) s
  ageStreams t (waits.map (·.1)) (xs.map (·.1)) s

/-- The Campanile's work for a tenant at a compute-phase start. -/
def batches (t : Nat) (s : State) : State :=
  (s.tenant t).models.foldl (fun s m => (List.range m.2.groups).foldl (fun s g => batchGroup t m.1 m.2 g s) s) s

/-! ### Dispatch (R45, R221, R222, R236) -/

/-- The effective allowance of a compute phase, taken at its start (R45). -/
def setAllowance (t c : Nat) (s : State) : State :=
  let r := (reserveOf s t c).length
  s.modCoreOf t c (fun k => { k with used := 0, allow := min k.limit r, allowRes := decide (r < k.limit) })

/-- Continuations taken by the slots that stay free. -/
def takeConts (t c : Nat) : Nat → State → State
  | 0, s => s
  | n + 1, s => match takeCont t c s with
    | none => s
    | some s' => takeConts t c n s'

/-- One core at a compute-phase start: handlers, packets, arrivals of level 0, continuations. -/
def startCore (t c : Nat) (s : State) : State :=
  let s := dispatchHandlers t c ((s.coreOf t c).waiting + 1) (setAllowance t c s)
  let s := dispatchPackets t c s
  let s := dispatchLevel0 t c ((s.coreOf t c).waiting + 1) s
  takeConts t c (s.coreOf t c).deque.length s

/-- A tenant that runs begins a compute phase. -/
def startCompute (t : Nat) (s : State) : State :=
  let s := s.modTenant t (fun x => { x with seed := x.seedNext.getD x.seed, seedNext := none })
  let s := batches t (takePending t (resumeStopped t (startLaunchThreads t s)))
  (tenantCores s t).foldl (fun s c => startCore t c s) s

/-- A tenant that runs begins an exchange phase: arrivals of levels 1 to 3 are dispatched (R222). -/
def startExchange (t : Nat) (s : State) : State :=
  let s := takePending t (resumeStopped t s)
  (tenantCores s t).foldl (fun s c => dispatchHandlers t c ((s.coreOf t c).waiting + 1) s) s

/-! ### The states of Table 10.1 at a phase start -/

/-- Every die is below 90 degrees (R390). -/
def coolEnough (s : State) : Bool := s.dies.all (fun d => decide (d.2.temp < 90))

/-- The hold of a tenant has been released: the debug hold, the replica's halt, the thermal hold (R357, R365, R390). -/
def holdOver (s : State) (t : Nat) : Bool :=
  let tn := s.tenant t
  (!tn.draining || tn.release) && (!(tn.replica.any (·.halted)) || tn.release) && (!tn.thermal || coolEnough s)

/-- A tenant whose hold is over leaves it at a compute-phase start; one that is to go on in an exchange phase sits this
phase out. DEDUCED, log entry 23. -/
def leaveHold (t : Nat) (s : State) : State :=
  match (s.tenant t).phase with
  | .held e =>
    if s.exchange || !holdOver s t then s
    else s.modTenant t (fun x => { x with
      phase := .sitout e, draining := false, release := false, thermal := false, captures := []
      replica := x.replica.map (fun r => { r with misses := 0, halted := false }) })
  | _ => s

/-- A tenant that sits out runs again in a phase of its kind (R213); no capture outlives its hold (R355). -/
def leaveSitout (t : Nat) (s : State) : State :=
  match (s.tenant t).phase with
  | .sitout e => if e = s.exchange then s.modTenant t (fun x => { x with phase := .run, captures := [] }) else s
  | _ => s

/-- The start of a phase for a tenant. One that sits the phase out, or is held, has no batch, and AGE stands (R224).
DEDUCED, log entry 142. -/
def startPhaseOf (t : Nat) (s : State) : State :=
  let s := leaveSitout t (leaveHold t s)
  if (s.tenant t).phase ≠ .run then s
  else if s.exchange then startExchange t s else startCompute t s

/-- The next phase opens: admissions, then every tenant's start. -/
def openPhase (s : State) : State :=
  let s := admissions s
  { s.tenants.foldl (fun s p => startPhaseOf p.1 s) s with opening := false }

end Sys2Proof.Machine
end

