-- ==== Sys2Proof/Machine/Phase.lean ====
section
/-! DEFINITION. The phase beat: when a boundary begins, what it does, and the end of a budget (spec/01_machine.md R18,
R19; spec/10_progress.md R208 to R215; spec/18_recovery.md R364, R366; spec/20_device.md R376). -/

namespace Sys2Proof.Machine

/-! ### Arrival (R208, R213) -/

/-- A tenant takes part in the phase. -/
def participates (s : State) (t : Nat) : Bool :=
  !(s.liveLaunches t).isEmpty && match (s.tenant t).phase with
    | .held _ | .away => false
    | _ => true

/-- What an exchange phase of a tenant has still to carry before it can commit: messages not yet tried, updates not yet
applied, capability and count messages, rounds (R175, R208, R219, R271, R278). DEDUCED, log entry 19. -/
def exchangeDone (s : State) (t : Nat) : Bool :=
  let d := s.dev t
  d.cores.all (fun k => k.2.updates.isEmpty && k.2.sendq.all (fun m => m.tried == some s.phase)) &&
    d.capMsgs.all (·.done) && d.raises.isEmpty && d.releases.isEmpty && d.finSubs.isEmpty && d.joinSubs.isEmpty &&
    d.seqs.all (fun q => q.2.subs.isEmpty)

/-- The partner's flit for the commit that comes has arrived (R364). -/
def Replica.heard (r : Replica) : Bool := r.partner.any (fun q => q.1 == r.ordinal)

/-- A replica counts as arrived only with its partner's flit for the same commit, when its own has gone (R364). -/
def partnerKnown (s : State) (t : Nat) : Bool :=
  match (s.tenant t).replica with
  | none => true
  | some r => r.heard && r.sent

/-- No Finial work of the tenant is open in an exchange phase (R271). -/
def finialDone (s : State) (t : Nat) : Bool := !s.exchange || (s.dev t).finSubs.isEmpty && (s.dev t).joinSubs.isEmpty

/-- A tenant has arrived, or counts as arrived (R208, R210, R213, R271). -/
def tenantArrived (s : State) (t : Nat) : Bool :=
  match (s.tenant t).phase with
  | .run => coresArrived s t && finialDone s t && partnerKnown s t
  | .voiding false => coresArrived s t && finialDone s t
  | _ => true

/-- What an exchange phase has still to do for a tenant: its own work where it runs, and where it sits the phase out or is held
the messages that could be received (R219, R356). A tenant without a live launch has its release messages to send (R267,
R338). DEDUCED, log entry 19. -/
def exchangeOver (s : State) (t : Nat) : Bool :=
  !s.exchange || match (s.tenant t).phase with
    | .run => exchangeDone s t
    | .sitout _ | .held _ => (s.dev t).cores.all (fun k => k.2.sendq.all (fun m => m.tried == some s.phase))
    | _ => true

/-- A command that begins a boundary when no tenant takes part (R212, R376; for all but LAUNCH the model's choice).
DESIGN CHOICE, log entry 22. -/
def opensBoundary (c : HostCmd) : Bool :=
  c.op == 0#8 || c.op == 2#8 || c.op == 4#8 || c.op == 8#8

/-- A launch that waits for its slots can start (R229). -/
def launchStarts (s : State) : Bool :=
  decide ((waitingLaunches (startLaunches (waitingLaunches s) [] s)).length < (waitingLaunches s).length)

/-- A ready stream admission finds a free descriptor on its die (R229). -/
def streamStarts (s : State) : Bool :=
  (tasksReady s 1).any (fun q => match (s.dev q.2.1).tasks.find q.2.2 with
    | none => false
    | some x => (freeSid s (bitsOf (x.recs.getD 1 0#64).toNat 56 2)).isSome)

/-- Without a participant a boundary begins when something is ready to start (R212). DESIGN CHOICE, log entry 22. -/
def boundaryWanted (s : State) : Bool :=
  s.host.cmds.any opensBoundary || launchStarts s || !(tasksReady s 0).isEmpty || streamStarts s ||
    s.tenants.any (fun p => match p.2.phase with
      | .held _ => holdOver s p.1
      | _ => false)

/-- A boundary begins (R19, R211, R212). -/
def boundaryDue (s : State) : Bool :=
  let ps := (s.tenants.map (·.1)).filter (participates s)
  s.powered && s.started && (if ps.isEmpty then boundaryWanted s else ps.all (tenantArrived s)) &&
    s.tenants.all (fun p => exchangeOver s p.1)

/-! ### The boundary (Table 1.3, R376) -/

/-- PREEMPT and HOLD are taken when they are fetched (R376). -/
def urgent (c : HostCmd) : Bool := c.op == 1#8 || c.op == 3#8

/-- The commands of a boundary, in increasing queue number and in ring order. -/
def takeDue (s : State) : State :=
  let due := sortBy (fun a b => decide (a.queue ≤ b.queue)) (s.host.cmds.filter (fun c => !urgent c))
  { s with host := { s.host with due := due, cmds := s.host.cmds.filter urgent }, opening := true }

/-- PHASE_BOUNDARY: the commit, then the host's commands one by one, then the next phase opens. -/
def execPhaseBoundary (s : State) : Out :=
  if s.opening then .next (if s.host.due.isEmpty then openPhase s else s)
  else if !boundaryDue s then .next s
  else
    let s := takeDue (closePhase s)
    .next (if s.host.due.isEmpty then openPhase s else s)

/-! ### The end of a budget (R210, R214, R366) -/

/-- Slots of a core that have not arrived. DEDUCED, log entry 21. -/
def lateSlots (k : TCore) : List Nat := (liveSlots k).filter (fun n => !(k.slot n).hasArrived)

/-- Slots of a launch on a core that have not arrived, or whose operations hold the core back. -/
def lateOf (n : Nat) (k : TCore) : List Nat :=
  sortedSet ((lateSlots k).filter (fun i => (k.slot i).top.launch == n) ++
    (k.mq.filter (fun o => o.launch == n)).map (·.slot) ++
    (k.cq.filter (fun o => (k.slot o.slot).launchAt o.level == n)).map (·.slot) ++
    (k.xq.filter (fun o => o.ctx.launch == n)).map (·.slot) ++ (k.port.filter (fun o => o.ctx.launch == n)).map (·.slot) ++
    (k.links.filter (fun o => (k.slot o.slot).launchAt o.level == n)).map (·.slot))

/-- TRAPAUX of a budget trap on a core (Table 10.2; bit 7 names a silent partner, R366). -/
def budgetAux (silent : Bool) (k : TCore) : Word :=
  BitVec.ofNat 64 (4 + k.hasArrived.toNat * 2 ^ 6 + silent.toNat * 2 ^ 7 +
    (lateSlots k).foldl (fun v n => v + 2 ^ (16 + n)) 0)

/-- STRAGGLER or EXCH_TIMEOUT. -/
def budgetCause (s : State) : Cause := if s.exchange then .exchTimeout else .straggler

/-- The entry of a launch: its lowest core that is held back, and the lowest such slot there (R210). Where no core is late,
but the Finial's work (R271), a replica's flit or its partner's, every live launch has an entry for the slot that takes the trap on its lowest core
(R214, R351). No trap follows where the tenant drains (R354). DEDUCED, log entry 21. -/
def budgetEntry (t : Nat) (silent : Bool) (n : Nat) (s : State) : State :=
  let cs := sortedSet (s.launchOf n).cores
  let entry (c slot : Nat) : State :=
    record n { cause := budgetCause s, core := c, slot := slot, deferred := !(s.tenant t).draining, value := s.phase,
               aux := budgetAux silent (s.coreOf t c) } s
  match cs.find? (fun c => !(lateOf n (s.coreOf t c)).isEmpty), cs with
  | some c, _ => entry c ((lateOf n (s.coreOf t c)).headD 0)
  | none, c :: _ => if coresArrived s t then entry c ((liveSlots (s.coreOf t c)).headD 0) else s
  | none, [] => s

/-- The operations of a straggler are abandoned (R210). -/
def abandonOps (k : TCore) : TCore := { k with mq := [], cq := [], xq := [], links := [], port := [] }

/-- BUDGET_EXPIRY: a tenant that has not arrived becomes a straggler; one that drains takes no trap (R354).
DEDUCED, log entry 21, 25. DESIGN CHOICE, log entry 7. -/
def execBudgetExpiry (t : Nat) (s : State) : Out :=
  if !participates s t || !(s.tenant t).phase.issues || tenantArrived s t || s.opening then .next s
  else
    let silent := (s.tenant t).replica.any (fun r => !r.heard)
    let s := (s.liveLaunches t).foldl (fun s n => budgetEntry t silent n s) s
    let traps : List PendTrap := if (s.tenant t).draining then [] else (tenantCores s t).map (fun c =>
      { core := c, slot := 0, cause := budgetCause s, val := s.phase, aux := budgetAux silent (s.coreOf t c), rank := 4 })
    let s := s.modTenant t (fun x => { x with phase := .voiding true, traps := x.traps ++ traps })
    .next (s.modDev t (fun d => { d with cores := d.cores.map (fun k => (k.1, abandonOps k.2)) }))

/-! ### Replicas (R364) -/

/-- A replica that would otherwise have arrived: its cores have, and an exchange phase has nothing more to carry; its flit
has not gone, and its port is up (R385). -/
def flitDue (s : State) (t : Nat) : Bool :=
  (s.tenant t).replica.any (fun r => !r.sent && (s.ports.get r.port {}).up) && (s.tenant t).phase == .run &&
    participates s t && coresArrived s t &&
    exchangeOver s t && !s.opening

/-- The flit of a replica leaves its port (R364). DESIGN CHOICE, log entry 15. -/
def sendFlit (t : Nat) (s : State) : State :=
  match (s.tenant t).replica with
  | none => s
  | some r =>
    if !flitDue s t then s
    else
      let p := s.ports.get r.port {}
      { s.modTenant t (fun x => { x with replica := some { r with sent := true } }) with
        ports := s.ports.set r.port { p with sent := replicaFlit r.ordinal s.exchange (phaseDigest s t) :: p.sent } }

/-- REPLICA_FLIT: the partner's flit for a commit arrives on the channel of the pair, for the tenant that its end names, behind
those that no boundary has used: an attempt is compared with the partner's attempt, never with its re-run (R364). A flit for a
commit that this replica has made, sent again after a void of the partner alone, is not compared. DEDUCED, log entry 39, 112. -/
def execReplicaFlit (far : FarEnd) (ordinal : BitVec 64) (exchange : Bool) (sum : BitVec 64) (s : State) : Out :=
  let t := far.ftid
  match (s.tenant t).replica with
  | none => .next s
  | some r =>
    let p := s.ports.get r.port {}
    let pair := match p.chans.find far.chan with
      | none => false
      | some ch => ch.repl && ch.meets far
    if !p.up || !pair then .next s
    else if ordinal.toNat < r.ordinal.toNat then .next (s.flitGood r.port)
    else .next ((s.flitGood r.port).modTenant t (fun x => { x with
      replica := some { r with partner := r.partner ++ [(ordinal, exchange, sum)] } }))

end Sys2Proof.Machine
end

