-- ==== Sys2Proof/Machine/SlhDsa.lean ====
section
/-! DEFINITION. SLH-DSA-SHA2-128s, pure form with an empty context string (FIPS 205): the check by which the Keep accepts a
firmware image, and its signature under the identity key (spec/01_machine.md R27; spec/15_isolation.md R314, R315). -/

namespace Sys2Proof.Machine

/-- An address of FIPS 205: layer, tree, type and the three words after it. -/
structure SlhAdrs where
  layer : Nat := 0
  tree  : Nat := 0
  kind  : Nat := 0
  word1 : Nat := 0
  word2 : Nat := 0
  word3 : Nat := 0
  deriving DecidableEq, Repr

/-- The compressed address of the SHA-2 parameter sets, 22 bytes. -/
def SlhAdrs.bytes (a : SlhAdrs) : List Byte :=
  natBe 1 a.layer ++ natBe 8 a.tree ++ natBe 1 a.kind ++ natBe 4 a.word1 ++ natBe 4 a.word2 ++ natBe 4 a.word3

/-- F, H and T: the first 16 bytes of SHA-256 over the seed filled to 64 bytes, the address and the message. -/
def slhHash (seed : List Byte) (a : SlhAdrs) (m : List Byte) : List Byte :=
  (sha256 (seed ++ List.replicate 48 0#8 ++ a.bytes ++ m)).take 16

/-- `count` digits of `b` bits of a byte string, the most significant first. -/
def slhDigits (b count : Nat) (x : List Byte) : List Nat :=
  let v := beNat x
  (List.range count).map (fun i => v / 2 ^ (8 * x.length - b * (i + 1)) % 2 ^ b)

/-- The 16-byte values of a string. -/
def slhNodes (x : List Byte) : List (List Byte) := (List.range (x.length / 16)).map (fun i => (x.drop (16 * i)).take 16)

/-- `n` steps of a chain from step `i` on. -/
def slhChain (seed : List Byte) (a : SlhAdrs) : Nat → Nat → List Byte → List Byte
  | 0, _, x => x
  | n + 1, i, x => slhChain seed a n (i + 1) (slhHash seed { a with word3 := i } x)

/-- What a one-time signature signs: 32 digits of the message and 3 of its checksum. -/
def wotsDigits (m : List Byte) : List Nat :=
  let ds := slhDigits 4 32 m
  ds ++ slhDigits 4 3 (natBe 2 (ds.foldl (fun n d => n + (15 - d)) 0 * 16))

/-- The public key of a one-time signature. -/
def wotsKey (seed : List Byte) (a : SlhAdrs) (sig : List (List Byte)) (m : List Byte) : List Byte :=
  let ends := ((wotsDigits m).zip sig).zipIdx.map (fun p =>
    slhChain seed { a with kind := 0, word2 := p.2 } (15 - p.1.1) p.1.1 p.1.2)
  slhHash seed { a with kind := 1, word2 := 0, word3 := 0 } ends.flatten

/-- The root above a node by its path: the address names each parent by its height and index. -/
def slhClimb (seed : List Byte) (a : SlhAdrs) : Nat → Nat → List Byte → List (List Byte) → List Byte
  | _, _, node, [] => node
  | h, i, node, x :: rest =>
    let pair := if i % 2 = 0 then node ++ x else x ++ node
    slhClimb seed a (h + 1) (i / 2) (slhHash seed { a with word2 := h + 1, word3 := i / 2 } pair) rest

/-- The root of one tree of the hypertree: a one-time signature of 35 values and a path of 9. -/
def xmssRoot (seed : List Byte) (a : SlhAdrs) (leaf : Nat) (sig : List (List Byte)) (m : List Byte) : List Byte :=
  let key := wotsKey seed { a with word1 := leaf } (sig.take 35) m
  slhClimb seed { a with kind := 2, word1 := 0 } 0 leaf key (sig.drop 35)

/-- The root of the hypertree from layer `layer` on: `n` layers of 44 values. -/
def hyperRoot (seed : List Byte) : Nat → Nat → Nat → Nat → List (List Byte) → List Byte → List Byte
  | 0, _, _, _, _, m => m
  | n + 1, layer, tree, leaf, sig, m =>
    hyperRoot seed n (layer + 1) (tree / 512) (tree % 512) (sig.drop 44)
      (xmssRoot seed { layer := layer, tree := tree } leaf (sig.take 44) m)

/-- The public key of the few-time signature: 14 trees of height 12, each a secret value and a path. -/
def forsKey (seed : List Byte) (a : SlhAdrs) (sig : List (List Byte)) (md : List Byte) : List Byte :=
  let roots := (slhDigits 12 14 md).zipIdx.map (fun p =>
    let part := (sig.drop (13 * p.2)).take 13
    let i := p.2 * 4096 + p.1
    let leaf := slhHash seed { a with kind := 3, word2 := 0, word3 := i } (part.headD [])
    slhClimb seed { a with kind := 3 } 0 i leaf (part.drop 1))
  slhHash seed { a with kind := 4, word2 := 0, word3 := 0 } roots.flatten

/-- What a message selects under a public key and a randomizer: what the few-time trees sign, the tree of the lowest layer and
its leaf. -/
def slhDigest (key r msg : List Byte) : List Byte × Nat × Nat :=
  let inner := sha256 (r ++ key ++ [0#8, 0#8] ++ msg)
  let digest := (sha256 (r ++ key.take 16 ++ inner ++ natBe 4 0)).take 30
  (digest.take 21, beNat ((digest.drop 21).take 7) % 2 ^ 54, beNat (digest.drop 28) % 2 ^ 9)

/-- A signature of 7,856 bytes is one of the message under a public key of 32 bytes. DEDUCED, log entry 100. -/
def slhVerify (key msg sig : List Byte) : Bool :=
  let seed := key.take 16
  let root := key.drop 16
  let (md, tree, leaf) := slhDigest key (sig.take 16) msg
  let values := slhNodes (sig.drop 16)
  let pk := forsKey seed { tree := tree, word1 := leaf } (values.take 182) md
  sig.length == 7856 && hyperRoot seed 7 0 tree leaf (values.drop 182) pk == root

/-! ### Signing -/

/-- A key pair: the two secret seeds and the public one, 16 bytes each. -/
structure SlhKey where
  secret : List Byte
  prf    : List Byte
  seed   : List Byte
  deriving DecidableEq, Repr

/-- A value of the secret key. -/
def SlhKey.value (k : SlhKey) (a : SlhAdrs) : List Byte := slhHash k.seed a k.secret

/-- HMAC-SHA-256 under a key of at most 64 bytes. -/
def hmac256 (key msg : List Byte) : List Byte :=
  let block := key ++ List.replicate (64 - key.length) 0#8
  sha256 (block.map (fun b => b ^^^ 0x5C#8) ++ sha256 (block.map (fun b => b ^^^ 0x36#8) ++ msg))

/-- A node of a tree by its height and index, over leaves that `leaf` gives. -/
def slhNode (seed : List Byte) (a : SlhAdrs) (leaf : Nat → List Byte) : Nat → Nat → List Byte
  | 0, i => leaf i
  | h + 1, i => slhHash seed { a with word2 := h + 1, word3 := i }
      (slhNode seed a leaf h (2 * i) ++ slhNode seed a leaf h (2 * i + 1))

/-- The path of a leaf: the sibling of each node below the root. -/
def slhPath (seed : List Byte) (a : SlhAdrs) (leaf : Nat → List Byte) (height i : Nat) : List (List Byte) :=
  (List.range height).map (fun h => slhNode seed a leaf h (if i / 2 ^ h % 2 = 0 then i / 2 ^ h + 1 else i / 2 ^ h - 1))

/-- A one-time signature: each chain as far as its digit. -/
def wotsSign (k : SlhKey) (a : SlhAdrs) (m : List Byte) : List (List Byte) :=
  (wotsDigits m).zipIdx.map (fun p =>
    slhChain k.seed { a with kind := 0, word2 := p.2 } p.1 0 (k.value { a with kind := 5, word2 := p.2, word3 := 0 }))

/-- A leaf of a tree of the hypertree: the public key of its one-time signature, every chain at its end. -/
def xmssLeaf (k : SlhKey) (a : SlhAdrs) (i : Nat) : List Byte :=
  let a := { a with word1 := i }
  slhHash k.seed { a with kind := 1, word2 := 0, word3 := 0 } ((List.range 35).flatMap (fun j =>
    slhChain k.seed { a with kind := 0, word2 := j } 15 0 (k.value { a with kind := 5, word2 := j, word3 := 0 })))

/-- A signature of one tree of the hypertree: a one-time signature and the path of its leaf. -/
def xmssSign (k : SlhKey) (a : SlhAdrs) (leaf : Nat) (m : List Byte) : List (List Byte) :=
  wotsSign k { a with word1 := leaf } m ++ slhPath k.seed { a with kind := 2, word1 := 0 } (xmssLeaf k a) 9 leaf

/-- A signature of the hypertree from layer `layer` on. -/
def hyperSign (k : SlhKey) : Nat → Nat → Nat → Nat → List Byte → List (List Byte)
  | 0, _, _, _, _ => []
  | n + 1, layer, tree, leaf, m =>
    let a : SlhAdrs := { layer := layer, tree := tree }
    let sig := xmssSign k a leaf m
    sig ++ hyperSign k n (layer + 1) (tree / 512) (tree % 512) (xmssRoot k.seed a leaf sig m)

/-- A few-time signature: of each tree the secret value of its leaf and the path. -/
def forsSign (k : SlhKey) (a : SlhAdrs) (md : List Byte) : List (List Byte) :=
  let value (i : Nat) : List Byte := k.value { a with kind := 6, word2 := 0, word3 := i }
  let leaf (i : Nat) : List Byte := slhHash k.seed { a with kind := 3, word2 := 0, word3 := i } (value i)
  (slhDigits 12 14 md).zipIdx.flatMap (fun p =>
    let i := p.2 * 4096 + p.1
    value i :: slhPath k.seed { a with kind := 3 } leaf 12 i)

/-- The public key, 32 bytes: the public seed and the root of the topmost tree. -/
def SlhKey.public (k : SlhKey) : List Byte :=
  k.seed ++ slhNode k.seed { layer := 6, kind := 2 } (xmssLeaf k { layer := 6 }) 9 0

/-- The signature of a message, 7,856 bytes, with 16 random bytes. DEDUCED, log entry 100. -/
def slhSign (k : SlhKey) (random msg : List Byte) : List Byte :=
  let r := (hmac256 k.prf (random ++ [0#8, 0#8] ++ msg)).take 16
  let (md, tree, leaf) := slhDigest k.public r msg
  let a : SlhAdrs := { tree := tree, word1 := leaf }
  let fors := forsSign k a md
  r ++ (fors ++ hyperSign k 7 0 tree leaf (forsKey k.seed a fors md)).flatten

end Sys2Proof.Machine
end

