-- ==== Sys2Proof/Machine/Host.lean ====
section
/-! DEFINITION. The host's commands, its registers and its window (spec/20_device.md R373 to R382, R384; spec/15_isolation.md
R295, R299, R315; spec/18_recovery.md R345, R347, R354, R357, R365). -/

namespace Sys2Proof.Machine

/-! ### Commands (R376, R379) -/

/-- The command of the boundary that comes first, if it has the code `op`, is acted on. -/
def onDue (op : Nat) (f : HostCmd → State → State) (s : State) : Out :=
  match s.host.due with
  | [] => .next s
  | c :: rest =>
    if s.opening && c.op == BitVec.ofNat 8 op then .next (f c { s with host := { s.host with due := rest } }) else .next s

/-- The first fetched command with the code `op`, which is taken when it is fetched. -/
def onFetched (op : Nat) (f : HostCmd → State → State) (s : State) : Out :=
  match s.host.cmds.find? (fun c => c.op == BitVec.ofNat 8 op) with
  | none => .next s
  | some c => .next (f c { s with host := { s.host with cmds := s.host.cmds.erase c } })

/-- A command for an existing tenant; of any other it is refused. -/
def forTenant (c : HostCmd) (s : State) (f : Nat → State → State) : State :=
  match cmdTenant s c with
  | none => answer c 2 s
  | some t => if (s.tenants.find t).isNone then answer c 2 s else f t s

/-- A command done, or refused with nothing changed. -/
def answerIf (c : HostCmd) (ok : Bool) (done s : State) : State := if ok then answer c 0 done else answer c 2 s

/-- Commands that only the PF may issue (Table 20.3). -/
def pfOnly (op : BitVec 8) : Bool := decide (9 ≤ op.toNat) && decide (op.toNat ≤ 14)

/-- QTAIL_DOORBELL (R376): only the owner of a queue writes its registers (R374). -/
def execQtailDoorbell (fn queue : Nat) (tail : BitVec 16) (s : State) : Out :=
  let q := s.host.queues.get queue {}
  if 64 ≤ queue || q.owner != fn || !s.started || !s.powered then .next s
  else .next { s with host := { s.host with queues := s.host.queues.set queue { q with tail := tail } } }

/-- QUEUE_ENTRY_FETCH (R376, R388): HEAD goes on; an entry that no one may issue, or any while start-up has failed,
completes as malformed. -/
def execQueueEntryFetch (queue : Nat) (s : State) : Out :=
  match s.host.queues.find queue with
  | none => .next s
  | some q =>
    if !q.en || q.head == q.tail || !s.powered then .next s
    else
      let ws := wordsOf (s.hostMem.readBytes (q.base.toNat * 4096 + q.head.toNat % 2 ^ q.logn * 64) 64)
      let w := ws.getD 0 0#64
      let c : HostCmd := { op := w.extractLsb' 0 8, fn := q.owner, queue := queue, tid := (w.extractLsb' 8 6).toNat,
                           crec := ws.getD 1 0#64, args := ws.drop 2 }
      let s := { s with host := { s.host with queues := s.host.queues.set queue { q with head := q.head + 1#16 } } }
      if 15 ≤ c.op.toNat || (q.owner != 0 && pfOnly c.op) || !s.started then .next (answer c 3 s)
      else .next { s with host := { s.host with cmds := s.host.cmds ++ [c] } }

/-- LAUNCH: presented for the admissions of this boundary, for the tenant that it acts for as its turn comes (R297, R376). -/
def execLaunch (s : State) : Out :=
  onDue 0 (fun c s => { s with
    presented := s.presented ++ [(c, (cmdTenant s c).filter (fun t => (s.tenants.find t).isSome))] }) s

/-! ### Tenants and bindings (R295, R299, R373, R384) -/

/-- CREATE (R295). -/
def execCreate (s : State) : Out :=
  onDue 9 (fun c s => answerIf c (s.tenants.find c.tid).isNone
    { s with tenants := s.tenants.set c.tid {}, cur := s.cur.set c.tid {}, com := s.com.set c.tid {} } s) s

/-- A tenant may be destroyed: no live launch, descriptor, sequence or task entry. -/
def mayDestroy (s : State) (t : Nat) : Bool :=
  let d := s.old t
  !hasLaunch s t && !s.presented.any (fun c => c.2 == some t) && d.streams.all (fun p => p.2.state == 0#2) &&
    d.seqs.isEmpty && d.tasks.isEmpty

/-- All that a tenant holds is released and cleared; no leaf counts its state pages any more (R302), and its commands that
can take no effect are refused. -/
def destroy (t : Nat) (s : State) : State :=
  let pages : List Nat := match (s.tenant t).root with
    | none => []
    | some root => ((leavesOf s t 3 root 0).filter (fun (p : Nat × Nat) => bitOf p.2 5)).map (fun p => bitsOf p.2 12 29)
  let s := (s.tenant t).debugWrites.foldl (fun s w => answer w.1 2 s) ((s.tenant t).holdCmds.foldl (fun s c => answer c 2 s) s)
  { s with
    pageCnt := s.pageCnt.filter (fun (p : Nat × Nat) => !pages.contains p.1)
    tenants := s.tenants.del t, cur := s.cur.del t, com := s.com.del t, saves := s.saves.del t
    images := s.images.filter (fun v => v.tid != t)
    keys := s.keys.filter (fun k => k.2.owner != some t) }

/-- DESTROY (R295). -/
def execDestroy (s : State) : Out :=
  onDue 10 (fun c s => forTenant c s (fun t s => answerIf c (mayDestroy s t) (destroy t s) s)) s

/-- BINDVF (R373). DEDUCED, log entry 148. -/
def execBindvf (s : State) : Out :=
  onDue 11 (fun c s =>
    let vf := bitsOf (c.arg 0) 0 7
    let t := bitsOf (c.arg 0) 8 6
    if vf = 0 ∨ 64 < vf then answer c 3 s
    else if bitOf (c.arg 0) 15 then answer c 0 { s with host := { s.host with vf := s.host.vf.del vf } }
    else answerIf c (s.tenants.find t).isSome { s with host := { s.host with vf := s.host.vf.set vf t } } s) s

/-- A channel's binding removed; a replica pair ends with it. -/
def unbindChannel (port chan : Nat) (s : State) : State :=
  let p := s.ports.get port {}
  match p.chans.find chan with
  | none => s
  | some x =>
    let s := { s with ports := s.ports.set port { p with chans := p.chans.del chan, waiting := p.waiting.filter (fun w => w.1 != chan) } }
    if x.repl then s.modTenant x.ltid (fun t => { t with replica := none }) else s

/-- A channel bound to a tenant, which is a replica where REPL is set; what the channel was bound to ends (Table 20.7).
DEDUCED, log entry 112. -/
def bindChannel (port chan : Nat) (x : Channel) (s : State) : State :=
  let s := unbindChannel port chan s
  let p := s.ports.get port {}
  let s := { s with ports := s.ports.set port { p with chans := p.chans.set chan x } }
  if x.repl then s.modTenant x.ltid (fun t => { t with replica := some { port := port } }) else s

/-- BINDLINK (R384): a tenant holds at most one channel of a port. DEDUCED, log entry 112, 148. -/
def execBindlink (s : State) : Out :=
  onDue 12 (fun c s =>
    let a := c.arg 0
    let port := bitsOf a 0 4
    let chan := bitsOf a 8 4
    let x : Channel := { ltid := bitsOf a 16 6, ftid := bitsOf a 24 6, repl := bitOf a 32, fser := c.args.getD 1 0#64 }
    let other := (s.ports.get port {}).chans.any (fun p => p.1 != chan && p.2.ltid == x.ltid)
    if 12 ≤ port then answer c 3 s
    else if bitOf a 33 then answer c 0 (unbindChannel port chan s)
    else answerIf c ((s.tenants.find x.ltid).isSome && !other) (bindChannel port chan x s) s) s

/-- IMPORTKEY (R376): refused unless IDE protects the link. DESIGN CHOICE, log entry 101. -/
def execImportkey (s : State) : Out :=
  onDue 13 (fun c s => forTenant c s (fun t s =>
    answerIf c (Config.ideProtected s.tick)
      (s.modTenant t (fun x => { x with importKey := some (ofBytes256 ((c.args.take 4).flatMap (fun w => natLe 8 w.toNat))) })) s)) s

/-! ### Models (R259, R379) -/

/-- REGISTER. DEDUCED, log entry 148. -/
def execRegister (s : State) : Out :=
  onDue 6 (fun c s => forTenant c s (fun t s =>
    match s.hbmRead t (c.arg 0) 512 with
    | none => answer c 3 s
    | some bs => match modelOfRecord s t (wordsOf bs) with
      | none => answer c 2 s
      | some (m, x) => answer c 0 (s.modTenant t (fun y => { y with models := y.models.set m x })))) s

/-- UNREGISTER. -/
def execUnregister (s : State) : Out :=
  onDue 7 (fun c s => forTenant c s (fun t s =>
    let m := bitsOf (c.arg 0) 0 8
    answerIf c (((s.tenant t).models.find m).isSome && !modelUsed s t m) (applyUnregister t m s) s)) s

/-! ### Attestation (R315) -/

/-- The report of Table 15.7, of the tenant as of its last commit. -/
def attestReport (s : State) (t : Nat) (nonce : List Byte) : List Byte :=
  let tn := s.tenant t
  natLe 8 1 ++ natLe 8 Config.serial.toNat ++ bytes256 s.fwChain ++ bytes256 s.sysChain ++ bytes256 tn.chain ++ nonce ++
    natLe 8 (t % 64 + tn.system.toNat * 2 ^ 8 + ((s.liveLaunches t).all (fun n => (s.launchOf n).det)).toNat * 2 ^ 9) ++
    natLe 8 (s.old t).digest.toNat ++ natLe 8 tn.committed.toNat ++ natLe 4 tn.permit.toNat ++ natLe 4 0xFFFFF ++
    natLe 4 (s.keys.filter (fun k => k.2.owner == some t)).length ++ List.replicate 76 0#8

/-- ATTEST: the Keep takes the request and builds the report. -/
def execAttest (s : State) : Out :=
  onDue 5 (fun c s => forTenant c s (fun t s =>
    let x : Attest := { cmd := c, report := attestReport s t (s.hostMem.readBytes (c.arg 0) 32) }
    { s with host := { s.host with attests := s.host.attests ++ [x] } })) s

/-- The device identity key. DESIGN CHOICE, log entry 4. -/
def identityKey : SlhKey :=
  let bytes (i : Nat) : List Byte := (List.range 16).map (fun j => Config.identitySeedByte (16 * i + j))
  { secret := bytes 0, prf := bytes 1, seed := bytes 2 }

/-- ATTESTATION_REPORT_DONE: the report and its signature under the identity key reach the host; the oldest request first. -/
def execAttestationReportDone (s : State) : Out :=
  match s.host.attests with
  | [] => .next s
  | x :: rest =>
    let sig := slhSign identityKey (natLe 16 (Config.signRandom s.tick).toNat) x.report
    let s := { s with hostMem := s.hostMem.writeBytes (x.cmd.arg 1) (x.report ++ sig), host := { s.host with attests := rest } }
    .next (complete x.cmd.crec x.cmd.queue 0 0 0 0#64 8112#64 s)

/-! ### Debug hold (R354, R357, R365, R381) -/

/-- A tenant is in hold. -/
def isHeld (s : State) (t : Nat) : Bool :=
  match (s.tenant t).phase with
  | .held _ => true
  | _ => false

/-- HOLD: the slots of the launch stop, each at its next instruction boundary, and the tenant drains. DEDUCED, log entry 25. -/
def execHold (s : State) : Out :=
  onFetched 3 (fun c s => forTenant c s (fun t s =>
    let n := bitsOf (c.arg 0) 0 12
    let l := s.launchOf n
    if (s.launches.find n).isNone || !l.live || l.tid != t || (s.tenant t).phase == .away then answer c 2 s
    else
      let s := (s.modLaunch n (fun l => { l with debugger := true })).modTenant t (fun x => { x with
        draining := true, stopping := if isHeld s t then x.stopping else addOnce n x.stopping
        holdCmds := x.holdCmds ++ [c] })
      if isHeld s t then answerHolds t s else s)) s

/-- RELEASE: the hold ends at the next compute-phase start. -/
def execRelease (s : State) : Out :=
  onDue 4 (fun c s => forTenant c s (fun t s =>
    let tn := s.tenant t
    answerIf c (tn.draining || tn.replica.any (·.halted)) (s.modTenant t (fun x => { x with release := true })) s)) s

/-- DEBUG (R381): held tenants only; a write completes when it has taken effect, at the tenant's commit (R379).
DEDUCED, log entry 26. -/
def execDebug (s : State) : Out :=
  onDue 8 (fun c s => forTenant c s (fun t s =>
    let w := c.args.getD 1 0#64
    let len := bitsOf (c.arg 2) 32 16
    let bs := s.hostMem.readBytes (c.arg 0) len
    if !isHeld s t then answer c 2 s
    else if !targetOk w len then answer c 3 s
    else if !targetOwned s t (targetOf w) then answer c 2 s
    else if !bitOf (c.arg 2) 0 then answer c 0 { s with hostMem := s.hostMem.writeBytes (c.arg 0) (debugRead s t w len) }
    else if debugRefused s (targetOf w) bs then answer c 2 s
    else s.modTenant t (fun x => { x with debugWrites := x.debugWrites ++ [(c, bs)] }))) s

/-! ### Registers of BAR0 (R374, R382) -/

/-- A queue's QBASE and QCTL as a function writes them; OWNER is the PF's.
DEDUCED, log entry 14. DESIGN CHOICE, log entry 12. -/
def writeQueue (fn q reg : Nat) (v : Word) (s : State) : State :=
  let x := s.host.queues.get q {}
  let own := x.owner == fn
  let put (y : LQueue) : State := { s with host := { s.host with queues := s.host.queues.set q y } }
  let owner := if fn = 0 then (v.extractLsb' 16 7).toNat else x.owner
  if reg = 0 then (if own then put { x with base := v.extractLsb' 12 52 } else s)
  else if reg = 8 then
    let logn := (v.extractLsb' 0 4).toNat
    if own then put { x with logn := if logn < 4 ∨ 12 < logn then 4 else logn, en := v.getLsbD 8, owner := owner
                             vec := v.extractLsb' 32 11 }
    else if fn = 0 then put { x with owner := owner } else s
  else s

/-- BAR0_REGISTER_WRITE: the offsets of WINBASE, WINTENANT, WINERR and EVENTS, and those inside a queue's block, are this
model's. DESIGN CHOICE, log entry 12. -/
def execBar0RegisterWrite (fn : Nat) (off : BitVec 24) (value : BitVec 64) (s : State) : Out :=
  let o := off.toNat
  if !s.started || !s.powered then .next s
  else if 0x1000 ≤ o ∧ o < 0x2000 then .next (writeQueue fn ((o - 0x1000) / 64) (o % 64) value s)
  else if o = 0x100 then
    .next { s with host := { s.host with winBase := s.host.winBase.set fn (value.extractLsb' 32 16) } }
  else if o = 0x108 ∧ fn = 0 then .next { s with host := { s.host with winTenant := value.extractLsb' 0 6 } }
  else if o = 0x110 then
    let clear (x : BitVec 32) : BitVec 32 := x &&& ~~~(value.extractLsb' 0 32)
    .next { s with host := { s.host with winErr := s.host.winErr.upd fn 0#32 clear } }
  else if o = 0x118 ∧ fn = 0 then
    .next { s with host := { s.host with events := s.host.events &&& ~~~(value.extractLsb' 0 4) } }
  else .next s

/-- The matrix ceiling in force on a die, in sixteenths (R29, R390). -/
def Die.inForce (d : Die) : Nat := min d.theta d.arbiter

/-- Eight bytes of the identity public key, and of its certificate, as BAR0 shows them. -/
def identityWord (i : Nat) : Word := BitVec.ofNat 64 (leNat ((identityKey.public.drop (8 * i)).take 8))
def certificateWord (i : Nat) : Word :=
  BitVec.ofNat 64 (leNat ((List.range 8).map (fun j => Config.certificateByte (8 * i + j))))

/-- A register of a queue's block as a function reads it: in a block that it does not own only OWNER, which is a P field
(R374). DESIGN CHOICE, log entry 12. -/
def readQueue (x : LQueue) (own : Bool) (reg : Nat) : Word :=
  let owner := x.owner % 2 ^ 7 * 2 ^ 16
  BitVec.ofNat 64 (
    if reg = 8 then (if own then x.logn + x.en.toNat * 2 ^ 8 + owner + x.vec.toNat * 2 ^ 32 else owner)
    else if !own then 0
    else if reg = 0 then x.base.toNat * 2 ^ 12 else if reg = 16 then x.tail.toNat else if reg = 24 then x.head.toNat else 0)

/-- What the PF alone reads: EVENTS, STARTSTATUS, LOSTOVF, the dies, the stacks, the identity key and its certificate
(R382, R387). DESIGN CHOICE, log entry 12. -/
def readPf (s : State) (o : Nat) : Word :=
  let h := s.host
  if o = 0x118 then h.events.setWidth 64
  else if o = 0x120 then (h.startCode ++ h.startStep).setWidth 64
  else if o = 0x128 then h.lostOvf.setWidth 64
  else if 0x200 ≤ o ∧ o < 0x280 then
    let d := s.dies.get ((o - 0x200) / 32) {}
    match o % 32 with
    | 0 => BitVec.ofNat 64 d.temp
    | 8 => BitVec.ofNat 64 d.inForce
    | 16 => (h.cupolaErrs.get ((o - 0x200) / 32) 0#32).setWidth 64
    | 24 => BitVec.ofNat 64 d.wear
    | _ => 0#64
  else if 0x300 ≤ o ∧ o < 0x380 ∧ o % 8 = 0 then (h.hbmErrs.get ((o - 0x300) / 8) 0#32).setWidth 64
  else if 0x400 ≤ o ∧ o < 0x420 ∧ o % 8 = 0 then identityWord ((o - 0x400) / 8)
  else if 0x2000 ≤ o ∧ o < 0x3000 ∧ o % 8 = 0 then certificateWord ((o - 0x2000) / 8)
  else 0#64

/-- A read of BAR0 by a function, eight bytes at an offset: it changes nothing, and has no event of its own. No function is
answered while core power is off, and none but the PF while start-up has not completed (R374, R382, R388).
DESIGN CHOICE, log entry 12. -/
def bar0Read (s : State) (fn : Nat) (off : BitVec 24) : Option Word :=
  let o := off.toNat
  if !s.powered || (!s.started && fn != 0) then none
  else if 0x1000 ≤ o ∧ o < 0x2000 then
    let x := s.host.queues.get ((o - 0x1000) / 64) {}
    some (readQueue x (x.owner == fn) (o % 64))
  else if o = 0x100 then some ((s.host.winBase.get fn 0#16).setWidth 64 <<< 32)
  else if o = 0x108 then some (s.host.winTenant.setWidth 64)
  else if o = 0x110 then some ((s.host.winErr.get fn 0#32).setWidth 64)
  else some (if fn = 0 then readPf s o else 0#64)

/-! ### The window (R375) -/

/-- The tenant that a function's window addresses. -/
def windowTenant (s : State) (fn : Nat) : Option Nat := if fn = 0 then some s.host.winTenant.toNat else s.host.vf.find fn

/-- The virtual address of an offset in a function's window. -/
def windowAddr (s : State) (fn : Nat) (off : BitVec 32) : Nat := (s.host.winBase.get fn 0#16).toNat * 2 ^ 32 + off.toNat

/-- WINDOW_READ: the committed bytes, or Unsupported Request. -/
def execWindowRead (fn : Nat) (off : BitVec 32) (len : Nat) (s : State) : Out :=
  let data := if !s.started || !s.powered then none
    else (windowTenant s fn).bind (fun t => s.hbmRead t (windowAddr s fn off) len)
  .next { s with host := { s.host with readData := data } }

/-- Bytes that a function's window buffer holds; it takes up to 16 MiB. -/
def buffered (s : State) (fn : Nat) : Nat :=
  (s.host.winBuf.filter (fun w => w.fn == fn)).foldl (fun n w => n + w.data.length) 0

/-- A piece of a window write within one line: held, or applied. DEDUCED, log entry 47. -/
def windowPut (s : State) (fn t va : Nat) (data : List Byte) : State :=
  if participates s t then
    { s with host := { s.host with winBuf := s.host.winBuf ++ [{ fn := fn, tid := t, va := va, data := data }] } }
  else s.hbmWrite t va data

/-- WINDOW_WRITE: what lies in an unmapped page is dropped; the rest is held for the commit of a tenant that takes part,
applied at once for another; none comes from a function whose buffer is full (R375). DEDUCED, log entry 47. -/
def execWindowWrite (fn : Nat) (off : BitVec 32) (data : List (BitVec 8)) (s : State) : Out :=
  if !s.started || !s.powered then .next s
  else match windowTenant s fn with
    | none => .next (dropWrite fn s)
    | some t =>
      let va := windowAddr s fn off
      if 2 ^ 24 ≤ buffered s fn || (participates s t && decide (2 ^ 24 < buffered s fn + data.length)) then .next s
      else
        let ps := piecesOf va data.length
        let good := ps.filter (fun p => (s.hbmRead t (va + p.1) p.2).isSome)
        let s := if good.length < ps.length then dropWrite fn s else s
        .next (good.foldl (fun s p => windowPut s fn t (va + p.1) ((data.drop p.1).take p.2)) s)

end Sys2Proof.Machine
end

