-- ==== Sys2Proof/Machine/Save.lean ====
section
/-! DEFINITION. Pre-emption, the context image, and restore (spec/18_recovery.md R345, R347 to R350). -/

namespace Sys2Proof.Machine

/-! ### The context image (Tables 18.4 and 18.5) -/

/-- Bytes filled with zeros to `n`. -/
def padTo (n : Nat) (bs : List Byte) : List Byte := (bs ++ List.replicate (n - bs.length) 0#8).take n

/-- `n` words, each in 8 bytes. -/
def wordBytes (n : Nat) (f : Nat → Word) : List Byte := (List.range n).flatMap (fun i => natLe 8 (f i).toNat)

/-- The state word of a thread, as at 0x1A8. -/
def stateWord (x : Slot) (th : Thread) : Nat :=
  let stop := match th.status with
    | .stopped _ => true
    | _ => false
  let idle := match th.status with
    | .idle n | .held n => n
    | _ => 0
  x.amask.toNat + x.h.toNat * 2 ^ 3 + th.level % 4 * 2 ^ 4 + th.origin % 4 * 2 ^ 6 + x.lane % 16 * 2 ^ 8 +
    th.live.toNat * 2 ^ 12 + th.join.isSome.toNat * 2 ^ 13 + (th.join.getD 0) % 32 * 2 ^ 14 + stop.toNat * 2 ^ 19 +
    idle % 65536 * 2 ^ 20

/-- A handler level's 80 bytes; zeros where no thread is at the level. -/
def levelBytes (x : Slot) (lv : Nat) : List Byte :=
  match x.handlers.find? (fun h => h.level == lv) with
  | none => List.replicate 80 0#8
  | some h => natLe 8 h.pc.toNat ++ natLe 8 (stateWord x h) ++ wordBytes 8 (fun i => h.g.get (i + 1) 0#64)

/-- A slot record (Table 18.5); `s` holds the saved state as current. -/
def slotBytes (s : State) (t c n : Nat) : List Byte :=
  let s := { s with actor := { tid := t, core := c, slot := n } }
  let x := s.slotHere
  let csr (i : Nat) : List Byte := natLe 8 ((csrValue s i).getD 0#64).toNat
  padTo 0x200 (natLe 8 0 ++ wordBytes 31 (fun i => x.thread.g.get (i + 1) 0#64) ++ natLe 8 x.thread.pc.toNat ++
    wordBytes 8 (fun i => x.sh.get i 0#64) ++ natLe 8 x.thread.stream.toNat ++ natLe 8 x.trapvec.toNat ++ csr 0x020 ++ csr 0x040 ++
    natLe 8 x.epoch.toNat ++ csr 0x00A ++ csr 0x010 ++ csr 0x011 ++ csr 0x012 ++ csr 0x013 ++ csr 0x008 ++ csr 0x009 ++
    natLe 8 (stateWord x x.thread)) ++
  padTo 0x200 (levelBytes x 1 ++ levelBytes x 2 ++ levelBytes x 3)

/-- ALLOW.LIMIT, the shares and the counts of a core, 8 bytes each; their order in the 256 bytes is the model's.
DESIGN CHOICE, log entry 16. -/
def shareBytes (k : TCore) : List Byte :=
  let x := k.share
  padTo 256 ([k.limit, x.slots.toNat, x.acc.toNat, x.q.toNat, x.ring.toNat, x.sem.toNat, x.arrq, x.sendq, x.deq, x.tlb, x.ct,
    x.walk, x.spill, x.reserve, k.seq.toNat, k.spawns, k.spillTail - k.spill.length, k.spillTail].flatMap (natLe 8))

/-- A continuation in 64 bytes; their order is the model's. DESIGN CHOICE, log entry 16. -/
def Cont.bytes (x : Cont) : List Byte :=
  natLe 8 x.pc.toNat ++ wordBytes 4 (fun i => x.g.getD i 0#64) ++ natLe 8 x.stream.toNat ++ natLe 8 x.trapvec.toNat ++
    natLe 8 (x.launch + match x.join with
      | none => 0
      | some n => 2 ^ 12 + n * 2 ^ 13)

/-- The frame-map entry of a frame in the image: at level 1 its CAPV is 0, its holder kept. -/
def imageEntry (level : Nat) (e : Word) : Word := if level = 1 then fmSetCap e none else e

/-- A core section (Table 18.4). -/
def coreImage (s : State) (t level c : Nat) : List Byte :=
  let k := s.coreOf t c
  let fs := (k.fm.filter (fun p => fmV p.2 && fmTenant p.2 == t)).map (·.1)
  padTo 0x40 (natLe 8 c) ++ (List.range 16).flatMap (slotBytes s t c) ++
    (List.range 32).flatMap (fun i => natLe 4 (k.sems.get i 0#32).toNat) ++ wordBytes 16 (fun i => k.rings.get i 0#64) ++
    shareBytes k ++ padTo 2048 (k.deque.flatMap Cont.bytes) ++ padTo 5120 (k.sendq.flatMap (Message.bytes t)) ++
    padTo 8192 (k.arrq.flatMap (fun m => padTo 128 (m.bytes t))) ++
    wordBytes 256 (fun f => if fs.contains f then imageEntry level (k.frame f) else 0#64) ++
    (if level = 1 then fs.flatMap (fun f => (s.dev t).vault.readBytes (vaultAddr c f 0) 4096) else [])

/-- The cores of a save: those in the masks of its launches. -/
def savedCores (v : Saved) : List Nat := sortedSet (v.launches.flatMap (fun p => p.2.cores))

/-- The context image (Table 18.4): each live launch has 8 bytes, its descriptor's address in [47:0] and its number in [59:48].
DESIGN CHOICE, log entry 16. -/
def contextImage (s : State) (v : Saved) : List Byte :=
  let cs := savedCores v
  let s := { s with cur := s.cur.set v.tid v.dev, com := s.com.set v.tid v.dev }
  padTo 0x40 (natLe 8 (v.tid + v.level * 2 ^ 8 + v.exchange.toNat * 2 ^ 9 + cs.length * 2 ^ 16) ++ natLe 8 v.phase.toNat ++
    natLe 8 v.dev.digest.toNat ++ natLe 8 v.launches.length) ++
  padTo 4032 (padTo 512 (v.launches.flatMap (fun p => natLe 8 (p.2.desc.toNat % 2 ^ 48 + p.1 % 4096 * 2 ^ 48)))) ++
  cs.flatMap (coreImage s v.tid v.level)

/-! ### Pre-emption (R345, R347) -/

/-- Kind of the phase that a tenant runs next. -/
def nextKind (s : State) (t : Nat) : Bool :=
  match (s.tenant t).phase with
  | .sitout e | .held e => e
  | _ => s.exchange

/-- The bytes of the context image of a tenant (Table 18.4). -/
def imageSize (s : State) (t level : Nat) : Nat :=
  (tenantCores s t).foldl (fun n c => n + 0x8640 +
    (if level = 1 then 4096 * (((s.old t).core c).fm.filter (fun p => fmV p.2 && fmTenant p.2 == t)).length else 0)) 4096

/-- A save area that the device refuses: one that reaches the reserved region or a page that some tenant maps or holds in a
pool (R348, R373). DEDUCED, log entry 37. -/
def areaRefused (s : State) (area bytes : Nat) : Bool :=
  let first := area / 4096
  let n := (area + bytes + 4095) / 4096 - first
  reservedPfn (first + n - 1) || pageMapped s first n || pagePooled s first n

/-- The tenant stops, its phase is voided, and its committed state is to be saved with the captures of a debug hold (R345,
R347). DEDUCED, log entry 37. -/
def preempt (c : Option HostCmd) (area level t : Nat) (s : State) : State :=
  let exchange := nextKind s t
  let s := if isHeld s t then s else voidState t s
  let s := (s.tenant t).halted.foldl (fun s n => completeLaunch n (s.modLaunch n (fun l => { l with failed := true }))) s
  let s := (s.tenant t).holdCmds.foldl (fun s c => answer c 2 s) s
  let s := s.modTenant t (fun x => { x with
    phase := .away, halted := [], traps := [], trapped := [], draining := false, stopping := [], release := false
    thermal := false, holdCmds := []
    replica := x.replica.map (fun r => { r with
      sent := false, halted := false, misses := if r.halted then 0 else r.misses }) })
  let v : Saved := { tid := t, level := level, area := area, exchange := exchange, phase := (s.tenant t).committed,
                     dev := s.old t, captures := (s.tenant t).captures, cmd := c
                     launches := s.launches.filter (fun p => p.2.live && p.2.tid == t) }
  { s.modTenant t (fun x => { x with captures := [] }) with saves := s.saves.set t v }

/-- A tenant that is being pre-empted or has been saved: a second request has no effect (R347). -/
def savedAlready (s : State) (t : Nat) : Bool :=
  (s.saves.find t).isSome && !hasLaunch s t || (s.tenant t).phase == .away

/-- A request of the Keep (R345): it has no completion record. DEDUCED, log entry 37. -/
def keepPreempt (t area level : Nat) (s : State) : State :=
  if (s.tenants.find t).isNone || savedAlready s t || areaRefused s area (imageSize s t (level % 2)) || s.opening then s
  else preempt none area (level % 2) t s

/-- PREEMPT: a second request for a tenant that is being pre-empted or has been saved has no effect (R347).
DEDUCED, log entry 37. -/
def execPreempt (s : State) : Out :=
  onFetched 1 (fun c s => forTenant c s (fun t s =>
    let level := c.arg 1 % 2
    if savedAlready s t then answer c 0 s
    else if areaRefused s (c.arg 0) (imageSize s t level) then answer c 2 s
    else preempt (some c) (c.arg 0) level t s)) s

/-! ### The save (R348) -/

/-- A core of which the save is complete: at level 0 its frames are held for the tenant, at level 1 nothing is left. -/
def leftCore (level : Nat) (k : TCore) : Option TCore := if level = 0 then some { fm := k.fm, tframes := k.tframes } else none

/-- What is left in place of a tenant whose context has been saved. -/
def leftDev (v : Saved) (d : TenantDev) : TenantDev :=
  { d with
    cores := d.cores.filterMap (fun k => (leftCore v.level k.2).map (fun x => (k.1, x)))
    vault := if v.level = 0 then d.vault else []
    ctl := [], toStart := [] }

/-- The save of a tenant: the image under the table key, its launches no longer live, and the completion record; what the image
stands for is kept beside it, for whoever restores it. DEDUCED, log entry 37. -/
def saveContext (v : Saved) (s : State) : State :=
  let key := s.material (s.tenant v.tid).tableKey
  let done := { v with complete := true, image := contextImage s v }
  let s := s.hbmPuts key v.area done.image
  let s := v.launches.foldl (fun s p => s.modLaunch p.1 (fun l => { l with live := false })) s
  let s := modBoth v.tid (leftDev v) { s with saves := s.saves.set v.tid done, images := done :: s.images }
  answerSome v.cmd 0 (s.modTenant v.tid (fun x => { x with phase := .run }))

/-- CONTEXT_SAVE_COMPLETE: the first save that is not yet complete. -/
def execContextSaveComplete (s : State) : Out :=
  match s.saves.find? (fun p => !p.2.complete) with
  | none => .next s
  | some p => .next (saveContext p.2 s)

/-! ### Restore (R350) -/

/-- Nothing that a saved core needs is held by another tenant, and its share passes no total. -/
def coreFits (s : State) (t : Nat) (q : Nat × TCore) : Bool :=
  let x := q.2.share
  let xs := otherShares s t q.1
  xs.all (fun y => y.slots &&& x.slots == 0#16 && y.acc &&& x.acc == 0#8 && y.q &&& x.q == 0#4 &&
    y.ring &&& x.ring == 0#16 && y.sem &&& x.sem == 0#32) &&
  decide (totalOf (·.arrq) xs + x.arrq ≤ 64) && decide (totalOf (·.sendq) xs + x.sendq ≤ 64) &&
  decide (totalOf (·.deq) xs + x.deq ≤ 32) && decide (totalOf (·.tlb) xs + x.tlb ≤ 64) &&
  decide (totalOf (·.ct) xs + x.ct ≤ 16) &&
  q.2.fm.all (fun e => !fmV e.2 || s.cur.all (fun d => d.1 == t || !fmV ((d.2.core q.1).frame e.1)))

/-- A saved context may come back. DEDUCED, log entry 37. -/
def mayRestore (s : State) (v : Saved) : Bool :=
  !hasLaunch s v.tid && v.dev.cores.all (coreFits s v.tid) &&
    (sortedSet (v.dev.cores.map (fun k => dieOf k.1))).all (fun die =>
      decide ((s.cur.filter (fun d => d.1 != v.tid)).foldl (fun n d => n + walkersOf d.2 die) 0 + walkersOf v.dev die ≤ 96))

/-- A core as its image has it: the banks of levels without a thread are zero (Table 18.5). DEDUCED, log entry 26. -/
def TCore.imaged (k : TCore) : TCore := { k with slots := k.slots.map (fun p => (p.1, { p.2 with banks := [] })) }

/-- A saved launch is live again. What its fault record has taken in since the save was asked for stays in the record's counts,
which no pre-emption touches (R342, R343). DEDUCED, log entry 37. -/
def relaunch (s : State) (n : Nat) (l : Launch) : Launch :=
  let now := match s.launches.find n with
    | some x => if x.tid == l.tid && x.frec == l.frec then x else l
    | none => l
  { l with live := true, written := now.written, dropped := now.dropped, failed := now.failed }

/-- The saved context is current and committed again, with the digest and the PHASE of its last commit (Table 18.4); the tenant
runs in the first phase of the kind saved. At level 0 its frames hold what stands in the vaults (R348).
DESIGN CHOICE, log entry 16. -/
def restore (v : Saved) (s : State) : State :=
  let s := modBoth v.tid (fun d => { d with
    cores := v.dev.cores.map (fun k => (k.1, k.2.imaged)), vault := if v.level = 0 then d.vault else v.dev.vault
    ctl := v.dev.ctl, toStart := v.dev.toStart, digest := v.dev.digest }) s
  let s := v.launches.foldl (fun s p => { s with launches := s.launches.set p.1 (relaunch s p.1 p.2) }) s
  { s.modTenant v.tid (fun x => { x with
      phase := .sitout v.exchange, captures := v.captures, committed := v.phase }) with saves := s.saves.del v.tid }

/-- The context of a tenant whose image the device reads at an address, through the table key; none where no image of the tenant
stands there. DEDUCED, log entry 37. -/
def imageAt (s : State) (t area : Nat) : Option Saved :=
  s.images.find? (fun v => v.tid == t &&
    s.hbmBytes (s.material (s.tenant t).tableKey) area v.image.length == v.image)

/-- RESTORE: the host names the image by its address, however often it has been restored; where none stands there the command is
malformed. DEDUCED, log entry 37. -/
def execRestore (s : State) : Out :=
  onDue 2 (fun c s => forTenant c s (fun t s =>
    match imageAt s t (c.arg 0) with
    | none => answer c 3 s
    | some v => answerIf c (mayRestore s v) (restore v s) s)) s

end Sys2Proof.Machine
end

