-- ==== Sys2Proof/Machine/Device.lean ====
section
/-! DEFINITION. The device's own agents: refresh, ceilings, temperature, the patrol, wear, the ports, start-up
(spec/01_machine.md R29, R30; spec/07_ordering.md R157, R158; spec/15_isolation.md R305, R314; spec/18_recovery.md R359 to
R362, R367; spec/20_device.md R383, R385 to R388, R390). -/

namespace Sys2Proof.Machine

/-! ### Refresh (R157, R158) -/

/-- Key of a bank group: its stack and its number there. DESIGN CHOICE, log entry 46. -/
def groupKey (stack group : Nat) : Nat := stack * 65536 + group

def modGroup (stack group : Nat) (f : BankGroup → BankGroup) (s : State) : State :=
  { s with banks := s.banks.upd (groupKey stack group) {} f }

/-- A refresh falls due at a bank: the ninth that is postponed forces one of the whole group (R157).
DESIGN CHOICE, log entry 126. -/
def refreshBank (bank : Nat) (queued postpone : Bool) (g : BankGroup) : BankGroup :=
  let n := g.postponed.get bank 0
  if 8 ≤ n then { g with postponed := [], forced := true }
  else if (queued && postpone) || g.busyBank.isSome || g.forced then { g with postponed := g.postponed.set bank (n + 1) }
  else { g with busyBank := some bank }

/-- REFRESH_DUE: whether the bank has queued requests, and whether the controller then postpones, come with the event. -/
def execRefreshDue (stack group bank : Nat) (queued postpone : Bool) (s : State) : Out :=
  .next (modGroup stack group (refreshBank bank queued postpone) s)

/-- POSTPONED_REFRESH_ISSUE: a postponed refresh begins where none is in progress in the group. -/
def execPostponedRefreshIssue (stack group bank : Nat) (s : State) : Out :=
  .next (modGroup stack group (fun g =>
    let n := g.postponed.get bank 0
    if n = 0 || g.busyBank.isSome || g.forced then g
    else { g with postponed := g.postponed.set bank (n - 1), busyBank := some bank }) s)

/-- REFRESH_COMPLETE: the group, or the bank, is released. -/
def execRefreshComplete (stack group bank : Nat) (s : State) : Out :=
  .next (modGroup stack group (fun g =>
    if g.forced then { g with forced := false, busyBank := none }
    else if g.busyBank = some bank then { g with busyBank := none } else g) s)

/-! ### Ceilings and temperature (R29, R30, R390) -/

def modDie (die : Nat) (f : Die → Die) (s : State) : State := { s with dies := s.dies.upd die {} f }

/-- The arbiter's ceiling of a die: below 16 only while the current exceeds 6,000 A, and never below 12. -/
def ceiling (amps c : Nat) : Nat := if amps ≤ 6000 then 16 else max 12 (min 16 c)

/-- ARBITER_INTERVAL: the measured current and the ceilings asked for come with the event. -/
def execArbiterInterval (amps c0 c1 c2 c3 : Nat) (s : State) : Out :=
  .next (([c0, c1, c2, c3].zipIdx).foldl (fun s p => modDie p.2 (fun d => { d with arbiter := ceiling amps p.1 }) s) s)

/-- One interval of a die's thermal control that ends at a temperature. -/
def heat (t : Nat) (d : Die) : Die :=
  { d with
    temp := t
    theta := if 95 < t then max 4 (d.theta - 1) else if t < 92 then min 16 (d.theta + 1) else d.theta
    hot := if 105 ≤ t then d.hot + 1 else 0 }

/-- THERMAL_INTERVAL: each die's temperature at the end of a 1 µs interval. -/
def execThermalInterval (t0 t1 t2 t3 : Nat) (s : State) : Out :=
  .next (([t0, t1, t2, t3].zipIdx).foldl (fun s p => modDie p.2 (heat p.1) s) s)

/-- THERMAL_HOLD: a die has stayed at 105 degrees for ten intervals; every tenant is held at the next boundary.
DEDUCED, log entry 24. -/
def execThermalHold (die : Nat) (s : State) : Out :=
  if (s.dies.get die {}).hot < 10 || (!s.tenants.isEmpty && s.tenants.all (fun p => p.2.thermal)) then .next s
  else .next (raiseEvent 1 { s with tenants := s.tenants.map (fun p => (p.1, { p.2 with thermal := true })) })

/-! ### What outlives a loss of power, and start-up (R305, R314, R386 to R388) -/

/-- Everything is discarded but what lies outside the core rails: host memory, HBM cells, the Keep's list and figures.
DEDUCED, log entry 44. -/
def wiped (s : State) : State :=
  { agenda := s.agenda, tick := s.tick, draw := s.draw, hbm := s.hbm, hbmKey := s.hbmKey, hostMem := s.hostMem
    lostFrames := s.lostFrames, retiredFrames := s.retiredFrames, lostList := s.lostList, dies := s.dies.map (fun p => (p.1, { wear := p.2.wear }))
    host := { wearLow := s.host.wearLow }, started := false }

/-- THERMAL_TRIP: a sensor at 115 degrees removes core power. DEDUCED, log entry 44. -/
def execThermalTrip (die : Nat) (s : State) : Out :=
  if (s.dies.get die {}).temp < 115 then .next s else .next { wiped s with powered := false }

/-- The image key in the Keep's read-only store (R314). -/
def imageKey : List Byte := (List.range 32).map Config.imageKeyByte

/-- The images that the Keep measures, in boot order: those before the first whose signature does not verify (R314).
DEDUCED, log entry 42. -/
def goodImages (images : List Firmware) : List Firmware :=
  images.takeWhile (fun x => slhVerify imageKey x.image x.sig)

/-- The firmware chain over images, in boot order (R314). -/
def firmwareChain (images : List Firmware) : BitVec 256 :=
  images.foldl (fun m x => ofBytes256 (sha256 (bytes256 m ++ sha256 x.image))) 0#256

/-- The step at which a start-up fails, 0 where none does: the one that fails of itself, the third at a cold start only (Table
20.8), or the second where an image does not verify and the first has passed (R314, R388). DEDUCED, log entry 42. -/
def failsAt (cold : Bool) (env : StartEnv) : Nat :=
  let own := if 1 ≤ env.failStep ∧ env.failStep ≤ 6 ∧ (cold ∨ env.failStep ≠ 3) then env.failStep else 0
  if own ≠ 1 ∧ (goodImages env.images).length < env.images.length then 2 else own

/-- The steps of Table 20.8 up to the one that fails, if one does; `cold` tells the steps that only a cold start takes. A WARM
that asked for the start completes with it (R379, R388). DEDUCED, log entry 42, 45. -/
def startUp (cold : Bool) (env : StartEnv) (s : State) : State :=
  let bad := failsAt cold env
  let failed := decide (bad ≠ 0)
  let reached (step : Nat) : Bool := !failed || decide (step < bad)
  let s := { wiped s with host := { (wiped s).host with warming := s.host.warming } }
  let s := if reached 1 then { s with fwChain := firmwareChain (goodImages env.images) } else s
  let s := if cold && reached 3 then { s with lostFrames := [], retiredFrames := [] } else s
  let s := if cold && reached 4 then { s with lostList := s.lostList.filter (fun p => !env.lostPassed.contains p) } else s
  let s := if reached 5 then
      { s with keys := [(0, { material := Config.keyMaterial s.draw })], draw := s.draw + 1
               lostPages := s.lostList, retiredPages := s.lostList }
    else s
  let s := { s with
    started := !failed
    host := { s.host with
      startStep := BitVec.ofNat 8 (if failed then bad else 6)
      startCode := if failed then BitVec.ofNat 8 (max 1 (env.failCode % 256)) else 0#8 } }
  match s.host.warming with
  | none => s
  | some (c, fn, vec) =>
    completeTo c.crec fn vec (if failed then 3 else 0) 0 0 0#64 0#64 { s with host := { s.host with warming := none } }

/-- COLD_START: at power-on or a fundamental reset. -/
def execColdStart (env : StartEnv) (s : State) : Out := .next (startUp true env { s with host := { s.host with warming := none } })

/-- WARM_START: on a hot reset or after WARM; not where power is off or an earlier start has failed (R388, R390).
DEDUCED, log entry 45. -/
def execWarmStart (env : StartEnv) (s : State) : Out :=
  if !s.powered || s.host.startCode != 0#8 then .next s else .next (startUp false env s)

/-- WARM: all state is discarded, and the device takes the steps of a warm start, which completes the command (R379).
DEDUCED, log entry 45. -/
def execWarm (s : State) : Out :=
  onDue 14 (fun c s =>
    let q := s.host.queues.get c.queue {}
    { wiped s with host := { (wiped s).host with warming := some (c, q.owner, q.vec.toNat) } }) s

/-! ### The patrol (R359 to R362) -/

/-- A saturating count of 32 bits goes up. -/
def countUp (x : BitVec 32) : BitVec 32 := if x = BitVec.allOnes 32 then x else x + 1#32

/-- The tenant, if any, whose table of a kind lists an entry. -/
def ownerWith (s : State) (has : TenantDev → Bool) : Option Nat := (s.com.find? (fun d => has d.2)).map (·.1)

/-- The tenant that a vault frame belongs to, as committed. -/
def frameOwner (s : State) (c f : Nat) : Option Nat :=
  ownerWith s (fun d => fmV ((d.core c).frame f))

/-- A committed vault frame is revoked (R361). DEDUCED, log entry 40. -/
def loseFrame (c f : Nat) (s : State) : State :=
  let mark (xs : List (Nat × Nat)) : List (Nat × Nat) := if xs.contains (c, f) then xs else xs ++ [(c, f)]
  let s := { s with lostFrames := mark s.lostFrames, retiredFrames := mark s.retiredFrames }
  match frameOwner s c f with
  | none => s
  | some t => recordAll t { cause := .memLost, under := 2, core := c, value := BitVec.ofNat 64 (f * 4096) } s

/-- The page tables of a tenant below one, each with a virtual address that it translates. -/
def tablesOf (s : State) (t : Nat) : Nat → Nat → Nat → List (Nat × Nat)
  | 0, table, va => [(table, va)]
  | k + 1, table, va =>
    (table, va) :: (List.range 512).flatMap (fun i =>
      let e := s.tableEntry t table i
      if bitOf e 0 && !bitOf e 2 then tablesOf s t k (bitsOf e 12 29) (va + i * 2 ^ (21 + 9 * k)) else [])

/-- A page that holds a physical frame: its tenant, its first frame, its frames, a virtual address in it. -/
structure Held where
  tid   : Nat
  first : Nat
  count : Nat
  va    : Nat
  deriving DecidableEq, Repr

/-- Where a tenant has a physical frame: in a mapped page, as a table, or in its pool. -/
def heldBy (s : State) (p : Nat) (q : Nat × Tenant) : List Held :=
  let inside (first n : Nat) : Bool := decide (first ≤ p ∧ p < first + n)
  let pages : List Held := (q.2.root.toList.flatMap (fun r => leavesOf s q.1 3 r 0)).filterMap (fun x =>
    match s.walk q.1 x.1 with
    | .ok l =>
      let n := pageBytes l.size / 4096
      if inside l.pfn n then some { tid := q.1, first := l.pfn, count := n, va := x.1 } else none
    | _ => none)
  let tables : List Held := (q.2.root.toList.flatMap (fun r => tablesOf s q.1 3 r 0)).filterMap (fun x =>
    if inside x.1 2 then some { tid := q.1, first := x.1, count := 2, va := x.2 } else none)
  let pool : List Held := (s.old q.1).pool.filterMap (fun x =>
    if inside x.1 (x.2 / 4096) then some { tid := q.1, first := x.1, count := x.2 / 4096, va := 0 } else none)
  pages ++ tables ++ pool

/-- One physical frame enters the list, or is counted where the list is full (R387): once in a start. DEDUCED, log entry 40. -/
def listFrame (s : State) (p : Nat) : State :=
  if s.lostList.contains p || s.retiredPages.contains p then s
  else if s.lostList.length < 65536 then { s with lostList := s.lostList ++ [p] }
  else { s with host := { s.host with lostOvf := countUp s.host.lostOvf } }

/-- A physical page is revoked, with all its frames (R361). DEDUCED, log entry 40, 42. -/
def losePage (p : Nat) (s : State) : State :=
  let hs := s.tenants.flatMap (heldBy s p)
  let frames := match hs with
    | [] => [p]
    | h :: _ => (List.range h.count).map (h.first + ·)
  let mark (xs : List Nat) : List Nat := xs ++ frames.filter (fun x => !xs.contains x)
  let s := frames.foldl listFrame s
  let s := { s with lostPages := mark s.lostPages, retiredPages := mark s.retiredPages }
  let owners := hs.foldl (fun (xs : List Held) h => if xs.any (fun x => x.tid == h.tid) then xs else xs ++ [h]) []
  owners.foldl (fun s h => recordAll h.tid { cause := .memLost, under := 3, value := BitVec.ofNat 64 h.va } s) s

/-- The stream that a request names. -/
def StreamReq.sid : StreamReq → Nat
  | .advance n | .pop n | .reward n _ _ _ _ | .prune n | .migrate n _ _ _ _ _ _ => n
  | .fork n _ => n

/-- A tenant's device-structure entry is cleared and its launches end (R362). -/
def clearEntry (owner : Option Nat) (f : TenantDev → TenantDev) (s : State) : State :=
  match owner with
  | none => s
  | some t => modBoth t f (endLaunches t 4 0#64 s)

/-- A frame-map entry that belongs to no tenant is made anew: it reads as zero (R362). -/
def dropEntry (c f : Nat) (d : TenantDev) : TenantDev :=
  if (d.cores.find c).isSome then d.modCore c (fun k => { k with fm := k.fm.del f }) else d

/-- PATROL_SCRUB: what a patrol read finds. -/
def execPatrolScrub (found : ScrubFinding) (s : State) : Out :=
  .next (match found with
    | .corrected false i => { s with host := { s.host with cupolaErrs := s.host.cupolaErrs.upd i 0#32 countUp } }
    | .corrected true i => { s with host := { s.host with hbmErrs := s.host.hbmErrs.upd i 0#32 countUp } }
    | .uncommitted t addr => voidTenant t (recordAll t { cause := .memLost, value := addr } s)
    | .shadowBank t => endLaunches t 1 0#64 s
    | .vaultFrame c f => loseFrame c f s
    | .hbmPage p => losePage p s
    | .descriptor sid => clearEntry (ownerWith s (fun d => (d.streams.find sid).isSome)) (fun d => { d with
        streams := d.streams.del sid, reqs := d.reqs.filter (fun r => r.sid != sid) }) s
    | .taskEntry i => clearEntry (ownerWith s (fun d => (d.tasks.find i).isSome)) (fun d => { d with tasks := d.tasks.del i }) s
    | .sequence q => clearEntry (ownerWith s (fun d => (d.seqs.find q).isSome)) (fun d => { d with seqs := d.seqs.del q }) s
    | .frameMapEntry c f => if (frameOwner s c f).isSome then loseFrame c f s
        else { s with cur := s.cur.map (fun d => (d.1, dropEntry c f d.2)), com := s.com.map (fun d => (d.1, dropEntry c f d.2)) })

/-! ### Wear (R367) -/

/-- WEAR_SAMPLE: the predictions of the four dies, in months. -/
def execWearSample (m0 m1 m2 m3 : Nat) (s : State) : Out :=
  let ms := [m0, m1, m2, m3].map (min 65535)
  let s := (ms.zipIdx).foldl (fun s p => modDie p.2 (fun d => { d with wear := p.1 }) s) s
  if ms.any (fun m => decide (m < 6)) && !s.host.wearLow then
    .next (raiseEvent 0 { s with host := { s.host with wearLow := true } })
  else .next s

/-! ### The ports (R383, R385) -/

def modPort (port : Nat) (f : Port → Port) (s : State) : State := { s with ports := s.ports.upd port {} f }

/-- FLIT_CRC_REPLAY: a flit whose CRC failed is sent again; only time passes, and the port counts. DEDUCED, log entry 43. -/
def execFlitCrcReplay (port : Nat) (s : State) : Out :=
  if 12 ≤ port || !(s.ports.get port {}).up then .next s
  else .next (modPort port (fun p => { p with fails := p.fails + 1 }) s)

/-- The link transfers of a port stop where they are. DEDUCED, log entry 43. -/
def stopLinks (port : Nat) (d : TenantDev) : TenantDev :=
  { d with cores := d.cores.map (fun k => (k.1, { k.2 with
      links := k.2.links.map (fun l => if linkPort l.link = port then { l with stopped := true } else l) })) }

/-- The migrations over a port have failed, whenever it comes up again (R385). DEDUCED, log entry 43. -/
def failMoves (port : Nat) (d : TenantDev) : TenantDev :=
  { d with moves := d.moves.map (fun m => if m.port = port then { m with failed := true } else m) }

/-- PORT_DOWN: after 64 failed replays in a row. DEDUCED, log entry 43. -/
def execPortDown (port : Nat) (s : State) : Out :=
  let p := s.ports.get port {}
  if !p.up || p.fails < 64 then .next s
  else .next (modPort port (fun p => { p with up := false, fails := 0, waiting := [] })
    { s with cur := s.cur.map (fun d => (d.1, failMoves port (stopLinks port d.2)))
             com := s.com.map (fun d => (d.1, failMoves port d.2)) })

/-- PORT_UP: the port has retrained; its bindings stand. -/
def execPortUp (port : Nat) (s : State) : Out :=
  if (s.ports.get port {}).up then .next s
  else .next (raiseEvent 3 (modPort port (fun p => { p with up := true }) s))

end Sys2Proof.Machine
end

