-- ==== Sys2Proof/Machine/VectorFloat.lean ====
section
/-! DEFINITION. Vector floating point, special functions, conversions, mx4 blocks, order keys (spec/05_scalar_vector.md
R125 to R130; spec/04_numbers.md R85, R96). -/

namespace Sys2Proof.Machine

/-- A rounding instruction on the elements of va and vb. -/
def floatBin (i : Instr) (d a b : BitVec 7) (t : BitVec 2) (rounds : Bool) (op : Nat → Nat → Nat → Nat → Nat → Res)
    (s : State) : Out :=
  vecOp i d t rounds (fun s f mode draw i =>
    op f mode draw (velem (s.vreg a.toNat) (fmtWidth f) i) (velem (s.vreg b.toNat) (fmtWidth f) i)) s

/-- VFADD. -/
def execVfadd (d a b : BitVec 7) (t : BitVec 2) (s : State) : Out :=
  floatBin (.vfadd d a b t) d a b t true (fun f m r x y => fAdd f m r false x y) s
/-- VFSUB. -/
def execVfsub (d a b : BitVec 7) (t : BitVec 2) (s : State) : Out :=
  floatBin (.vfsub d a b t) d a b t true (fun f m r x y => fAdd f m r true x y) s
/-- VFMUL. -/
def execVfmul (d a b : BitVec 7) (t : BitVec 2) (s : State) : Out :=
  floatBin (.vfmul d a b t) d a b t true fMul s
/-- VFMIN. -/
def execVfmin (d a b : BitVec 7) (t : BitVec 2) (s : State) : Out :=
  floatBin (.vfmin d a b t) d a b t false (fun f _ _ x y => fMinMax f true x y) s
/-- VFMAX. -/
def execVfmax (d a b : BitVec 7) (t : BitVec 2) (s : State) : Out :=
  floatBin (.vfmax d a b t) d a b t false (fun f _ _ x y => fMinMax f false x y) s

/-- The fused forms: the signs of the product and of vd (R125). -/
def fusedOp (i : Instr) (d a b : BitVec 7) (t : BitVec 2) (negP negC : Bool) (s : State) : Out :=
  vecOp i d t true (fun s f mode draw i =>
    let w := fmtWidth f
    fFma f mode draw negP negC (velem (s.vreg a.toNat) w i) (velem (s.vreg b.toNat) w i)
      (velem (s.vreg d.toNat) w i)) s

/-- VFMA. -/
def execVfma (d a b : BitVec 7) (t : BitVec 2) (s : State) : Out := fusedOp (.vfma d a b t) d a b t false false s
/-- VFMS. -/
def execVfms (d a b : BitVec 7) (t : BitVec 2) (s : State) : Out := fusedOp (.vfms d a b t) d a b t false true s
/-- VFNMA. -/
def execVfnma (d a b : BitVec 7) (t : BitVec 2) (s : State) : Out := fusedOp (.vfnma d a b t) d a b t true true s
/-- VFNMS. -/
def execVfnms (d a b : BitVec 7) (t : BitVec 2) (s : State) : Out := fusedOp (.vfnms d a b t) d a b t true false s

/-- A special function on the elements of va (R126). -/
def specialOp (i : Instr) (g : Special) (d a : BitVec 7) (t : BitVec 2) (s : State) : Out :=
  vecOp i d t true (fun s f mode draw i => fSpecial f mode draw g (velem (s.vreg a.toNat) (fmtWidth f) i)) s

/-- VEXP2 (Table 5.7). -/
def execVexp2 (d a : BitVec 7) (t : BitVec 2) (s : State) : Out := specialOp (.vexp2 d a t) .exp2 d a t s
/-- VLOG2 (Table 5.7). -/
def execVlog2 (d a : BitVec 7) (t : BitVec 2) (s : State) : Out := specialOp (.vlog2 d a t) .log2 d a t s
/-- VRCP (Table 5.7). -/
def execVrcp (d a : BitVec 7) (t : BitVec 2) (s : State) : Out := specialOp (.vrcp d a t) .rcp d a t s
/-- VRSQ (Table 5.7). -/
def execVrsq (d a : BitVec 7) (t : BitVec 2) (s : State) : Out := specialOp (.vrsq d a t) .rsq d a t s
/-- VTANH (Table 5.7). -/
def execVtanh (d a : BitVec 7) (t : BitVec 2) (s : State) : Out := specialOp (.vtanh d a t) .tanh d a t s
/-- VSIGM (Table 5.7). -/
def execVsigm (d a : BitVec 7) (t : BitVec 2) (s : State) : Out := specialOp (.vsigm d a t) .sigm d a t s

/-! ### Conversions (R127 to R130) -/

/-- VCVT: the wider side uses elements 0 to N − 1, the narrower side part p (R127). -/
def execVcvt (d a : BitVec 7) (p : BitVec 3) (sf t : BitVec 2) (s : State) : Out :=
  issue (.vcvt d a p sf t) s (fun s =>
    let df := s.fmt t
    let f := s.fmt sf
    let ws := fmtWidth f
    let wd := fmtWidth df
    let n := 1024 / max ws wd
    withDraws (if s.rnd t = 4 then n else 0) s (fun s draw =>
      let m := s.amask
      let off := p.toNat * n
      let res (k : Nat) : Res :=
        convert f df (s.rnd t) (draw k) (velem (s.vreg a.toNat) ws (if ws < wd then off + k else k))
      let rs := (List.range n).map (fun k => if active m k then some (res k) else none)
      let whole := (List.range (1024 / wd)).map (fun e =>
        let k := if wd < ws then (if off ≤ e ∧ e < off + n then some (e - off) else none) else some e
        k.bind (fun k => (rs.getD k none).map (·.code)))
      .next (retire (raiseFlags (flagsOf rs) (s.setVreg d.toNat (vmerge (s.vreg d.toNat) wd whole))))))

/-- The value of a code of E3M2, E2M3 or E2M1 with `m` fraction bits and `n` bits in all (R85). -/
def smallFloat (n m bias c : Nat) : Real :=
  let mag := c % 2 ^ (n - 1)
  let neg := decide (2 ^ (n - 1) ≤ c % 2 ^ n)
  if mag / 2 ^ m = 0 then { neg := neg, m := mag % 2 ^ m, e := 1 - (bias : Int) - (m : Int) }
  else { neg := neg, m := 2 ^ m + mag % 2 ^ m, e := (mag / 2 ^ m : Nat) - (bias : Int) - (m : Int) }

/-- One element of VXPND as e4m3 (R128). -/
def expandElem (k : BitVec 2) (x : VReg) (e : Nat) : Nat :=
  match k.toNat with
  | 0 => (let v := toSigned 4 (velem x 4 e)
          if v = 0 then 0 else (roundInto 8 1 0 none (realOf v 0)).code)
  | 1 => (roundInto 8 1 0 none (smallFloat 6 2 3 (velem x 6 e))).code
  | 2 => (roundInto 8 1 0 none (smallFloat 6 3 1 (velem x 6 e))).code
  | _ => (roundInto 8 1 0 none (smallFloat 4 1 1 (velem x 4 e))).code

/-- VXPND (R128). -/
def execVxpnd (d a : BitVec 7) (p : BitVec 3) (k : BitVec 2) (t : BitVec 2) (s : State) : Out :=
  vecOp (.vxpnd d a p k t) d t false (fun s _ _ _ i =>
    { code := expandElem k (s.vreg a.toNat) (p.toNat * 128 + i) }) s

/-- A quantised block: element codes, scale, flags (R96). -/
structure Block where
  elems : List Nat
  scale : Nat
  flags : FlagSet := 0#6
  deriving DecidableEq, Repr

/-- 32 f32 values quantised into a block (R96). -/
def quantise (mode : Nat) (draw : Nat → Nat) (xs : List Nat) : Block :=
  if xs.any (fun c => decide (0x7F800000 ≤ codeMag 12 c)) then
    { elems := List.replicate 32 0, scale := 0xFF, flags := flagNV }
  else if xs.all (fun c => codeMag 12 c == 0) then { elems := List.replicate 32 0, scale := 0x7F }
  else
    let top (c : Nat) : Int := match fvalue 12 c with
      | .fin x => if x.m = 0 then -1000 else (bitLen x.m : Int) - 1 + x.e
      | _ => -1000
    let e := max (-127) (xs.foldl (fun a c => max a (top c)) (-1000) - 2)
    let rs := xs.zipIdx.map (fun p => match fvalue 12 p.1 with
      | .fin x => roundInto 13 mode (draw p.2) (some 7) { x with e := x.e - e }
      | _ => { code := 0 })
    { elems := rs.map (·.code), scale := (e + 127).toNat, flags := rs.foldl (fun a r => a ||| r.flags) 0#6 }

/-- VQMX: eight blocks from the group at va, scales into the low bytes of vb (R129). DESIGN CHOICE, log entry 117. -/
def execVqmx (d a b : BitVec 7) (t : BitVec 2) (s : State) : Out :=
  issue (.vqmx d a b t) s (fun s =>
    let mode := s.rnd t
    let m := s.amask
    withDraws (if mode = 4 then 256 else 0) s (fun s draw =>
      let bs := (List.range 8).map (fun j =>
        if active m j then
          some (quantise mode (fun i => draw (32 * j + i)) (velems (s.vreg (a.toNat + j)) 32 32))
        else none)
      let fl := bs.foldl (fun f x => match x with
        | none => f
        | some x => f ||| x.flags) 0#6
      let vd := vmerge (s.vreg d.toNat) 128 (bs.map (·.map (fun x => vpack 4 x.elems)))
      let s := s.setVreg d.toNat vd
      let vb := vmerge (s.vreg b.toNat) 8 (bs.map (·.map (·.scale)) ++ List.replicate 120 none)
      .next (retire (raiseFlags fl (s.setVreg b.toNat vb)))))

/-- One mx4 element decoded to f32 (R96). -/
def dequantise (mode scale c : Nat) : Res :=
  if scale = 0xFF then { code := 0x7FC00000 }
  else match fvalue 13 c with
    | .fin x => roundInto 12 mode 0 none { x with e := x.e + (scale : Int) - 127 }
    | _ => { code := 0x7FC00000 }

/-- VDQMX: block j of va with its scale in byte j of vb, into vd + j (R129). -/
def execVdqmx (d a b : BitVec 7) (t : BitVec 2) (s : State) : Out :=
  issue (.vdqmx d a b t) s (fun s =>
    let m := s.amask
    let va := s.vreg a.toNat
    let vb := s.vreg b.toNat
    let mode := s.rnd t
    .next (retire ((List.range 8).foldl (fun s j =>
      if active m j then
        let rs := (List.range 32).map (fun i => dequantise mode (velem vb 8 j) (velem va 4 (32 * j + i)))
        raiseFlags (rs.foldl (fun a r => a ||| r.flags) 0#6) (s.setVreg (d.toNat + j) (vof 32 (rs.map (·.code))))
      else s) s)))

/-- VORD (R130). -/
def execVord (d a : BitVec 7) (t : BitVec 2) (s : State) : Out :=
  vecOp (.vord d a t) d t false (fun s f _ _ i =>
    { code := orderKey f (velem (s.vreg a.toNat) (fmtWidth f) i) }) s
/-- VUNORD (R130). -/
def execVunord (d a : BitVec 7) (t : BitVec 2) (s : State) : Out :=
  vecOp (.vunord d a t) d t false (fun s f _ _ i =>
    { code := unorderKey f (velem (s.vreg a.toNat) (fmtWidth f) i) }) s

end Sys2Proof.Machine
end

