-- ==== Sys2Proof/Machine/Dispatch.lean ====
section
/-! DEFINITION. The meaning of each instruction: one arm for each constructor of Instr. -/

namespace Sys2Proof.Machine

/-- The outcome of instruction `i` for the actor of the state. -/
def exec (i : Instr) (s : State) : Host.Outcome State Fault Refusal :=
  match i with
  | .add d a b p s1 r => Sys2Proof.Machine.execAdd d a b p s1 r s
  | .sub d a b p s1 r => Sys2Proof.Machine.execSub d a b p s1 r s
  | .and d a b p s1 r => Sys2Proof.Machine.execAnd d a b p s1 r s
  | .or d a b p s1 r => Sys2Proof.Machine.execOr d a b p s1 r s
  | .xor d a b p s1 r => Sys2Proof.Machine.execXor d a b p s1 r s
  | .andn d a b p s1 r => Sys2Proof.Machine.execAndn d a b p s1 r s
  | .sll d a b p s1 r => Sys2Proof.Machine.execSll d a b p s1 r s
  | .srl d a b p s1 r => Sys2Proof.Machine.execSrl d a b p s1 r s
  | .sra d a b p s1 r => Sys2Proof.Machine.execSra d a b p s1 r s
  | .mul d a b p s1 r => Sys2Proof.Machine.execMul d a b p s1 r s
  | .mulh d a b p s1 r => Sys2Proof.Machine.execMulh d a b p s1 r s
  | .div d a b p s1 r => Sys2Proof.Machine.execDiv d a b p s1 r s
  | .divu d a b p s1 r => Sys2Proof.Machine.execDivu d a b p s1 r s
  | .rem d a b p s1 r => Sys2Proof.Machine.execRem d a b p s1 r s
  | .slt d a b p s1 r => Sys2Proof.Machine.execSlt d a b p s1 r s
  | .sltu d a b p s1 r => Sys2Proof.Machine.execSltu d a b p s1 r s
  | .min d a b p s1 r => Sys2Proof.Machine.execMin d a b p s1 r s
  | .max d a b p s1 r => Sys2Proof.Machine.execMax d a b p s1 r s
  | .minu d a b p s1 r => Sys2Proof.Machine.execMinu d a b p s1 r s
  | .maxu d a b p s1 r => Sys2Proof.Machine.execMaxu d a b p s1 r s
  | .clz d a p r => Sys2Proof.Machine.execClz d a p r s
  | .popc d a p r => Sys2Proof.Machine.execPopc d a p r s
  | .addi d a i1 => Sys2Proof.Machine.execAddi d a i1 s
  | .andi d a i1 => Sys2Proof.Machine.execAndi d a i1 s
  | .ori d a i1 => Sys2Proof.Machine.execOri d a i1 s
  | .xori d a i1 => Sys2Proof.Machine.execXori d a i1 s
  | .slli d a n => Sys2Proof.Machine.execSlli d a n s
  | .srli d a n => Sys2Proof.Machine.execSrli d a n s
  | .srai d a n => Sys2Proof.Machine.execSrai d a n s
  | .rori d a n => Sys2Proof.Machine.execRori d a n s
  | .li d i1 => Sys2Proof.Machine.execLi d i1 s
  | .lih d a i1 => Sys2Proof.Machine.execLih d a i1 s
  | .cskip c k a b => Sys2Proof.Machine.execCskip c k a b s
  | .cskipi c k a i1 => Sys2Proof.Machine.execCskipi c k a i1 s
  | .br o => Sys2Proof.Machine.execBr o s
  | .jal o => Sys2Proof.Machine.execJal o s
  | .jalr d a o => Sys2Proof.Machine.execJalr d a o s
  | .bz a o => Sys2Proof.Machine.execBz a o s
  | .bnz a o => Sys2Proof.Machine.execBnz a o s
  | .rep z y x s1 c l => Sys2Proof.Machine.execRep z y x s1 c l s
  | .fork d a b j => Sys2Proof.Machine.execFork d a b j s
  | .join a => Sys2Proof.Machine.execJoin a s
  | .yield n => Sys2Proof.Machine.execYield n s
  | .ld d a s1 o => Sys2Proof.Machine.execLd d a s1 o s
  | .st d a s1 o => Sys2Proof.Machine.execSt d a s1 o s
  | .amoadd d a b w => Sys2Proof.Machine.execAmoadd d a b w s
  | .amoswap d a b w => Sys2Proof.Machine.execAmoswap d a b w s
  | .amocas d a b w => Sys2Proof.Machine.execAmocas d a b w s
  | .amoand d a b w => Sys2Proof.Machine.execAmoand d a b w s
  | .amoor d a b w => Sys2Proof.Machine.execAmoor d a b w s
  | .amoxor d a b w => Sys2Proof.Machine.execAmoxor d a b w s
  | .amomin d a b w => Sys2Proof.Machine.execAmomin d a b w s
  | .amomax d a b w => Sys2Proof.Machine.execAmomax d a b w s
  | .vld d a b t => Sys2Proof.Machine.execVld d a b t s
  | .vst d a b t => Sys2Proof.Machine.execVst d a b t s
  | .vlds d a b t => Sys2Proof.Machine.execVlds d a b t s
  | .vsts d a b t => Sys2Proof.Machine.execVsts d a b t s
  | .vgath d a b t => Sys2Proof.Machine.execVgath d a b t s
  | .vscat d a b t => Sys2Proof.Machine.execVscat d a b t s
  | .vldsh d a b => Sys2Proof.Machine.execVldsh d a b s
  | .vstsh d a b => Sys2Proof.Machine.execVstsh d a b s
  | .vadd d a b t => Sys2Proof.Machine.execVadd d a b t s
  | .vsub d a b t => Sys2Proof.Machine.execVsub d a b t s
  | .vmul d a b t => Sys2Proof.Machine.execVmul d a b t s
  | .vmulh d a b t => Sys2Proof.Machine.execVmulh d a b t s
  | .vmin d a b t => Sys2Proof.Machine.execVmin d a b t s
  | .vmax d a b t => Sys2Proof.Machine.execVmax d a b t s
  | .vadds d a b t => Sys2Proof.Machine.execVadds d a b t s
  | .vsubs d a b t => Sys2Proof.Machine.execVsubs d a b t s
  | .vand d a b t => Sys2Proof.Machine.execVand d a b t s
  | .vor d a b t => Sys2Proof.Machine.execVor d a b t s
  | .vxor d a b t => Sys2Proof.Machine.execVxor d a b t s
  | .vandn d a b t => Sys2Proof.Machine.execVandn d a b t s
  | .vsll d a b t => Sys2Proof.Machine.execVsll d a b t s
  | .vsrl d a b t => Sys2Proof.Machine.execVsrl d a b t s
  | .vsra d a b t => Sys2Proof.Machine.execVsra d a b t s
  | .vcmp d a b t c => Sys2Proof.Machine.execVcmp d a b t c s
  | .vperm d a b t => Sys2Proof.Machine.execVperm d a b t s
  | .vsel d a b t => Sys2Proof.Machine.execVsel d a b t s
  | .vshuf d a b t => Sys2Proof.Machine.execVshuf d a b t s
  | .vslup d a n t => Sys2Proof.Machine.execVslup d a n t s
  | .vsldn d a n t => Sys2Proof.Machine.execVsldn d a n t s
  | .vbcast d a n t => Sys2Proof.Machine.execVbcast d a n t s
  | .vrsum d a t => Sys2Proof.Machine.execVrsum d a t s
  | .vrmax d a t => Sys2Proof.Machine.execVrmax d a t s
  | .vrmin d a t => Sys2Proof.Machine.execVrmin d a t s
  | .vhist d a t => Sys2Proof.Machine.execVhist d a t s
  | .vcmpr d a t => Sys2Proof.Machine.execVcmpr d a t s
  | .vpopc d a t => Sys2Proof.Machine.execVpopc d a t s
  | .viota d a t => Sys2Proof.Machine.execViota d a t s
  | .vfadd d a b t => Sys2Proof.Machine.execVfadd d a b t s
  | .vfsub d a b t => Sys2Proof.Machine.execVfsub d a b t s
  | .vfmul d a b t => Sys2Proof.Machine.execVfmul d a b t s
  | .vfmin d a b t => Sys2Proof.Machine.execVfmin d a b t s
  | .vfmax d a b t => Sys2Proof.Machine.execVfmax d a b t s
  | .vfma d a b t => Sys2Proof.Machine.execVfma d a b t s
  | .vfms d a b t => Sys2Proof.Machine.execVfms d a b t s
  | .vfnma d a b t => Sys2Proof.Machine.execVfnma d a b t s
  | .vfnms d a b t => Sys2Proof.Machine.execVfnms d a b t s
  | .vexp2 d a t => Sys2Proof.Machine.execVexp2 d a t s
  | .vlog2 d a t => Sys2Proof.Machine.execVlog2 d a t s
  | .vrcp d a t => Sys2Proof.Machine.execVrcp d a t s
  | .vrsq d a t => Sys2Proof.Machine.execVrsq d a t s
  | .vtanh d a t => Sys2Proof.Machine.execVtanh d a t s
  | .vsigm d a t => Sys2Proof.Machine.execVsigm d a t s
  | .vcvt d a p s1 t => Sys2Proof.Machine.execVcvt d a p s1 t s
  | .vqmx d a b t => Sys2Proof.Machine.execVqmx d a b t s
  | .vdqmx d a b t => Sys2Proof.Machine.execVdqmx d a b t s
  | .vxpnd d a p k t => Sys2Proof.Machine.execVxpnd d a p k t s
  | .vord d a t => Sys2Proof.Machine.execVord d a t s
  | .vunord d a t => Sys2Proof.Machine.execVunord d a t s
  | .vins d a b t => Sys2Proof.Machine.execVins d a b t s
  | .vext d a b t => Sys2Proof.Machine.execVext d a b t s
  | .vsplt d a t => Sys2Proof.Machine.execVsplt d a t s
  | .vmrd m a b => Sys2Proof.Machine.execVmrd m a b s
  | .vmwr m a b => Sys2Proof.Machine.execVmwr m a b s
  | .shrd s1 a => Sys2Proof.Machine.execShrd s1 a s
  | .shwr s1 a => Sys2Proof.Machine.execShwr s1 a s
  | .vmand d a b => Sys2Proof.Machine.execVmand d a b s
  | .vmor d a b => Sys2Proof.Machine.execVmor d a b s
  | .vmxor d a b => Sys2Proof.Machine.execVmxor d a b s
  | .vmandn d a b => Sys2Proof.Machine.execVmandn d a b s
  | .vmnot d a => Sys2Proof.Machine.execVmnot d a s
  | .amsel n => Sys2Proof.Machine.execAmsel n s
  | .rng a => Sys2Proof.Machine.execRng a s
  | .vrng d k t => Sys2Proof.Machine.execVrng d k t s
  | .rngkey a => Sys2Proof.Machine.execRngkey a s
  | .mma c a b x y k => Sys2Proof.Machine.execMma c a b x y k s
  | .mmat c a b x y k => Sys2Proof.Machine.execMmat c a b x y k s
  | .mconv c a b x y k => Sys2Proof.Machine.execMconv c a b x y k s
  | .mzero c => Sys2Proof.Machine.execMzero c s
  | .mldacc c a => Sys2Proof.Machine.execMldacc c a s
  | .mstacc c a => Sys2Proof.Machine.execMstacc c a s
  | .semwait d a n e => Sys2Proof.Machine.execSemwait d a n e s
  | .semsig d a n c => Sys2Proof.Machine.execSemsig d a n c s
  | .semset d a n c => Sys2Proof.Machine.execSemset d a n c s
  | .ringwait d r n e => Sys2Proof.Machine.execRingwait d r n e s
  | .ringrsv d r n e => Sys2Proof.Machine.execRingrsv d r n e s
  | .ringadvHead d r n => Sys2Proof.Machine.execRingadvHead d r n s
  | .ringadvTail d r n => Sys2Proof.Machine.execRingadvTail d r n s
  | .ringadvWrite d r => Sys2Proof.Machine.execRingadvWrite d r s
  | .ringadvRead d r => Sys2Proof.Machine.execRingadvRead d r s
  | .qfence q => Sys2Proof.Machine.execQfence q s
  | .cpy d a b => Sys2Proof.Machine.execCpy d a b s
  | .cpysh d a b c => Sys2Proof.Machine.execCpysh d a b c s
  | .xput d a b => Sys2Proof.Machine.execXput d a b s
  | .xget d a b => Sys2Proof.Machine.execXget d a b s
  | .xdeal d a b c => Sys2Proof.Machine.execXdeal d a b c s
  | .xmcast d a b c => Sys2Proof.Machine.execXmcast d a b c s
  | .xred d a b o => Sys2Proof.Machine.execXred d a b o s
  | .xhfill d a b => Sys2Proof.Machine.execXhfill d a b s
  | .xhspill d a b => Sys2Proof.Machine.execXhspill d a b s
  | .xhld d a s1 => Sys2Proof.Machine.execXhld d a s1 s
  | .xlsend d a b c => Sys2Proof.Machine.execXlsend d a b c s
  | .xlrecv d a b c => Sys2Proof.Machine.execXlrecv d a b c s
  | .xbar d a => Sys2Proof.Machine.execXbar d a s
  | .send d a b => Sys2Proof.Machine.execSend d a b s
  | .spawn d a b => Sys2Proof.Machine.execSpawn d a b s
  | .migrate d a => Sys2Proof.Machine.execMigrate d a s
  | .rupd d a b w o => Sys2Proof.Machine.execRupd d a b w o s
  | .tqpush d a b c => Sys2Proof.Machine.execTqpush d a b c s
  | .tqdec d a => Sys2Proof.Machine.execTqdec d a s
  | .mbxsend d a b => Sys2Proof.Machine.execMbxsend d a b s
  | .mbxrecv d a n e => Sys2Proof.Machine.execMbxrecv d a n e s
  | .sfork d a b c => Sys2Proof.Machine.execSfork d a b c s
  | .ssel d a => Sys2Proof.Machine.execSsel d a s
  | .sadv d a => Sys2Proof.Machine.execSadv d a s
  | .sactpop d a => Sys2Proof.Machine.execSactpop d a s
  | .sactadd d a => Sys2Proof.Machine.execSactadd d a s
  | .sret a b => Sys2Proof.Machine.execSret a b s
  | .sprune d a => Sys2Proof.Machine.execSprune d a s
  | .smigrate d a b c => Sys2Proof.Machine.execSmigrate d a b c s
  | .squery d a n => Sys2Proof.Machine.execSquery d a n s
  | .selsub d a b c => Sys2Proof.Machine.execSelsub d a b c s
  | .selget d a b => Sys2Proof.Machine.execSelget d a b s
  | .redsub d a b c => Sys2Proof.Machine.execRedsub d a b c s
  | .sjoin d a b => Sys2Proof.Machine.execSjoin d a b s
  | .umsub a b c => Sys2Proof.Machine.execUmsub a b c s
  | .umcommit a b c => Sys2Proof.Machine.execUmcommit a b c s
  | .umdirty d a b => Sys2Proof.Machine.execUmdirty d a b s
  | .umstateConfigure d a c => Sys2Proof.Machine.execUmstateConfigure d a c s
  | .umstateStatus d a c => Sys2Proof.Machine.execUmstateStatus d a c s
  | .umstateMask d a c => Sys2Proof.Machine.execUmstateMask d a c s
  | .umstateRelease d a c => Sys2Proof.Machine.execUmstateRelease d a c s
  | .csrr d c => Sys2Proof.Machine.execCsrr d c s
  | .csrw a c => Sys2Proof.Machine.execCsrw a c s
  | .csrset a c => Sys2Proof.Machine.execCsrset a c s
  | .csrclr a c => Sys2Proof.Machine.execCsrclr a c s
  | .trap a c => Sys2Proof.Machine.execTrap a c s
  | .idle a => Sys2Proof.Machine.execIdle a s
  | .dbrk c => Sys2Proof.Machine.execDbrk c s
  | .halt a => Sys2Proof.Machine.execHalt a s
  | .capgive d a b => Sys2Proof.Machine.execCapgive d a b s
  | .captake d a => Sys2Proof.Machine.execCaptake d a s
  | .capq d a => Sys2Proof.Machine.execCapq d a s
  | .digest d => Sys2Proof.Machine.execDigest d s
  | .quotasetVquota d a => Sys2Proof.Machine.execQuotasetVquota d a s
  | .quotasetHquota d a => Sys2Proof.Machine.execQuotasetHquota d a s
  | .quotasetSpill d a => Sys2Proof.Machine.execQuotasetSpill d a s
  | .quotasetPoolAdd d a => Sys2Proof.Machine.execQuotasetPoolAdd d a s
  | .quotasetPoolRemove d a => Sys2Proof.Machine.execQuotasetPoolRemove d a s
  | .quotasetSeqRange d a => Sys2Proof.Machine.execQuotasetSeqRange d a s
  | .quotasetTaskRange d a => Sys2Proof.Machine.execQuotasetTaskRange d a s
  | .keyselAssign d a => Sys2Proof.Machine.execKeyselAssign d a s
  | .keyselRelease d a => Sys2Proof.Machine.execKeyselRelease d a s
  | .keyselImport d a => Sys2Proof.Machine.execKeyselImport d a s
  | .modesetFeatures d a => Sys2Proof.Machine.execModesetFeatures d a s
  | .modesetSeed d a => Sys2Proof.Machine.execModesetSeed d a s
  | .modesetRoot d a => Sys2Proof.Machine.execModesetRoot d a s
  | .modesetSystemFlag d a => Sys2Proof.Machine.execModesetSystemFlag d a s
  | .modesetComputeBudget d a => Sys2Proof.Machine.execModesetComputeBudget d a s
  | .modesetExchangeBudget d a => Sys2Proof.Machine.execModesetExchangeBudget d a s
  | .modesetFrameMap d a => Sys2Proof.Machine.execModesetFrameMap d a s
  | .modesetLeaf d a => Sys2Proof.Machine.execModesetLeaf d a s
  | .modesetRegister d a => Sys2Proof.Machine.execModesetRegister d a s
  | .modesetUnregister d a => Sys2Proof.Machine.execModesetUnregister d a s
  | .pfx i1 => Sys2Proof.Machine.execPfx i1 s
  | .budgetExpiry tid => Sys2Proof.Machine.execBudgetExpiry tid s
  | .messageAccept tid src => Sys2Proof.Machine.execMessageAccept tid src s
  | .handlerPreemption tid core => Sys2Proof.Machine.execHandlerPreemption tid core s
  | .spillFullRecord tid src => Sys2Proof.Machine.execSpillFullRecord tid src s
  | .continuationTake tid core => Sys2Proof.Machine.execContinuationTake tid core s
  | .remoteUpdateApply tid core idx => Sys2Proof.Machine.execRemoteUpdateApply tid core idx s
  | .mailboxDelivery tid src => Sys2Proof.Machine.execMailboxDelivery tid src s
  | .capabilityMessageDelivery tid => Sys2Proof.Machine.execCapabilityMessageDelivery tid s
  | .sharingCountRaise tid => Sys2Proof.Machine.execSharingCountRaise tid s
  | .referenceRelease tid => Sys2Proof.Machine.execReferenceRelease tid s
  | .exchangeUnitLanding tid core op => Sys2Proof.Machine.execExchangeUnitLanding tid core op s
  | .transferComplete tid core op => Sys2Proof.Machine.execTransferComplete tid core op s
  | .copyComplete tid core => Sys2Proof.Machine.execCopyComplete tid core s
  | .matrixOpComplete tid core => Sys2Proof.Machine.execMatrixOpComplete tid core s
  | .hbmAccessComplete tid core slot excess => Sys2Proof.Machine.execHbmAccessComplete tid core slot excess s
  | .waitExpired tid core slot => Sys2Proof.Machine.execWaitExpired tid core slot s
  | .linkTimeout tid core slot => Sys2Proof.Machine.execLinkTimeout tid core slot s
  | .linkTransferComplete tid core slot => Sys2Proof.Machine.execLinkTransferComplete tid core slot s
  | .xbarRelease tid rect inst => Sys2Proof.Machine.execXbarRelease tid rect inst s
  | .finialRound tid => Sys2Proof.Machine.execFinialRound tid s
  | .oculusRound tid seq => Sys2Proof.Machine.execOculusRound tid seq s
  | .queueEntryFetch queue => Sys2Proof.Machine.execQueueEntryFetch queue s
  | .streamTableRequest tid core slot => Sys2Proof.Machine.execStreamTableRequest tid core slot s
  | .streamTableReply tid core slot => Sys2Proof.Machine.execStreamTableReply tid core slot s
  | .taskTableRequest tid core slot => Sys2Proof.Machine.execTaskTableRequest tid core slot s
  | .taskTableReply tid core slot => Sys2Proof.Machine.execTaskTableReply tid core slot s
  | .privilegedOperationReply tid core slot => Sys2Proof.Machine.execPrivilegedOperationReply tid core slot s
  | .quit => Sys2Proof.Machine.execQuit s
  | .mwait => Sys2Proof.Machine.execMwait s
  | .fence => Sys2Proof.Machine.execFence s
  | .sync => Sys2Proof.Machine.execSync s
  | .xend => Sys2Proof.Machine.execXend s
  | .eret => Sys2Proof.Machine.execEret s
  | .phaseBoundary => Sys2Proof.Machine.execPhaseBoundary s
  | .pageWalkComplete tid core va => Sys2Proof.Machine.execPageWalkComplete tid core va s
  | .linkPartnerStop tid core slot moved => Sys2Proof.Machine.execLinkPartnerStop tid core slot moved s
  | .smigrateReply tid port result newId => Sys2Proof.Machine.execSmigrateReply tid port result newId s
  | .launchComplete => Sys2Proof.Machine.execLaunchComplete s
  | .replicaFlit far ordinal exchange sum => Sys2Proof.Machine.execReplicaFlit far ordinal exchange sum s
  | .refreshDue stack group bank queued postpone => Sys2Proof.Machine.execRefreshDue stack group bank queued postpone s
  | .postponedRefreshIssue stack group bank => Sys2Proof.Machine.execPostponedRefreshIssue stack group bank s
  | .arbiterInterval amps c0 c1 c2 c3 => Sys2Proof.Machine.execArbiterInterval amps c0 c1 c2 c3 s
  | .thermalInterval t0 t1 t2 t3 => Sys2Proof.Machine.execThermalInterval t0 t1 t2 t3 s
  | .thermalHold die => Sys2Proof.Machine.execThermalHold die s
  | .thermalTrip die => Sys2Proof.Machine.execThermalTrip die s
  | .patrolScrub found => Sys2Proof.Machine.execPatrolScrub found s
  | .wearSample m0 m1 m2 m3 => Sys2Proof.Machine.execWearSample m0 m1 m2 m3 s
  | .qtailDoorbell fn queue tail => Sys2Proof.Machine.execQtailDoorbell fn queue tail s
  | .launch => Sys2Proof.Machine.execLaunch s
  | .preempt => Sys2Proof.Machine.execPreempt s
  | .contextSaveComplete => Sys2Proof.Machine.execContextSaveComplete s
  | .restore => Sys2Proof.Machine.execRestore s
  | .hold => Sys2Proof.Machine.execHold s
  | .release => Sys2Proof.Machine.execRelease s
  | .attest => Sys2Proof.Machine.execAttest s
  | .attestationReportDone => Sys2Proof.Machine.execAttestationReportDone s
  | .register => Sys2Proof.Machine.execRegister s
  | .unregister => Sys2Proof.Machine.execUnregister s
  | .debug => Sys2Proof.Machine.execDebug s
  | .create => Sys2Proof.Machine.execCreate s
  | .destroy => Sys2Proof.Machine.execDestroy s
  | .bindvf => Sys2Proof.Machine.execBindvf s
  | .bindlink => Sys2Proof.Machine.execBindlink s
  | .importkey => Sys2Proof.Machine.execImportkey s
  | .warm => Sys2Proof.Machine.execWarm s
  | .windowRead fn off len => Sys2Proof.Machine.execWindowRead fn off len s
  | .windowWrite fn off data => Sys2Proof.Machine.execWindowWrite fn off data s
  | .bar0RegisterWrite fn off value => Sys2Proof.Machine.execBar0RegisterWrite fn off value s
  | .flitCrcReplay port => Sys2Proof.Machine.execFlitCrcReplay port s
  | .portDown port => Sys2Proof.Machine.execPortDown port s
  | .portUp port => Sys2Proof.Machine.execPortUp port s
  | .coldStart env => Sys2Proof.Machine.execColdStart env s
  | .warmStart env => Sys2Proof.Machine.execWarmStart env s
  | .illegalInstructionWord w => Sys2Proof.Machine.execIllegalInstructionWord w s
  | .instructionFetchFault => Sys2Proof.Machine.execInstructionFetchFault s
  | .migratedStreamAdmission port arrival => Sys2Proof.Machine.execMigratedStreamAdmission port arrival s
  | .linkPartnerIssue port far sends tag len data => Sys2Proof.Machine.execLinkPartnerIssue port far sends tag len data s
  | .refreshComplete stack group bank => Sys2Proof.Machine.execRefreshComplete stack group bank s

end Sys2Proof.Machine
end

