-- ==== Sys2Proof/Machine/Timing.lean ====
section
/-! DEFINITION. When an instruction may issue: the registers that it reads and the unit that it needs, with the latency L
and the occupancy O of Table 5.1 and of Tables 8.8, 11.8, 12.6 and 16.6 (spec/05_scalar_vector.md R105;
spec/10_progress.md R216). Times are turns of a core: one instruction issues in a cycle. -/

namespace Sys2Proof.Machine

/-- The units of Table 5.1 that more than one slot can wait for. -/
inductive ExecUnit where
  | scalar | divider | vault | vector
  deriving DecidableEq, Repr

/-- Where a core's table of times holds a unit. -/
def ExecUnit.key : ExecUnit → Nat
  | .scalar => 0 | .divider => 1 | .vault => 2 | .vector => 3

/-- The time of an instruction: its unit and O, L, what becomes ready L turns after it issued, what must be ready for it,
and how many turns its slot waits after it at least. -/
structure Timing where
  unit   : Option ExecUnit := none
  occ    : Nat := 1
  lat    : Nat := 4
  writes : List Nat := []
  reads  : List Nat := []
  hold   : Nat := 1
  deriving DecidableEq, Repr

/-- Keys of what can be unready: a scalar register, a queue register, a vector register, a mask, a shadow register, AMASK,
FLAGS, RNGCTR, another CSR. g0, vm0, and what the engines hold are always ready. -/
def keyG (n : BitVec 5) : List Nat := if n = 0#5 then [] else [n.toNat]
def keyQ (n : BitVec 5) : Nat := 32 + n.toNat % 4
def keyV (n : Nat) : Nat := 64 + n
def keyM (n : BitVec 3) : List Nat := if n = 0#3 then [] else [192 + n.toNat]
def keySh (n : Nat) : Nat := 200 + n
def keyAmask : Nat := 208
def keyFlags : Nat := 209
def keyRng : Nat := 210
def keyCsr (n : Nat) : Nat :=
  if n = 0x004 then keyAmask else if n = 0x020 then keyFlags else if n = 0x040 then keyRng else 256 + n

def RegName.keys : RegName → List Nat
  | .g n => keyG n
  | .flagged f n => if f = 0#1 then keyG n else [keyQ n]
  | .v n => [keyV n]
  | .m n | .md n => keyM n
  | .sh | .acc _ | .sem _ | .ring _ => []

/-- All registers that an instruction names. -/
def namedKeys (i : Instr) : List Nat := (regsOf i).flatMap RegName.keys

/-- A destination that is also read stays among the reads; another does not. -/
def readsBut (i : Instr) (writes : List Nat) : List Nat := writes.foldl List.erase (namedKeys i)

/-- The active mask and the format that a vector instruction depends on (R36, R37, R105). -/
def vecDeps (s : State) (t : BitVec 2) : List Nat :=
  keyAmask :: keySh t.toNat :: keyM s.slotHere.amask

/-- An instruction that writes `writes` and reads what else it names. -/
def timed (u : ExecUnit) (lat occ : Nat) (i : Instr) (writes : List Nat) (more : List Nat := []) : Timing :=
  { unit := some u, occ := occ, lat := lat, writes := writes, reads := readsBut i writes ++ more }

/-- E of R123 and P of Table 5.1, for the format that `t` selects. -/
def elemsOf (s : State) (t : BitVec 2) : Nat := fmtCount (s.fmt t)
def passesOf (s : State) (t : BitVec 2) : Nat := elemsOf s t / 32
/-- ceil(E/8). -/
def eighths (e : Nat) : Nat := (e + 7) / 8

/-- E of the record that a shape load or store names. -/
def recordElems (s : State) (a : BitVec 5) : Nat :=
  match shapeAt s ((s.reg a).setWidth 20) with
  | .ok r => fmtCount r.fmt
  | _ => 0

/-- RNGCTR of an instruction that rounds stochastically (R102). -/
def drawDeps (s : State) (t : BitVec 2) : List Nat := if s.rnd t = 4 then [keyRng] else []

/-- A vector instruction on the elements of `t`. -/
def vecTimed (lat occ : Nat) (s : State) (i : Instr) (d : BitVec 7) (t : BitVec 2) : Timing :=
  timed .vector lat occ i [keyV d.toNat] (vecDeps s t)
/-- A float instruction, which also accrues flags; it may draw. -/
def floatTimed (lat occ : Nat) (s : State) (i : Instr) (writes : List Nat) (t : BitVec 2) : Timing :=
  timed .vector lat occ i (writes ++ keyFlags :: drawDeps s t) (vecDeps s t ++ drawDeps s t)
/-- A float instruction that rounds nothing and draws nothing (Table 5.10). -/
def exactTimed (lat occ : Nat) (s : State) (i : Instr) (writes : List Nat) (t : BitVec 2) : Timing :=
  timed .vector lat occ i (writes ++ [keyFlags]) (vecDeps s t)

/-- STREAM, TRAPVEC, and PTENANT as what reads them depends on. -/
def keyStream : Nat := keyCsr 0x005
def keyTrapvec : Nat := keyCsr 0x014
def keyPtenant : Nat := keyCsr 0x100

/-- The addresses of the elements of a vector access under its mask. -/
def elemAddrs (s : State) (t : BitVec 2) (ea : Nat → Nat → LAddr) : List LAddr :=
  (activeAddrs s.amask (memCount (s.fmt t)) (ea (memWidth (s.fmt t) / 8))).filterMap id

/-- The addresses of the active elements of a shape access, or of its mx4 blocks with their scale bytes (R119). -/
def recordAddrs (s : State) (a b : BitVec 5) : List LAddr :=
  match recordOf s a with
  | .ok r =>
    let at' (i : Nat) : Option (List Nat) := r.index ((s.reg b).toNat + i)
    if fmtIsMx r.fmt then
      (List.range 8).flatMap (fun j =>
        if active s.amask j then (at' (32 * j)).elim [] (fun x => [r.addr x, r.scaleAddr x]) else [])
    else (List.range (fmtCount r.fmt)).filterMap (fun i => if active s.amask i then (at' i).map r.addr else none)
  | _ => []

/-- Addresses of `n` items of `w` bytes. -/
def itemAddrs (v : Word) (w n : Nat) : List LAddr := (List.range n).map (fun i => v.setWidth 20 + BitVec.ofNat 20 (w * i))

/-- The local addresses that an instruction reads when it issues, a record by its first byte. -/
def readAddrs (s : State) : Instr → List LAddr
  | .ld _ a _ o => [effAddr s a o]
  | .vld _ a b t => elemAddrs s t (eaUnit a b s)
  | .vlds _ a b t => elemAddrs s t (eaStride a b s)
  | .vgath _ a b t => elemAddrs s t (eaIndex a b s)
  | .vldsh _ a b => (s.reg a).setWidth 20 :: recordAddrs s a b
  | .vstsh _ a _ | .tqpush _ a _ _ | .keyselImport _ a | .modesetFrameMap _ a | .modesetLeaf _ a | .modesetRegister _ a
  | .sfork _ _ a _ | .umstateConfigure _ _ a => [(s.reg a).setWidth 20]
  | .selsub _ a b _ => itemAddrs (s.reg a) 8 (min (s.reg b).toNat 64)
  | .redsub _ a b c => itemAddrs (s.reg a) (finWidth (finOp (s.reg c))) (min (s.reg b).toNat 64)
  | .umsub _ b c => itemAddrs (s.reg b) 8 (min (s.reg c).toNat 64)
  | .capgive _ a _ | .captake _ a | .capq _ a => if (s.reg a).toNat < 2 ^ 20 then [(s.reg a).setWidth 20] else []
  | _ => []

/-- The local addresses that an instruction writes when it issues. -/
def storeAddrs (s : State) : Instr → List LAddr
  | .st _ a _ o => [effAddr s a o]
  | .amoadd _ a _ _ | .amoswap _ a _ _ | .amoand _ a _ _ | .amoor _ a _ _ | .amoxor _ a _ _ | .amomin _ a _ _
  | .amomax _ a _ _ | .amocas _ a _ _ => [(s.reg a).setWidth 20]
  | .vst _ a b t => elemAddrs s t (eaUnit a b s)
  | .vsts _ a b t => elemAddrs s t (eaStride a b s)
  | .vscat _ a b t => elemAddrs s t (eaIndex a b s)
  | .vstsh _ a b => recordAddrs s a b
  | .selget _ a b => match (s.old s.actor.tid).finRes.find (finId (s.reg b)) with
    | none => []
    | some r => itemAddrs (s.reg a) (if r.reduce then finWidth r.mode else 8) r.items.length
  | _ => []

/-- A store at a private address that copies its frame, which is charged to the stream that STREAM names (R111). -/
def storeCharged (s : State) (a : LAddr) : Bool :=
  match privFrame s.here (a.toNat / 4096) with
  | none => false
  | some f =>
    let e := s.here.frame f
    decide (a.toNat < 0x7C000) && fmCow e && decide (1 < fmRef e) && !s.here.copied.contains f &&
      (s.here.shadows.find f).isNone

/-- An access through the stream window, and a copy that is charged, depend on STREAM (R49, R105, R111). -/
def windowDeps (s : State) (i : Instr) : List Nat :=
  if (readAddrs s i ++ storeAddrs s i).any (fun a => decide (0x80000 ≤ a.toNat)) || (storeAddrs s i).any (storeCharged s)
  then [keyStream] else []

/-- Scalar registers read beside those that the fields name (Table 11.3): n from g[b] on. -/
def payloadKeys (b : BitVec 5) (n : Nat) : List Nat := (List.range n).flatMap (fun i => keyG (BitVec.ofNat 5 (b.toNat + i)))

/-- What an instruction reads beside the registers that its fields name: the words of a message or a continuation, the STREAM
that a message, a continuation and an engine's operation carry with them, sh4 of an mx4 product, RPROG after ERET's mark,
PTENANT, the registers that ERET goes back by and TRAP goes to (R105). -/
def hiddenReads (s : State) (i : Instr) : List Nat :=
  match i with
  | .send _ _ b => keyStream :: payloadKeys b 8
  | .mbxsend _ _ b => keyStream :: payloadKeys b 7
  | .spawn _ _ _ => keyStream :: payloadKeys 1#5 4
  | .fork _ _ _ _ => keyStream :: keyTrapvec :: payloadKeys 1#5 4
  | .migrate d _ => keyStream :: (payloadKeys 1#5 8).filter (fun r => r != d.toNat)
  | .rupd _ _ _ _ _ | .ssel _ _ => [keyStream]
  | .mma _ _ _ _ _ _ | .mconv _ _ _ _ _ _ | .mldacc _ _ | .mstacc _ _ | .cpy _ _ _ | .cpysh _ _ _ _ =>
    keyStream :: resumed
  | .mzero _ => resumed
  | .halt _ => []
  | .mmat _ _ _ x _ _ => keyStream :: resumed ++ if x = 6#3 then [keySh 4] else []
  | .xput _ _ _ | .xget _ _ _ | .xdeal _ _ _ _ | .xmcast _ _ _ _ | .xred _ _ _ _ | .xhfill _ _ _ | .xhspill _ _ _
  | .xlsend _ _ _ _ | .xlrecv _ _ _ _ => [keyStream]
  | .eret => [keyCsr 0x00A, keyCsr 0x010, keyCsr 0x011, keyCsr 0x013]
  | .trap _ _ => [keyTrapvec]
  | .dbrk _ => if s.myLaunch.debugger then [] else [keyTrapvec]
  | i => (if privilegedOf i then [keyPtenant] else []) ++ windowDeps s i
where
  resumed : List Nat := if s.thr.resume then [keyCsr 0x00A] else []

/-- The bounded waits and JOIN let their slot go on 4 turns after the condition holds (Tables 8.8, 11.8). -/
def wakeHold : Instr → Nat
  | .semwait _ _ _ _ | .ringwait _ _ _ _ | .ringrsv _ _ _ _ | .mbxrecv _ _ _ _ | .join _ => 4
  | _ => 1

/-- Table 5.1 and the later tables of times, for the registers that the fields name, the active mask, formats, flags and the
generator. What a table does not give, and what leaves its slot to an event, has the time of one turn. -/
def fieldTiming (s : State) (i : Instr) : Timing :=
  match i with
  | .add d _ _ p _ _ | .sub d _ _ p _ _ | .and d _ _ p _ _ | .or d _ _ p _ _ | .xor d _ _ p _ _ | .andn d _ _ p _ _
  | .sll d _ _ p _ _ | .srl d _ _ p _ _ | .sra d _ _ p _ _ | .slt d _ _ p _ _ | .sltu d _ _ p _ _ | .min d _ _ p _ _
  | .max d _ _ p _ _ | .minu d _ _ p _ _ | .maxu d _ _ p _ _ | .clz d _ p _ | .popc d _ p _ =>
    timed .scalar 4 1 i (RegName.flagged p d).keys
  | .mul d _ _ p _ _ | .mulh d _ _ p _ _ => timed .scalar 8 1 i (RegName.flagged p d).keys
  | .div d _ _ p _ _ | .divu d _ _ p _ _ | .rem d _ _ p _ _ => timed .divider 24 8 i (RegName.flagged p d).keys
  | .addi d _ _ | .andi d _ _ | .ori d _ _ | .xori d _ _ | .slli d _ _ | .srli d _ _ | .srai d _ _ | .rori d _ _
  | .li d _ | .lih d _ _ => timed .scalar 4 1 i (keyG d)
  | .br _ => { timed .scalar 4 1 i [] with hold := 4 }
  | .jal _ => { timed .scalar 4 1 i (keyG 31#5) with hold := 4 }
  | .jalr d _ _ => { timed .scalar 4 1 i (keyG d) with hold := 4 }
  | .bz a _ => { timed .scalar 4 1 i [] with hold := if s.reg a = 0#64 then 4 else 1 }
  | .bnz a _ => { timed .scalar 4 1 i [] with hold := if s.reg a = 0#64 then 1 else 4 }
  | .ld d _ _ _ => timed .vault 6 1 i (keyG d)
  | .st _ _ _ _ => timed .vault 4 1 i []
  | .amoadd d _ _ _ | .amoswap d _ _ _ | .amoand d _ _ _ | .amoor d _ _ _ | .amoxor d _ _ _ | .amomin d _ _ _
  | .amomax d _ _ _ => timed .vault 10 2 i (keyG d)
  | .amocas d _ _ _ => timed .vault 10 2 i (keyG d) (keyG d)
  | .vld d _ _ t => timed .vault 8 1 i [keyV d.toNat] (vecDeps s t)
  | .vst _ _ _ t => timed .vault 4 1 i [] (vecDeps s t)
  | .vlds d _ _ t | .vgath d _ _ t =>
    timed .vault (8 + eighths (elemsOf s t)) (eighths (elemsOf s t)) i [keyV d.toNat] (vecDeps s t)
  | .vsts _ _ _ t | .vscat _ _ _ t => timed .vault 4 (eighths (elemsOf s t)) i [] (vecDeps s t)
  | .vldsh d a _ =>
    let n := recordElems s a
    let w := keyV d.toNat :: if n = 256 then [keyV (d.toNat + 1)] else []
    timed .vault (10 + eighths n) (eighths n) i w (keyAmask :: keyM s.slotHere.amask)
  | .vstsh d a _ =>
    let n := recordElems s a
    timed .vault 4 (eighths n) i [keyFlags]
      (keyAmask :: keyM s.slotHere.amask ++ if n = 256 then [keyV (d.toNat + 1)] else [])
  | .vadd d _ _ t | .vsub d _ _ t | .vmin d _ _ t | .vmax d _ _ t | .vand d _ _ t | .vor d _ _ t | .vxor d _ _ t
  | .vandn d _ _ t | .vsll d _ _ t | .vsrl d _ _ t | .vsra d _ _ t | .vsel d _ _ t | .vslup d _ _ t | .vsldn d _ _ t
  | .vbcast d _ _ t | .vsplt d _ t => vecTimed 4 1 s i d t
  | .vadds d _ _ t | .vsubs d _ _ t => timed .vector 4 1 i [keyV d.toNat, keyFlags] (vecDeps s t)
  | .vins d _ _ t => { timed .vector 4 1 i [keyV d.toNat] with reads := keySh t.toNat :: namedKeys i }
  | .vext _ a _ t => timed .vector 4 1 i (keyG a) [keySh t.toNat]
  | .vcmp d _ _ t _ => timed .vector 4 1 i (keyM d ++ [keyFlags]) (vecDeps s t)
  | .vmand d _ _ | .vmor d _ _ | .vmxor d _ _ | .vmandn d _ _ | .vmnot d _ => timed .vector 4 1 i (keyM d)
  | .vmul d _ _ t | .vmulh d _ _ t | .vperm d _ _ t | .vshuf d _ _ t | .vcmpr d _ t | .vpopc d _ t | .viota d _ t =>
    vecTimed 6 2 s i d t
  | .vrsum d _ t | .vrmax d _ t | .vrmin d _ t =>
    if fmtIsInt (s.fmt t) then vecTimed 12 4 s i d t else floatTimed 12 4 s i [keyV d.toNat] t
  | .vhist d _ t => { vecTimed 12 4 s i d t with reads := namedKeys i ++ vecDeps s t }
  | .vfmin d _ _ t | .vfmax d _ _ t => exactTimed (7 + passesOf s t) (passesOf s t) s i [keyV d.toNat] t
  | .vfadd d _ _ t | .vfsub d _ _ t | .vfmul d _ _ t =>
    floatTimed (7 + passesOf s t) (passesOf s t) s i [keyV d.toNat] t
  | .vfma d _ _ t | .vfms d _ _ t | .vfnma d _ _ t | .vfnms d _ _ t =>
    { floatTimed (7 + passesOf s t) (passesOf s t) s i [keyV d.toNat] t with
      reads := namedKeys i ++ vecDeps s t ++ drawDeps s t }
  | .vexp2 d _ t | .vlog2 d _ t | .vrcp d _ t | .vrsq d _ t | .vtanh d _ t | .vsigm d _ t =>
    floatTimed (15 + passesOf s t) (2 * passesOf s t) s i [keyV d.toNat] t
  | .vcvt d _ _ sf t =>
    let x := floatTimed 6 1 s i [keyV d.toNat] t
    { x with reads := keySh sf.toNat :: x.reads }
  | .vxpnd d _ _ _ t | .vord d _ t | .vunord d _ t => vecTimed 6 1 s i d t
  | .vqmx d _ b t => floatTimed 20 8 s i [keyV d.toNat, keyV b.toNat] t
  | .vdqmx d _ _ t => exactTimed 20 8 s i ((List.range 8).map (fun j => keyV (d.toNat + j))) t
  | .shrd n a => timed .scalar 4 1 i (keyG a) [keySh n.toNat]
  | .shwr n _ => timed .scalar 4 1 i [keySh n.toNat]
  | .amsel _ => { timed .scalar 4 1 i [keyAmask] with reads := [] }
  | .vmrd _ a b => timed .scalar 4 1 i (keyG a ++ keyG b)
  | .vmwr m _ _ => timed .scalar 4 1 i (keyM m)
  | .rng a => timed .scalar 8 1 i (keyG a ++ [keyRng]) [keyRng]
  | .rngkey _ => timed .scalar 8 1 i [keyRng]
  | .vrng d k t =>
    timed .vector 12 (if k = 0#5 then 4 else 8) i [keyV d.toNat, keyRng] (keyRng :: vecDeps s t)
  | .fork d _ _ _ | .send d _ _ | .spawn d _ _ | .migrate d _ | .rupd d _ _ _ _ | .mbxsend d _ _
  | .digest d | .captake d _ => timed .scalar 4 1 i (keyG d)
  | .ssel d _ => timed .scalar 4 1 i (keyG d ++ [keyStream])
  | .capgive d _ _ => timed .scalar 4 1 i (keyG d)
  | .semsig _ _ _ c | .semset _ _ _ c => timed .scalar 4 1 i (keyG c)
  | .ringadvHead d _ _ | .ringadvTail d _ _ | .ringadvRead d _ => timed .scalar 4 1 i (keyG d)
  | .csrr d c => timed .scalar 4 1 i (keyG d) [keyCsr c.toNat]
  | .csrw _ c => timed .scalar 4 1 i [keyCsr c.toNat]
  | .csrset _ c | .csrclr _ c => timed .scalar 4 1 i [keyCsr c.toNat] [keyCsr c.toNat]
  | .selsub _ _ b _ | .redsub _ _ b _ => { reads := namedKeys i, hold := 6 + ((s.reg b).toNat % 2 ^ 16 + 31) / 32 }
  | .umsub _ _ c => { reads := namedKeys i, hold := 6 + ((s.reg c).toNat % 2 ^ 16 + 31) / 32 }
  | .sjoin _ _ _ | .umcommit _ _ _ | .umdirty _ _ _ | .umstateConfigure _ _ _ | .umstateStatus _ _ _
  | .umstateMask _ _ _ | .umstateRelease _ _ _ | .capq _ _ => { reads := namedKeys i, hold := 6 }
  | .selget _ _ b =>
    let items := ((s.dev s.actor.tid).finRes.find ((s.reg b).toNat % 64)).elim 0 (fun r => r.items.length)
    { reads := namedKeys i, hold := 8 + (items + 31) / 32 }
  | i => { reads := namedKeys i, hold := wakeHold i }

/-- The time of an instruction, with all that it reads (R105). DESIGN CHOICE, log entry 123. -/
def timingOf (s : State) (i : Instr) : Timing :=
  let tm := fieldTiming s i
  { tm with reads := tm.reads ++ hiddenReads s i }

/-- What the writer `i` leaves standing in part: FLAGS and a queue register, which it adds to; a vector register written under
a mask or in part; a mask that VCMP writes. It is ready only when the earlier producer's part is too (R105). -/
def keepsPart (s : State) (i : Instr) (r : Nat) : Bool :=
  r == keyFlags || (decide (32 ≤ r) && decide (r < 36)) ||
  (decide (64 ≤ r) && decide (r < 192) && match i with
    | .vcvt _ _ _ _ _ | .vldsh _ _ _ | .vqmx _ _ _ _ => true
    | .vrsum _ _ _ | .vrmax _ _ _ | .vrmin _ _ _ | .vcmpr _ _ _ | .vpopc _ _ _ | .vsel _ _ _ _ => false
    | _ => s.slotHere.amask != 0#3) ||
  (decide (192 ≤ r) && decide (r < 200) && match i with
    | .vcmp _ _ _ _ _ => true
    | _ => false)

/-- An instruction that a full or empty queue, a full completion table, a full engine queue or the slot's link transfer keeps
from issuing (R39, R138, R188, R197): where the turn leaves its thread as it was, it has not issued. -/
def mayStall : Instr → Bool
  | .add _ _ _ _ _ _ | .sub _ _ _ _ _ _ | .and _ _ _ _ _ _ | .or _ _ _ _ _ _ | .xor _ _ _ _ _ _ | .andn _ _ _ _ _ _
  | .sll _ _ _ _ _ _ | .srl _ _ _ _ _ _ | .sra _ _ _ _ _ _ | .mul _ _ _ _ _ _ | .mulh _ _ _ _ _ _ | .div _ _ _ _ _ _
  | .divu _ _ _ _ _ _ | .rem _ _ _ _ _ _ | .slt _ _ _ _ _ _ | .sltu _ _ _ _ _ _ | .min _ _ _ _ _ _ | .max _ _ _ _ _ _
  | .minu _ _ _ _ _ _ | .maxu _ _ _ _ _ _ | .clz _ _ _ _ | .popc _ _ _ _ | .mma _ _ _ _ _ _ | .mmat _ _ _ _ _ _
  | .mconv _ _ _ _ _ _ | .mzero _ | .mldacc _ _ | .mstacc _ _ | .cpy _ _ _ | .cpysh _ _ _ _ | .xput _ _ _ | .xget _ _ _
  | .xdeal _ _ _ _ | .xmcast _ _ _ _ | .xred _ _ _ _ | .xhfill _ _ _ | .xhspill _ _ _ | .xlsend _ _ _ _
  | .xlrecv _ _ _ _ => true
  | _ => false

end Sys2Proof.Machine
end

