-- ==== Sys2Proof/Machine/Turns.lean ====
section
/-! DEFINITION. Whose turn it is, and what a turn does: the rotation of a core, the fetch, the decoding, the repeat frame
(spec/03_encoding.md R55, R65, R70; spec/05_scalar_vector.md R105; spec/10_progress.md R216, R217, R221, R239). The slots
of a core issue in the order of R216 and R217; the order of the turns of different cores, and of the steps of other agents,
is left open (R155, R175, R255): it is the agenda's, or a free choice. -/

namespace Sys2Proof.Machine

/-- The word `w` runs in the thread whose turn it is: as it stands, or staggered inside a repeat frame (R70). A captured
word that is no longer the one REP checked, or that a frame rebuilt by ERET reaches unchecked, runs as what it is: a prefix, a
branch or a REP too. DESIGN CHOICE, log entry 135. -/
def runWord (w : IWord) (s : State) : Out :=
  match decode w with
  | .error _ => Sys2Proof.Machine.execIllegalInstructionWord w s
  | .ok i =>
    match s.thr.frame with
    | none => exec i s
    | some f =>
      match staggered f f.k i with
      | none => Sys2Proof.Machine.execIllegalInstructionWord w s
      | some j => exec j s

/-- The instruction of the thread whose turn it is: the word a prefix waits for (R65), else the word at PC (R55). -/
def runThread (s : State) : Out :=
  if s.thr.pfx.isSome then runWord s.thr.pfxWord s
  else match fetchHere s s.thr.pc with
    | .ok w => runWord w s
    | _ => exec .instructionFetchFault s

/-- The instruction that the thread whose turn it is would run, none where no word of it is one. -/
def nextInstr (s : State) : Option Instr :=
  let word : Option IWord :=
    if s.thr.pfx.isSome then some s.thr.pfxWord
    else match fetchHere s s.thr.pc with
      | .ok w => some w
      | _ => none
  word.bind (fun w => match decode w with
    | .error _ => none
    | .ok i => match s.thr.frame with
      | none => some i
      | some f => staggered f f.k i)

/-! ### Readiness (R105, R216) -/

/-- Where a core's rotation holds the times of the running thread, and those of the slot's level-0 thread. -/
def turnKey (s : State) : Nat := 16 * s.thr.level + s.actor.slot

/-- The times of a thread: those of another thread that had its place are gone (R222, R243). -/
def timesOf (ct : CoreTurn) (key : Nat) (th : Thread) : SlotTurn :=
  let x := ct.slots.get key {}
  if x.birth = th.birth then x else { birth := th.birth }

/-- The times of the running thread. -/
def threadTimes (ct : CoreTurn) (s : State) : SlotTurn := timesOf ct (turnKey s) s.thr

/-- The times of what the handlers of a slot share with its level-0 thread: all but the scalar registers (R222). -/
def sharedTimes (ct : CoreTurn) (s : State) : SlotTurn := timesOf ct s.actor.slot s.slotHere.thread

/-- When what a key names is ready: a scalar register is the thread's, a queue register the core's, the rest the slot's. -/
def readyAt (ct : CoreTurn) (s : State) (r : Nat) : Nat :=
  if r < 32 then (threadTimes ct s).ready.get r 0
  else if r < 36 then ct.ready.get r 0
  else (sharedTimes ct s).ready.get r 0

/-- Whether what an instruction reads is ready in turn `k`. -/
def keysReady (ct : CoreTurn) (s : State) (k : Nat) (keys : List Nat) : Bool :=
  keys.all (fun r => decide (readyAt ct s r ≤ k))

/-- Whether a slot is ready in a turn: not, or not for want of a unit, or it is. -/
inductive Readiness where
  | no
  | waits (u : ExecUnit)
  | yes
  deriving DecidableEq, Repr

/-- Whether a unit accepts an instruction in turn `k`. -/
def unitFree (ct : CoreTurn) (k : Nat) (u : ExecUnit) : Bool := decide (ct.ready.get u.key 0 ≤ k)

/-- The readiness of the thread whose turn it would be, in turn `k` of its core (R216). -/
def readiness (ct : CoreTurn) (k : Nat) (s : State) : Readiness :=
  let x := threadTimes ct s
  if !s.thr.live || s.thr.status != .ready || !(s.tenant s.actor.tid).phase.issues || decide (k < x.next) then .no
  else match nextInstr s with
    | none => .yes
    | some i =>
      let tm := timingOf s i
      if !keysReady ct s k tm.reads then .no
      else match tm.unit with
        | none => .yes
        | some u => if unitFree ct k u then .yes else .waits u

/-! ### What an issue leaves (R105) -/

/-- Frames of the core that the phase has taken a shadow or a copy of, all together. -/
def framesTaken (s : State) : Nat := s.here.shadows.length + s.here.copied.length

/-- The times with `keys` ready in turn `k` plus L; what the instruction keeps a part of is ready no sooner than it was. -/
def putReady (i : Instr) (b : State) (at' : Nat) (keys : List Nat) (m : TMap Nat) : TMap Nat :=
  keys.foldl (fun m r => m.set r (if keepsPart b i r then max (m.get r 0) at' else at')) m

/-- The times of one thread of a core changed. -/
def CoreTurn.modSlot (ct : CoreTurn) (key : Nat) (x : SlotTurn) : CoreTurn := { ct with slots := ct.slots.set key x }

/-- The times after the thread of `b` issued `i` in turn `k` and left `s`: L of what it wrote, O of its unit, the wait of
its slot; a first store to a frame holds the slot for the 16 cycles of the copy (Table 5.1). DESIGN CHOICE, log entry 123. -/
def noteIssue (k : Nat) (i : Instr) (b s : State) : State :=
  let tm := timingOf b i
  let hold := if framesTaken b < framesTaken s then max 16 tm.hold else tm.hold
  let put := putReady i b (k + tm.lat)
  let ct := s.rot.get b.actor.core {}
  let ready := put (tm.writes.filter (fun r => 32 ≤ r && r < 36)) ct.ready
  let ct := { ct with
    ready := match tm.unit with
      | none => ready
      | some u => ready.set u.key (k + tm.occ) }
  let x := sharedTimes ct b
  let ct := ct.modSlot b.actor.slot { x with ready := put (tm.writes.filter (36 ≤ ·)) x.ready }
  let y := threadTimes ct b
  let ct := ct.modSlot (turnKey b) { y with ready := put (tm.writes.filter (· < 32)) y.ready, next := k + hold }
  { s with rot := s.rot.set b.actor.core ct }

/-- A trap was taken, or the thread is gone: nothing of the instruction is on its way. -/
def trapTaken (b s : State) : Bool := (s.slotOf b.actor).h && !b.slotHere.h || (s.slotOf b.actor).top.birth != b.thr.birth

/-- The turn of a ready slot: none where an instruction has found a queue full or empty and has not issued (R39, R138,
R188). -/
def issueTurn (k : Nat) (s : State) : Option Out :=
  match runThread s with
  | .next t =>
    match nextInstr s with
    | none => some (.next t)
    | some i =>
      if mayStall i && (t.slotOf s.actor).top == s.thr && (t.slotOf s.actor).h == s.slotHere.h then none
      else some (.next (if trapTaken s t then t else noteIssue k i s t))
  | o => some o

/-! ### The rotation (R216, R217) -/

/-- The tenant that holds slot `n` of core `c` (R217, R377). -/
def slotHolder (s : State) (c n : Nat) : Option Nat :=
  (s.cur.find? (fun d => (d.2.core c).share.slots.getLsbD n)).map (·.1)

/-- MODE.DET of the thread in a slot (R217). -/
def slotDet (s : State) (p : Party) : Bool := (s.launchOf (s.slotOf p).top.launch).det

/-- A turn that passes: to the first of the slots `ns` that is a throughput slot and is ready, but to none that needs the
unit its owner waits for (R217). -/
def passTurn (ct : CoreTurn) (k c : Nat) (avoid : Option ExecUnit) (s : State) : List Nat → Out
  | [] => .next s
  | n :: rest =>
    match slotHolder s c n with
    | none => passTurn ct k c avoid s rest
    | some t =>
      let b := { s with actor := { tid := t, core := c, slot := n } }
      let unit := ((nextInstr b).map (timingOf b)).bind (·.unit)
      if slotDet s b.actor || readiness ct k b != .yes || (avoid.isSome && unit == avoid) then passTurn ct k c avoid s rest
      else match issueTurn k b with
        | some o => o
        | none => passTurn ct k c avoid s rest

/-- The rest of a YIELD, or of annulled positions, after one turn given up (R67, R239). -/
def yieldOnce (n : Nat) (s : State) : State :=
  wait (if n ≤ 1 then .ready else .yielding (n - 1)) s

/-- The next turn of a core: turn k belongs to slot k mod N (R216); where its owner does not issue, it stays empty or it
passes (R217). DEDUCED, log entry 124. DESIGN CHOICE, log entry 153. -/
def coreTurn (c : Nat) (s : State) : Out :=
  let ct := s.rot.get c {}
  let k := ct.turn
  let N := slotCount s c
  let n := k % N
  let others := (List.range (N - 1)).map (fun j => (n + 1 + j) % N)
  let s := { s with rot := s.rot.set c { ct with turn := k + 1 } }
  match slotHolder s c n with
  | none => passTurn ct k c none s others
  | some t =>
    let b := { s with actor := { tid := t, core := c, slot := n } }
    let given (avoid : Option ExecUnit) (s : State) : Out :=
      if slotDet s b.actor then .next s else passTurn ct k c avoid s others
    if !b.thr.live then .next s
    else match b.thr.status with
      | .yielding m => given none (if (s.tenant t).phase.issues then yieldOnce m b else s)
      | _ => match readiness ct k b with
        | .no => given none s
        | .waits u => given (some u) s
        | .yes => match issueTurn k b with
          | some o => o
          | none => given none s

/-! ### Waits that end, slots that stop (R180, R221, R354) -/

/-- The slot's launch is to stop for a debug hold, and the thread stands between two instructions (R354), no thread of the slot in
a repeat frame, which cannot span a commit (R71). DEDUCED, log entry 137. -/
def stopsHere (s : State) : Bool :=
  let th := s.thr
  (s.tenant s.actor.tid).draining && (s.tenant s.actor.tid).stopping.contains th.launch && th.pfx.isNone &&
    s.slotHere.allThreads.all (fun x => x.frame.isNone) &&
    match th.status with
    | .ready | .waiting _ | .yielding _ => true
    | _ => false

/-- The condition that the thread waits for holds (R147, R180, R183, R200, R237, R238). -/
def waitOver (s : State) : Bool :=
  match s.thr.status with
  | .waiting i => match boundedOf i s with
    | some b => b.holds
    | none => match i with
      | .join a => s.sem a.toNat == 0#32
      | .quit | .xend => slotQuiet s
      | _ => false
  | .fenced i n => match i with
    | .mwait => !matrixOpen s.here n
    | .fence => !loopOpen s s.here n
    | .qfence q => !queueOpen q s.here n
    | _ => false
  | _ => false

/-- The thread in a slot is to stop or to go on at once. DEDUCED, log entry 57. -/
def wakes (p : Party) (s : State) : Bool :=
  let s := { s with actor := p }
  s.thr.live && (s.tenant p.tid).phase.issues && (stopsHere s || waitOver s)

/-- A held thread goes on in the cycle in which its condition holds, with what the condition's state gives it (R180, R181);
one that a debug hold stops, stops, and forgoes no further turn. DEDUCED, log entry 57. DESIGN CHOICE, log entry 159. -/
def wakeSlot (p : Party) (s : State) : Out :=
  if !wakes p s then .next s
  else
    let b := { s with actor := p }
    let s := b
    if stopsHere s then .next (wait (.stopped s.exchange) s)
    else
      let hold (i : Instr) (s : State) : State :=
        let ct := s.rot.get p.core {}
        let x := threadTimes ct b
        { s with rot := s.rot.set p.core (ct.modSlot (turnKey b) { x with next := max x.next (ct.turn + wakeHold i - 1) }) }
      match s.thr.status with
      | .waiting i => match boundedOf i s with
        | some b => .next (hold i (retire (b.pass s)))
        | none => match exec i s with
          | .next t => .next (hold i t)
          | o => o
      | .fenced i _ => exec i s
      | _ => .next s

/-- A tenant in throughput mode that issues: what waits for a slot is taken at once (R221, R222, R236). -/
def atOnce (t : Nat) (s : State) : Bool := (s.tenant t).phase.issues && !tenantDet s t

/-- An arrival of level 1 to 3 can be dispatched at once (R222). -/
def preempts (t c : Nat) (s : State) : Bool := atOnce t s && (dispatchHandler t c s).isSome

/-- A packet or an arrival of level 0 waits for a slot that is free (R221). -/
def assignable (t c : Nat) (s : State) : Bool :=
  atOnce t s && !s.exchange && !(freeSlots s t c).isEmpty && (!(waitingPackets s t c).isEmpty || !(arrivalsOf s t c 0).isEmpty)

/-- A continuation can be taken at once in throughput mode (R236). -/
def takeable (t c : Nat) (s : State) : Bool :=
  (s.tenant t).phase.issues && noArrivalWaits s t c && (takeNow t c s).isSome

/-- One move: a core's turn, or a step of an agent. An instruction with a word runs in a turn only. -/
def move (m : Mover) (s : State) : Out :=
  match m with
  | .turn c => coreTurn c s
  | .wake p => wakeSlot p s
  | .assign t c => .next (if assignable t c s then slotFreed t c s else s)
  | .event e => if e.hasWord then .next s else exec e s
  | .matrixUnit t c => .next (matrixUnit t c s)
  | .copyUnit t c => .next (copyQueueUnit t c s)
  | .portLanding t c => .next (portLanding t c s)
  | .farBinding port far => .next (farBinding port far s)
  | .farStop port i => .next (farStop port i s)
  | .lostMigration t port => execSmigrateReply t port 3 0#18 s
  | .deadPort port => execPortDown port s
  | .hotDie die => execThermalHold die s
  | .trip die => execThermalTrip die s
  | .keepPreempt t area level => .next (keepPreempt t area level s)
  | .sendFlit t => .next (sendFlit t s)

/-! ### The parties that may move -/

/-- The slot's thread may take a turn. -/
def Slot.turns (x : Slot) : Bool :=
  x.top.live && match x.top.status with
    | .ready | .yielding _ => true
    | _ => false

/-- The moves of one slot of a core: the end of a bounded wait, the steps of a request. -/
def slotMovers (t c n : Nat) (x : Slot) : List Mover :=
  (x.allThreads.flatMap (fun th => match th.status with
    | .asking r => match r.instr with
      | .tqpush _ _ _ _ | .tqdec _ _ => [Mover.event (.taskTableRequest t c n), .event (.taskTableReply t c n)]
      | .xhld _ _ _ => [.event (.hbmAccessComplete t c n 0#64)]
      | i => if privilegedOf i then [.event (.streamTableRequest t c n), .event (.privilegedOperationReply t c n)]
             else [.event (.streamTableRequest t c n), .event (.streamTableReply t c n)]
    | .barrier r k _ => [.event (.xbarRelease t r k)]
    | _ => [])) ++
  match x.top.status with
  | .waiting _ => [.event (.waitExpired t c n)]
  | _ => []

/-- The moves of the engines and queues of one core. -/
def coreMovers (t c : Nat) (k : TCore) : List Mover :=
  (if k.slots.any (fun p => p.2.turns) then [.turn c] else []) ++
  (k.slots.flatMap (fun p => slotMovers t c p.1 p.2)) ++
  (k.xq.flatMap (fun x => [.event (.exchangeUnitLanding t c x.id), .event (.transferComplete t c x.id)])) ++
  (k.links.flatMap (fun x => [.event (.linkTransferComplete t c x.slot), .event (.linkTimeout t c x.slot)])) ++
  (if k.mq.isEmpty then [] else [.matrixUnit t c, .event (.matrixOpComplete t c)]) ++
  (if k.cq.isEmpty then [] else [.event (.copyComplete t c)]) ++
  (if k.cq.isEmpty && k.xq.all (·.injected) then [] else [.copyUnit t c]) ++
  (if k.port.isEmpty then [] else [.portLanding t c]) ++
  (if k.sendq.isEmpty then []
   else [.event (.messageAccept t c), .event (.mailboxDelivery t c), .event (.spillFullRecord t c)]) ++
  (k.updates.zipIdx.map (fun p => .event (.remoteUpdateApply t c p.2)))

/-- The moves of one tenant. -/
def tenantMovers (s : State) (t : Nat) : List Mover :=
  let d := s.dev t
  (d.cores.flatMap (fun p => coreMovers t p.1 p.2)) ++
  [.event (.budgetExpiry t), .event (.capabilityMessageDelivery t), .event (.sharingCountRaise t),
   .event (.referenceRelease t), .event (.finialRound t)] ++
  (d.seqs.map (fun p => .event (.oculusRound t p.1)))

/-- Every move of the device itself that may be due; what the host, the links and the sensors do comes by the agenda.
DESIGN CHOICE, log entry 6. -/
def movers (s : State) : List Mover :=
  .event .phaseBoundary ::
    ((s.tenants.flatMap (fun p => tenantMovers s p.1)) ++
     (if s.launches.isEmpty then [] else [.event .launchComplete]) ++
     (s.host.queues.map (fun p => .event (.queueEntryFetch p.1))) ++
     (if s.saves.any (fun p => !p.2.complete) then [.event .contextSaveComplete] else []) ++
     (if s.host.attests.isEmpty then [] else [.event .attestationReportDone]) ++
     ((s.dies.filter (fun p => decide (10 ≤ p.2.hot))).map (fun p => .hotDie p.1)))

/-- The event of a host command by its code (Table 20.3). -/
def commandEvent (op : Nat) : Instr :=
  match op with
  | 0 => .launch | 1 => .preempt | 2 => .restore | 3 => .hold | 4 => .release | 5 => .attest | 6 => .register
  | 7 => .unregister | 8 => .debug | 9 => .create | 10 => .destroy | 11 => .bindvf | 12 => .bindlink | 13 => .importkey
  | _ => .warm

/-- What comes at once on a core of a tenant: a wait that is over, a slot that stops, a SPILL_FULL entry, an arrival, a packet
or a continuation that a slot can take (R180, R219, R221, R222, R236, R354). -/
def forcedOn (s : State) (t c : Nat) (k : TCore) : Option Mover :=
  match k.slots.find? (fun q => wakes { tid := t, core := c, slot := q.1 } s) with
  | some q => some (.wake { tid := t, core := c, slot := q.1 })
  | none =>
    if k.sendq.any (fun m => m.retries == 256) then some (.event (.spillFullRecord t c))
    else if preempts t c s then some (.event (.handlerPreemption t c))
    else if assignable t c s then some (.assign t c)
    else if takeable t c s then some (.event (.continuationTake t c))
    else none

/-- The loss of power at 115 degrees, and the thermal hold of a die that has stayed at 105 degrees (R390). -/
def thermalMove (s : State) : Option Mover :=
  match (if s.powered then s.dies.find? (fun d => decide (115 ≤ d.2.temp)) else none), s.dies.find? (fun d => decide (10 ≤ d.2.hot)) with
  | some d, _ => some (.trip d.1)
  | none, some d => if s.tenants.all (fun p => p.2.thermal) then none else some (.hotDie d.1)
  | none, none => none

/-- A migration whose port has gone down completes in the first exchange phase in which its tenant runs (R385). -/
def lostMove (s : State) : Option Mover :=
  if !s.exchange then none
  else s.tenants.findSome? (fun p =>
    if p.2.phase.issues then ((s.dev p.1).moves.find? (moveLost s)).map (fun m => .lostMigration p.1 m.port) else none)

/-- A port that has failed 64 consecutive replays goes down (R383). DEDUCED, log entry 43. -/
def portFailed (s : State) : Option Mover :=
  (s.ports.find? (fun p => p.2.up && decide (64 ≤ p.2.fails))).map (fun p => .deadPort p.1)

/-- What comes before anything else: the sensors' due (R390); a port that has failed (R383); PREEMPT and HOLD when they are fetched; then, while a boundary
runs, the host's commands in their order, and its end (R376); then a replica's flit (R364), a migration that has failed (R385)
and what comes at once on some core. DESIGN CHOICE, log entry 6, 146. -/
def forcedMove (s : State) : Option Mover :=
  match (thermalMove s).or (portFailed s), s.host.cmds.find? urgent with
  | some m, _ => some m
  | none, some c => some (.event (commandEvent c.op.toNat))
  | none, none =>
    if s.opening then
      match s.host.due with
      | c :: _ => some (.event (commandEvent c.op.toNat))
      | [] => some (.event .phaseBoundary)
    else match s.tenants.find? (fun p => flitDue s p.1), lostMove s with
      | some p, _ => some (.sendFlit p.1)
      | none, some m => some m
      | none, none => s.cur.findSome? (fun d => d.2.cores.findSome? (fun p => forcedOn s d.1 p.1 p.2))

/-- The move that comes next and the state it moves in: one that must come now, the agenda's first, else a free choice
(R155, R175, R255). DESIGN CHOICE, log entry 6, 8. -/
def nextMove (s : State) : Mover × State :=
  match forcedMove s with
  | some m => (m, s)
  | none => match s.agenda with
    | m :: rest => (m, { s with agenda := rest })
    | [] => match movers s with
      | [m] => (m, s)
      | ms => (ms.getD (Config.choice s.tick % ms.length) (.event .phaseBoundary), s)

/-- Time passes before a move. DESIGN CHOICE, log entry 7. -/
def tickTock (s : State) : State := { s with tick := s.tick + 1, cycle := s.cycle + Config.elapsed s.tick }

/-- One step of the device: the next move (R4, R12, R216). -/
def stepOnce (s : State) : Out :=
  let (m, s) := nextMove s
  move m (tickTock s)

/-! ### A word placed for the next step -/

/-- Page 0 of core 0 in frame 0, writable and held by the core (Table 2.9). DESIGN CHOICE, log entry 10. -/
def placedCore : TCore :=
  { share := { slots := 1#16, acc := 0xFF#8, q := 0xF#4, ring := 0xFFFF#16, sem := 0xFFFFFFFF#32, arrq := 16, sendq := 16,
               deq := 16, tlb := 64, ct := 16, walk := 1, spill := 0 }
    slots := [(0, { thread := { live := true, launch := 1 } })]
    fm := [(0, mkFm 0 true true true false false 1 0 true 1), (1, fmReserve 1), (2, fmReserve 1)]
    allow := 2 }

/-- The state with a tenant, a launch and a thread whose next turn executes the word `w` at local address 0.
DESIGN CHOICE, log entry 10. -/
def placeWord (w : IWord) (s : State) : State :=
  let d : TenantDev := { cores := [(0, placedCore)], vault := Memory.writeBytes [] 0 (bytesOfWord w) }
  { s with
    agenda := [.turn 0]
    rot := s.rot.set 0 {}
    cur := s.cur.set 1 d, com := s.com.set 1 d
    tenants := s.tenants.set 1 { permit := BitVec.allOnes 32 }
    launches := s.launches.set 1
      { tid := 1, priv := true, feats := BitVec.allOnes 32, tmode := 3, cores := [0], slots := 1#16, starts := 1#16, lanes := [0] }
    opening := false
    host := { s.host with cmds := [], due := [] }
    powered := true, started := true }

end Sys2Proof.Machine
end

