-- ==== Sys2Proof/Machine/Step.lean ====
section
/-! DEFINITION. One step of the device, and the placement of a word for the next step (spec/01_machine.md R12;
spec/03_encoding.md R55). -/

namespace Sys2Proof.Machine

/-- One step: the next party moves. -/
def step (s : State) : Host.Outcome State Fault Refusal := stepOnce s

/-- The state whose next step fetches and runs the instruction with the bits `w` (the first `nbits` of them).
DESIGN CHOICE, log entry 10. -/
def State.withFetchWord (s : State) (nbits w : Nat) : State := placeWord (BitVec.ofNat 32 (w % 2 ^ nbits)) s

end Sys2Proof.Machine
end

