-- ==== Sys2Proof/Safety.lean ====
section
/-! DEFINITION. The terms in which claims about the Molden are stated: memories in canonical form, an instruction that
issues, and how little a step changes (spec/02_state.md R47; spec/03_encoding.md R62; spec/07_ordering.md R156;
spec/18_recovery.md R348). -/

namespace Sys2Proof.Machine

/-! ### Canonical memories -/

/-- The memories of one tenant are in canonical form. -/
def TenantDev.memWf (d : TenantDev) : Bool := d.vault.wf && d.ctl.wf

/-- Every memory of the device is in canonical form: HBM, the host's memory, the vaults and control pages of the current
and the committed view of every tenant, those of the saved contexts and those that the images stand for. -/
def State.memWf (s : State) : Bool :=
  s.hbm.wf && s.hostMem.wf && s.cur.all (fun p => p.2.memWf) && s.com.all (fun p => p.2.memWf) &&
    s.saves.all (fun p => p.2.dev.memWf) && s.images.all (fun v => v.dev.memWf)

/-! ### Issue -/

/-- Instruction `i` issues in `s`: the thread whose turn it is may issue, and none of the checks 1 to 7 of Table 3.6 fails,
in their order: the fields, the features, the privilege, the phase class, the registers, the types, the records. -/
abbrev Issues (i : Instr) (s : State) : Prop :=
  s.mayIssue = true ∧ i.wf = true ∧ (featuresOf i).all (fun b => s.myLaunch.feats.getLsbD b) = true ∧
    ((privilegedOf i || highCsr i) = true → s.myLaunch.priv = true) ∧ classOk s (classOf i) = true ∧
    (regsUsed s i).all (regOk s) = true ∧ comboOk i = true ∧ check7 s i = .ok ()

/-- The instruction issues in `s`, has its effect, and `t` is the state after it. -/
abbrev Completes (i : Instr) (s t : State) : Prop := exec i s = .next t

/-- Instructions and events, one after another, lead from `s` to `t`. -/
def Run : List Instr → State → State → Prop
  | [], s, t => s = t
  | i :: is, s, t => ∃ u, exec i s = .next u ∧ Run is u t

/-! ### What Table 3.4 gives a word -/

/-- Bits `[lo + n - 1 : lo]` of a word. -/
def wordBits (w : BitVec 32) (lo n : Nat) : Nat := bitsOf w.toNat lo n

/-- The phase class of a word, by its major and function code (Table 3.4). -/
def tableClass (w : BitVec 32) : PhaseClass :=
  let m := wordBits w 26 6
  let f := wordBits w 0 6
  if 0x2B ≤ m ∧ m ≤ 0x2E then .exchange
  else if m = 0x2F then (if f = 0 then .compute else .exchange)
  else if (0x12 ≤ m ∧ m ≤ 0x22) ∨ (m = 0x23 ∧ f = 1) ∨ (0x24 ≤ m ∧ m ≤ 0x26) ∨ m = 0x2A ∨ (0x30 ≤ m ∧ m ≤ 0x32) ∨
      (m = 0x33 ∧ f = 0) ∨ (m = 0x34 ∧ f ≠ 8) ∨ m = 0x35 ∨ (m = 0x36 ∧ f ≠ 3) ∨ (m = 0x39 ∧ f ≠ 2) then .compute
  else .either

/-- The feature bits of a word (Tables 3.4 and 3.10). -/
def tableFeatures (w : BitVec 32) : List Nat :=
  let m := wordBits w 26 6
  let f := wordBits w 0 6
  if (0x15 ≤ m ∧ m ≤ 0x1C) ∨ m = 0x21 ∨ m = 0x22 then [1]
  else if m = 0x1D ∨ m = 0x1E then [2]
  else if m = 0x1F then [3]
  else if m = 0x20 then (if f % 8 = 1 ∨ f % 8 = 2 then [4, 7] else [4])
  else if m = 0x23 then [5]
  else if m = 0x24 then (if wordBits w 10 3 = 6 ∨ wordBits w 7 3 = 6 then [6, 7] else [6])
  else if m = 0x25 then [8]
  else if m = 0x26 then [6]
  else if m = 0x2B ∨ m = 0x2C ∨ (m = 0x2F ∧ f = 2) then [9]
  else if m = 0x2D then [10]
  else if m = 0x2E then [11]
  else if m = 0x30 ∨ m = 0x31 then [12]
  else if m = 0x32 then [13]
  else if m = 0x33 then [14]
  else if m = 0x34 then (if f = 7 then [15, 11] else [15])
  else if m = 0x35 then [16]
  else if m = 0x36 then [17]
  else if m = 0x39 then [18]
  else if m = 0x3A then [19]
  else [0]

/-- The privileged words: HALT, and the major of QUOTASET, KEYSEL and MODESET (R61). -/
def tablePrivileged (w : BitVec 32) : Bool :=
  wordBits w 26 6 == 0x3B || (wordBits w 26 6 == 0x38 && wordBits w 12 4 == 4)

/-! ### Results that the manual tabulates -/

/-- The ALU instructions of two sources with their results (Table 5.3, R107). -/
def twoSource : List ((BitVec 5 → BitVec 5 → BitVec 5 → BitVec 1 → BitVec 1 → BitVec 1 → Instr) × (Word → Word → Word)) :=
  [(.add, fun x y => x + y), (.sub, fun x y => x - y), (.and, fun x y => x &&& y), (.or, fun x y => x ||| y),
   (.xor, fun x y => x ^^^ y), (.andn, fun x y => x &&& ~~~y),
   (.sll, fun x y => x <<< (y.extractLsb' 0 6).toNat), (.srl, fun x y => x >>> (y.extractLsb' 0 6).toNat),
   (.sra, fun x y => x.sshiftRight (y.extractLsb' 0 6).toNat), (.mul, fun x y => x * y),
   (.mulh, fun x y => (x.signExtend 128 * y.signExtend 128).extractLsb' 64 64),
   (.div, fun x y => if y = 0#64 then BitVec.allOnes 64 else x.sdiv y),
   (.divu, fun x y => if y = 0#64 then BitVec.allOnes 64 else x / y),
   (.rem, fun x y => if y = 0#64 then x else x.srem y),
   (.slt, fun x y => if x.toInt < y.toInt then 1#64 else 0#64), (.sltu, fun x y => if x.toNat < y.toNat then 1#64 else 0#64),
   (.min, fun x y => if x.toInt ≤ y.toInt then x else y), (.max, fun x y => if x.toInt ≤ y.toInt then y else x),
   (.minu, fun x y => if x.toNat ≤ y.toNat then x else y), (.maxu, fun x y => if x.toNat ≤ y.toNat then y else x)]

/-- The ALU instructions of one source with their results (Table 5.3); they have no field b. -/
def oneSource : List ((BitVec 5 → BitVec 5 → BitVec 5 → BitVec 1 → BitVec 1 → BitVec 1 → Instr) × (Word → Word → Word)) :=
  [(fun d a _ p _ r => .clz d a p r, fun x _ => BitVec.ofNat 64 (if x = 0#64 then 64 else 63 - x.toNat.log2)),
   (fun d a _ p _ r => .popc d a p r, fun x _ => BitVec.ofNat 64 ((List.range 64).countP (fun i => x.getLsbD i)))]

/-- Draw `i` of an instruction that issues in `s`: half `i mod 2` of its word `i div 2` (R102). -/
def drawOf (s : State) (i : Nat) : Nat :=
  ((gen s.key0 s.key1 (s.slotHere.rngctr + BitVec.ofNat 64 (i / 2))).extractLsb' (32 * (i % 2)) 32).toNat

/-- The actor's slot after its generator has given `n` words (R102). -/
def tookWords (n : Nat) (s : State) : State := s.modSlot (fun x => { x with rngctr := x.rngctr + BitVec.ofNat 64 n })

/-! ### One rounding (R86 to R89) -/

/-- The magnitude that code `c` of float format `f` stands for, in units of 2^q, `q` at or below every code's last place; codes
run on above the largest finite one, the range of exponents being unbounded (R81, R86). -/
def magnitude (f : Nat) (q : Int) (c : Nat) : Nat :=
  if c / 2 ^ fracBits f = 0 then c * 2 ^ (leastExp f - q).toNat
  else (2 ^ fracBits f + c % 2 ^ fracBits f) * 2 ^ (leastExp f + (c / 2 ^ fracBits f : Nat) - 1 - q).toNat

/-- The value of a finite code with its sign, in units of 2^q. -/
def signedValue (f : Nat) (q : Int) (c : Nat) : Int :=
  if signBit f ≤ c then -(magnitude f q (c - signBit f) : Int) else magnitude f q c

/-- An exact magnitude, by how the fraction `n / d` compares with it. -/
abbrev Exact := Nat → Nat → Ordering

/-- The natural number `v`. -/
def exactly (v : Nat) : Exact := fun n d => compare n (v * d)

/-- `c` is the candidate that one rounding of the magnitude `x`, of a value with sign `neg`, takes in mode `md` (R86, R87),
and `inexact` says that the value is not it. `val` gives the candidates in their order; the even one is the one whose last bit
is 0. -/
def Rounds (val : Nat → Nat) (md draw : Nat) (neg : Bool) (x : Exact) (c : Nat) (inexact : Bool) : Prop :=
  ∃ a, x (val a) 1 ≠ .gt ∧ x (val (a + 1)) 1 = .gt ∧ inexact = (x (val a) 1 == .lt) ∧
    c = if x (val a) 1 = .eq then a
      else match md with
        | 0 => match x (val a + val (a + 1)) 2 with
          | .lt => a + 1
          | .gt => a
          | .eq => if a % 2 = 0 then a else a + 1
        | 1 => a
        | 2 => if neg then a else a + 1
        | 3 => if neg then a + 1 else a
        | _ => if x (val a * draw + val (a + 1) * (2 ^ 32 - draw)) (2 ^ 32) = .gt then a else a + 1

/-- `r` is what one rounding of a value that is not 0 gives in float format `f` (R86 to R89, Table 4.5): a value beyond the
largest finite one is not rounded by its draw; a result beyond it is saturated where `bounded`, else overflows. -/
def RoundedTo (f md draw : Nat) (bounded neg : Bool) (q : Int) (x : Exact) (r : Res) : Prop :=
  let top := maxCode f
  let md := if md = 4 ∧ x (magnitude f q top) 1 = .lt then 0 else md
  ∃ c inexact, Rounds (magnitude f q) md draw neg x c inexact ∧
    if c ≤ top then r.code = mkCode f neg c ∧
      r.flags = if inexact then (if c < 2 ^ fracBits f then flagNX ||| flagUF else flagNX) else 0#6
    else if bounded then r.code = mkCode f neg top ∧ r.flags = flagCL ||| flagNX ||| flagOF
    else r.flags = flagOF ||| flagNX ∧
      r.code = mkCode f neg (if md = 1 ∨ (md = 2 ∧ neg = true) ∨ (md = 3 ∧ neg = false) then top else (infCode f).getD top)

/-! ### The Finial's tree (R25, R273) -/

/-- The value of node `i` of a level: those of its present children combined in increasing order. `ns`: how many children a node
of this level has, and of each level below it; leaves have the values of `leaf`. -/
def nodeValue (op : Nat → Nat → Nat) (leaf : Nat → Option Nat) : List Nat → Nat → Option Nat
  | [], i => leaf i
  | n :: ns, i =>
    match (List.range n).filterMap (fun j => nodeValue op leaf ns (i * n + j)) with
    | [] => none
    | v :: vs => some (vs.foldl op v)

/-! ### What a step leaves alone -/

/-- Between `s` and `t` every byte of memory reads the same: the vaults and control pages of every tenant, HBM, and the
host's memory. -/
def SameBytes (s t : State) : Prop :=
  (∀ k a, (t.dev k).vault.read a = (s.dev k).vault.read a ∧ (t.dev k).ctl.read a = (s.dev k).ctl.read a) ∧
    (∀ a, t.hbm.read a = s.hbm.read a) ∧ ∀ a, t.hostMem.read a = s.hostMem.read a

/-- Nothing differs between `s` and `t` but what the actor's tenant holds in this phase: no committed state, no tenant
record, launch, key, page, port or host register, and nothing of another tenant. -/
def OnlyTenant (s t : State) : Prop :=
  { t with cur := s.cur } = s ∧ ∀ k, k ≠ s.actor.tid → t.dev k = s.dev k

/-- Nothing differs but what the actor's tenant holds on the actor's core: its slots, core registers and queues. -/
def OnlyCore (s t : State) : Prop :=
  OnlyTenant s t ∧ { t.dev s.actor.tid with cores := (s.dev s.actor.tid).cores } = s.dev s.actor.tid ∧
    (∀ c, c ≠ s.actor.core → t.coreOf s.actor.tid c = s.coreOf s.actor.tid c) ∧ SameBytes s t

/-- Nothing differs but the actor's slot: no semaphore, ring, queue register, accumulator, frame-map entry or queue of the
core, and no other slot. -/
def OnlySlot (s t : State) : Prop :=
  OnlyCore s t ∧ { t.here with slots := s.here.slots } = s.here ∧ ∀ n, n ≠ s.actor.slot → t.here.slot n = s.here.slot n

/-- Nothing differs but the running thread, its scalar registers and its progress: no vector, mask or shadow register, no
CSR, and no thread that it pre-empts. -/
def OnlyThread (s t : State) : Prop := OnlySlot s t ∧ t.slotHere = s.slotHere.setTop t.thr

/-- Of the running thread nothing differs but its scalar registers, its place in the program and its readiness. -/
def SameThread (s t : State) : Prop :=
  { t.thr with g := s.thr.g, pc := s.thr.pc, pfx := s.thr.pfx, frame := s.thr.frame, status := s.thr.status,
               resume := s.thr.resume } = s.thr

/-- `t` is `s` after a trap, or after the stop at a revoked frame (R319, R361). -/
def Diverted (s t : State) : Prop := (∃ tr, t = takeTrap tr s) ∨ ∃ a, t = lostStop a s

end Sys2Proof.Machine
end

