-- ==== Sys2Proof/Certificates/Slice0/Obligations.lean ====
section
/-! DEFINITION. What is claimed of the Molden model. Each statement names the rules of spec/ it formalises. An equation
`exec i s = .next t` says that the instruction completes and gives the whole state after it: every register, flag, special
register and byte of memory that `t` does not change stands. -/

open Sys2Proof Sys2Proof.Machine

/-! ### Encodings and the step -/

/-- Every well-formed instruction with a word decodes from its word, every operand with every value it may have. -/
def Obligations.EncodeDecode : Prop :=
  ∀ i : Instr, i.hasWord = true → i.wf = true → decode (encode i) = .ok i

/-- A word decodes to at most the one instruction whose encoding it is, bit for bit: no reserved field is ignored (R58). -/
def Obligations.WordDetermined : Prop :=
  ∀ (w : BitVec 32) (i : Instr), decode w = .ok i → i.hasWord = true ∧ i.wf = true ∧ encode i = w

/-- Words printed in the manual's examples (3.1, 5.3, 8.1, 8.2) decode to the instructions beside them. -/
def Obligations.DecodedWords : Prop :=
  ∀ wi ∈ ([(0x1C20000C#32, .li 1 12), (0x84004006#32, .shwr 0 1), (0x7000000E#32, .viota 0 0 1),
      (0x84088082#32, .vsplt 1 2 1), (0x60000029#32, .vsub 0 0 1 1), (0x80100020#32, .vcvt 2 0 0 1 0),
      (0x68082064#32, .vcmp 1 2 3 0 4), (0x88001005#32, .amsel 1), (0x74202042#32, .vfmul 4 2 2 0),
      (0x70284000#32, .vrsum 5 4 0), (0x8428C001#32, .vext 5 3 0 0), (0xBC000000#32, .sync), (0xBC000001#32, .xend),
      (0x40608021#32, .rep 0 1 1 2 2 1), (0x602001C0#32, .vadd 4 0 14 0), (0x602811E2#32, .vmul 5 1 15 0),
      (0xAC221903#32, .xmcast 1 2 3 4), (0x9C020B00#32, .semwait 0 2 1 12), (0xA1230082#32, .ringadvWrite 9 3),
      (0xA0A30A81#32, .ringrsv 5 3 1 10), (0x4CC56000#32, .st 6 5 3 0), (0xA0A30842#32, .ringadvTail 5 3 1),
      (0xA0E30A80#32, .ringwait 7 3 1 10), (0x49076000#32, .ld 8 7 3 0), (0xA0E30802#32, .ringadvHead 7 3 1),
      (0xFC013C40#32, .pfx 0x13C40), (0x04830800#32, .add 4 3 1 0 0 0), (0x04030400#32, .add 0 3 0 1 0 0),
      (0x08613456#32, .addi 3 1 0x3456), (0x2943000A#32, .cskipi 2 2 3 10), (0xBD480002#32, .xbar 10 8)] :
      List (BitVec 32 × Instr)), (decode wi.1).toOption = some wi.2

/-- Table 3.4: majors 0x00 and 0x3C to 0x3E hold no instruction, so a word with such a major in bits [31:26] traps as
ILLEGAL_INSTRUCTION with TRAPAUX [0] = 0 (R62); the word 0 traps with TRAPVAL 0 (R63). A fetch at a PC that does not translate
raises LOCAL_UNMAPPED with TRAPPC and TRAPVAL the PC (R55). -/
def Obligations.IllegalWords : Prop :=
  (∀ w : BitVec 32, w.extractLsb' 26 6 ∈ ([0x00, 0x3C, 0x3D, 0x3E] : List (BitVec 6)) → ∀ i, decode w ≠ .ok i) ∧
    (∀ (w : BitVec 32) (s : State), s.mayIssue = true → exec (.illegalInstructionWord w) s =
      .next (takeTrap { cause := .illegalInstruction, val := w.setWidth 64, aux := 0#64 } s)) ∧
    (∀ s : State, s.mayIssue = true → fetchFrom s s.actor.tid s.actor.core s.thr.pc = none →
      exec .instructionFetchFault s = .next (takeTrap { cause := .localUnmapped, val := s.thr.pc.setWidth 64 } s))

/-- A step runs the decoded instruction. Where nothing is forced and the agenda gives core `c` its next turn, number `k`, and
the slot `k mod N` of it (R216) holds a live thread that no YIELD keeps out and that is ready, the step is `exec` of the
instruction `j` that the word at PC decodes to (R55), of the word fetched with a prefix where one has issued (R65), or, inside a
repeat frame, of the word as its replay staggers it (R70). Around it the step passes time, counts the turn, and notes when what
`j` writes and uses is ready again (R105), unless a trap was taken. An instruction that a full or empty queue keeps from issuing
leaves its thread as it was: in a slot of a deterministic launch the turn is then empty (R217). -/
def Obligations.StepRunsDecoded : Prop :=
  ∀ (s0 s : State) (c : Nat) (p : Party) (rest : List Mover) (w : BitVec 32) (i j : Instr),
    forcedMove s0 = none → s0.agenda = .turn c :: rest →
    let ct := s0.rot.get c {}
    let s1 : State := { tickTock { s0 with agenda := rest } with rot := s0.rot.set c { ct with turn := ct.turn + 1 } }
    s = { s1 with actor := p } →
    p.core = c → p.slot = ct.turn % slotCount s1 c → slotHolder s1 c p.slot = some p.tid →
    s.thr.live = true → (∀ n, s.thr.status ≠ .yielding n) → readiness ct ct.turn s = .yes → decode w = .ok i →
    ((s.thr.pfx.isSome = true ∧ s.thr.pfxWord = w) ∨ (s.thr.pfx = none ∧ fetchHere s s.thr.pc = .ok w)) →
    ((s.thr.frame = none ∧ j = i) ∨ ∃ f, s.thr.frame = some f ∧ staggered f f.k i = some j) →
    let stalls (t : State) : Prop := mayStall j = true ∧ (t.slotOf p).top = s.thr ∧ (t.slotOf p).h = s.slotHere.h
    ((∀ t, exec j s = .next t → ¬ stalls t) →
      step s0 = match exec j s with
        | .next t => .next (if trapTaken s t then t else noteIssue ct.turn j s t)
        | o => o) ∧
    (∀ t, exec j s = .next t → stalls t → slotDet s p = true → step s0 = .next s1)

/-- The machine after start-up: CYCLE and PHASE are 0, so the first phase is a compute phase (R18, R386); no tenant, launch,
queue or binding, and of the key slots only slot 0 holds material, which no tenant owns (R305, R386); vaults and control pages
hold zeros. Every memory is in canonical form. -/
def Obligations.ResetState : Prop :=
  State.reset.cycle = 0#64 ∧ State.reset.phase = 0#64 ∧ State.reset.exchange = false ∧ State.reset.tenants = [] ∧
    State.reset.launches = [] ∧ State.reset.cur = [] ∧ State.reset.com = [] ∧ State.reset.host.queues = [] ∧
    State.reset.host.vf = [] ∧ State.reset.host.winBuf = [] ∧ State.reset.ports.all (fun p => p.2.chans.isEmpty) = true ∧
    State.reset.keys.all (fun k => k.1 == 0 && k.2.owner.isNone) = true ∧ State.reset.pageCnt = [] ∧
    (∀ t a, (State.reset.dev t).vault.read a = 0#8 ∧ (State.reset.dev t).ctl.read a = 0#8) ∧ State.reset.memWf = true

/-- Every step keeps every memory in canonical form: addresses strictly rising, no entry equal to what an unlisted address
reads as. -/
def Obligations.StepKeepsCanonical : Prop :=
  ∀ s t : State, s.memWf = true → step s = .next t → t.memWf = true

/-! ### Issue and traps -/

/-- Table 3.6, in its order, for every instruction with a word but the prefix (whose check is `Obligations.RepeatAndPrefix`):
the first check that fails raises its trap; PC and every register are as they were but for the trap's own entry (R62). What the
checks look at: the class, the features and the privilege that Table 3.4 and R61 give the instruction's word; the registers that
it names, of which a vector register must lie below the slot's count (R34), a core register belong to the tenant's share (R38),
and a mask that is written not be vm0 (R35), while a thread of level 1 to 3 has g0 to g8, semaphores and rings only (R222); and
the combinations of Table 6.1. -/
def Obligations.IssueOrder : Prop :=
  (∀ (i : Instr) (s : State), i.hasWord = true → (∀ p, i ≠ .pfx p) → s.mayIssue = true →
    let fails (c : Cause) (aux : Word) : Prop :=
      exec i s = .next (takeTrap { cause := c, val := trapWords s i, aux := aux } s)
    (i.wf = false → fails .illegalInstruction 0#64) ∧
    (i.wf = true →
      ((∃ b ∈ featuresOf i, s.myLaunch.feats.getLsbD b = false) → fails .illegalInstruction 1#64) ∧
      ((∀ b ∈ featuresOf i, s.myLaunch.feats.getLsbD b = true) →
        ((privilegedOf i || highCsr i) = true ∧ s.myLaunch.priv = false → fails .privilege 0#64) ∧
        (((privilegedOf i || highCsr i) = true → s.myLaunch.priv = true) →
          (classOk s (classOf i) = false → fails .phaseIllegal 0#64) ∧
          (classOk s (classOf i) = true →
            ((∃ r ∈ regsUsed s i, regOk s r = false) → fails .illegalRegister 0#64) ∧
            ((∀ r ∈ regsUsed s i, regOk s r = true) →
              (comboOk i = false → fails .typeCombo 0#64) ∧
              (comboOk i = true → ∀ t, check7 s i = .trap t → exec i s = .next (takeTrap t s)))))))) ∧
  (∀ i : Instr, i.hasWord = true → i.wf = true → classOf i = tableClass (encode i) ∧
    featuresOf i = tableFeatures (encode i) ∧ privilegedOf i = tablePrivileged (encode i)) ∧
  (∀ s : State,
    (∀ n, regOk s (.v n) = true ↔ s.thr.level = 0 ∧ n < s.vectorCount) ∧
    (∀ n, regOk s (.md n) = true ↔ s.thr.level = 0 ∧ n ≠ 0#3) ∧ (∀ n, regOk s (.m n) = true ↔ s.thr.level = 0) ∧
    (regOk s .sh = true ↔ s.thr.level = 0) ∧ (∀ n, regOk s (.g n) = true ↔ s.thr.level = 0 ∨ n.toNat ≤ 8) ∧
    (∀ n, regOk s (.acc n) = true ↔ s.thr.level = 0 ∧ s.here.share.acc.getLsbD n = true) ∧
    (∀ n, regOk s (.sem n) = true ↔ s.here.share.sem.getLsbD n = true) ∧
    (∀ n, regOk s (.ring n) = true ↔ s.here.share.ring.getLsbD n = true) ∧
    (∀ n, regOk s (.flagged 0#1 n) = regOk s (.g n)) ∧
    (∀ n, regOk s (.flagged 1#1 n) = true ↔ s.thr.level = 0 ∧ s.here.share.q.getLsbD (n.toNat % 4) = true)) ∧
  (∀ (d a b : BitVec 7) (t : BitVec 2),
    (∀ c ∈ ([.vadd, .vsub, .vmul, .vmulh, .vmin, .vmax, .vadds, .vsubs, .vand, .vor, .vxor, .vandn, .vsll, .vsrl, .vsra, .vperm,
        .vsel, .vshuf, .vfadd, .vfsub, .vfmul, .vfmin, .vfmax, .vfma, .vfms, .vfnma, .vfnms] :
        List (BitVec 7 → BitVec 7 → BitVec 7 → BitVec 2 → Instr)),
      regsOf (c d a b t) = [.v d.toNat, .v a.toNat, .v b.toNat]) ∧
    (∀ c ∈ ([.vslup, .vsldn, .vbcast] : List (BitVec 7 → BitVec 7 → BitVec 7 → BitVec 2 → Instr)),
      regsOf (c d a b t) = [.v d.toNat, .v a.toNat]) ∧
    (∀ c ∈ ([.vrsum, .vrmax, .vrmin, .vhist, .vcmpr, .vexp2, .vlog2, .vrcp, .vrsq, .vtanh, .vsigm, .vord, .vunord] :
        List (BitVec 7 → BitVec 7 → BitVec 2 → Instr)), regsOf (c d a t) = [.v d.toNat, .v a.toNat]) ∧
    regsOf (.vqmx d a b t) = [.v d.toNat, .v b.toNat] ++ (List.range 8).map (fun j => .v (a.toNat + j)) ∧
    regsOf (.vdqmx d a b t) = [.v a.toNat, .v b.toNat] ++ (List.range 8).map (fun j => .v (d.toNat + j)) ∧
    (∀ p k, regsOf (.vcvt d a p k t) = [.v d.toNat, .v a.toNat] ∧ regsOf (.vxpnd d a p k t) = [.v d.toNat, .v a.toNat]) ∧
    (∀ m k, regsOf (.vcmp m a b t k) = [.md m, .v a.toNat, .v b.toNat])) ∧
  (∀ (d : BitVec 7) (m n k : BitVec 3) (a b : BitVec 5) (t : BitVec 2),
    (∀ c ∈ ([.vld, .vst, .vlds, .vsts, .vins, .vext] : List (BitVec 7 → BitVec 5 → BitVec 5 → BitVec 2 → Instr)),
      regsOf (c d a b t) = [.v d.toNat, .g a, .g b]) ∧
    (∀ c ∈ ([.vgath, .vscat] : List (BitVec 7 → BitVec 5 → BitVec 5 → BitVec 2 → Instr)),
      regsOf (c d a b t) = [.v d.toNat, .g a, .v b.toNat]) ∧
    (∀ c ∈ ([.vldsh, .vstsh] : List (BitVec 7 → BitVec 5 → BitVec 5 → Instr)), ∀ s : State,
      regsUsed s (c d a b) = [.v d.toNat, .g a, .g b] ++ match shapeAt s ((s.reg a).setWidth 20) with
        | .ok r => if fmtIsMx r.fmt then [.v (d.toNat + 1)] else []
        | _ => []) ∧
    (∀ c ∈ ([.vpopc, .viota] : List (BitVec 7 → BitVec 3 → BitVec 2 → Instr)), regsOf (c d m t) = [.v d.toNat, .m m]) ∧
    (∀ c ∈ ([.vmand, .vmor, .vmxor, .vmandn] : List (BitVec 3 → BitVec 3 → BitVec 3 → Instr)),
      regsOf (c m n k) = [.md m, .m n, .m k]) ∧
    regsOf (.vmnot m n) = [.md m, .m n] ∧ regsOf (.vmwr m a b) = [.md m, .g a, .g b] ∧
    regsOf (.vmrd m a b) = [.m m, .g a, .g b] ∧ regsOf (.amsel m) = [.m m] ∧ regsOf (.vsplt d a t) = [.v d.toNat, .g a] ∧
    regsOf (.vrng d a t) = [.v d.toNat] ∧ regsOf (.shrd m a) = [.sh, .g a] ∧ regsOf (.shwr m a) = [.sh, .g a]) ∧
  (∀ (c x y : BitVec 3) (a b d e n : BitVec 5) (r : BitVec 4) (k p q u : BitVec 1),
    (∀ f ∈ ([.mma, .mmat, .mconv] : List (BitVec 3 → BitVec 5 → BitVec 5 → BitVec 3 → BitVec 3 → BitVec 1 → Instr)),
      regsOf (f c a b x y k) = [.acc c.toNat, .g a, .g b] ∧ (comboOk (f c a b x y k) = true ↔
        (k = 1#1 ∧ x.toNat < 2 ∧ y.toNat < 2) ∨ (k = 0#1 ∧ ((x.toNat / 2 = 1 ∧ y.toNat / 2 = 1) ∨ (x = 4#3 ∧ y = 4#3) ∨
          (x = 5#3 ∧ y = 5#3) ∨ (x = 6#3 ∧ y = 6#3 ∧ f c a b x y k = .mmat c a b x y k))))) ∧
    regsOf (.mzero c) = [.acc c.toNat] ∧ regsOf (.mldacc c a) = [.acc c.toNat, .g a] ∧
    regsOf (.mstacc c a) = [.acc c.toNat, .g a] ∧ regsOf (.join a) = [.sem a.toNat] ∧
    regsOf (.semwait d a n e) = [.sem a.toNat, .g d] ∧ regsOf (.semsig d a n e) = [.sem a.toNat, .g d, .g e] ∧
    regsOf (.semset d a n e) = [.sem a.toNat, .g d, .g e] ∧
    (∀ f ∈ ([.ringwait, .ringrsv] : List (BitVec 5 → BitVec 4 → BitVec 5 → BitVec 5 → Instr)),
      regsOf (f d r n e) = [.ring r.toNat, .g d]) ∧
    (∀ f ∈ ([.ringadvHead, .ringadvTail] : List (BitVec 5 → BitVec 4 → BitVec 5 → Instr)),
      regsOf (f d r n) = [.ring r.toNat, .g d]) ∧
    regsOf (.ringadvWrite d r) = [.ring r.toNat, .g d] ∧ regsOf (.ringadvRead d r) = [.ring r.toNat, .g d] ∧
    (∀ f ∈ twoSource, regsOf (f.1 d a b p q u) = [.flagged p d, .flagged u a, .flagged q b]) ∧
    regsOf (.clz d a p u) = [.flagged p d, .flagged u a] ∧ regsOf (.popc d a p u) = [.flagged p d, .flagged u a])

/-- Taking a trap. At level 0 with H = 0 and TRAPVEC set (R319): TRAPCAUSE, TRAPPC, TRAPVAL and TRAPAUX are written, H is 1,
PC is TRAPVEC[19:0]; a trap inside a frame adds replay and position to TRAPAUX (R71); no other register, slot, core or byte
changes; the thread keeps its registers, stream and level. While H = 1, while TRAPVEC[19:0] = 0, or in a handler of level 1 to
3 the thread ends (R320, R222): the slot of a level-0 thread is free, a handler's goes back to the thread below it, the
thread's join semaphore falls by one (R238), and the launch's fault record has one entry, or one drop, more; slots held for a
trap of SITOUT are released as after ERET (R215).
The model's choices here: a thread that ends by a trap releases the held slots too (log entry 140). -/
def Obligations.TrapEntry : Prop :=
  (∀ (s : State) (t : Trap), s.thr.level = 0 → s.slotHere.handlers = [] → s.slotHere.h = false →
    s.slotHere.trapvec.extractLsb' 0 20 ≠ 0#20 →
    let u := takeTrap t s
    let x := s.slotHere
    OnlySlot s u ∧
    u.slotHere = { x with
      cause := BitVec.ofNat 64 (t.cause.code + if t.res then 256 else 0)
      trappc := (t.pc.getD x.thread.pc).setWidth 64
      trapval := t.val
      trapaux := t.aux ||| (match x.thread.frame with
        | none => 0#64
        | some f => BitVec.ofNat 64 (f.k % 256 * 2 ^ 48 + f.i % 16 * 2 ^ 56 + 2 ^ 60))
      h := true
      thread := { x.thread with pc := x.trapvec.extractLsb' 0 20, status := .ready, pfx := none, frame := none,
                                resume := false } }) ∧
  (∀ (s : State) (t : Trap) (l : Launch),
    s.launches.find s.thr.launch = some l →
    (s.slotHere.handlers = [] ∧ s.thr.level = 0 ∧ (s.slotHere.h = true ∨ s.slotHere.trapvec.extractLsb' 0 20 = 0#20)) ∨
      (∃ th below, s.slotHere.handlers = th :: below ∧ th.level ≠ 0) →
    ∃ u, takeTrap t s = releaseHeld u ∧ u.actor = s.actor ∧
    (u.tenant s.actor.tid).trapped = (s.tenant s.actor.tid).trapped ∧
    u.slotHere = (match s.slotHere.handlers with
      | [] => { s.slotHere with thread := { g := s.thr.g, pc := s.thr.pc, stream := s.thr.stream }, h := false }
      | th :: below => { s.slotHere with
          handlers := below, banks := s.slotHere.banks.set th.level { g := th.g, pc := th.pc, stream := th.stream } }) ∧
    (∀ n, s.thr.join = some n → u.sem n = if s.sem n = 0#32 then 0#32 else s.sem n - 1#32) ∧
    ∃ m, u.launches.find s.thr.launch = some m ∧ m.failed = true ∧
      ((m.written = l.written + 1#32 ∧ m.dropped = l.dropped) ∨ (m.written = l.written ∧ m.dropped = l.dropped + 1#32)))

/-- ERET in a handler with TRAPPC a multiple of 4 clears H and goes on at TRAPPC; with TRAPCAUSE.RES and RPROG.ACT set the
thread carries the resume mark, else not (R321, R46). With TRAPAUX [60] = 1 it returns into the repeat frame whose REP stands
before TRAPPC's position in it, at the replay and position that TRAPAUX names (R71). Where the slot took a trap of SITOUT, the
slots of its core that are held go on, or back to their IDLE, once it was the last of them there (R215). ERET while H = 0, and
in a handler of level 1 to 3, raises ILLEGAL_INSTRUCTION; with TRAPPC[1:0] ≠ 0 it raises MISALIGNED with TRAPVAL = TRAPPC,
which ends the thread.
The model's choices here: how ERET finds the repeat frame again (log entry 51). -/
def Obligations.EretReturns : Prop :=
  (∀ s : State, Issues .eret s →
    let x := s.slotHere
    (s.thr.level = 0 → x.handlers = [] → x.h = true → x.trappc.extractLsb' 0 2 = 0#2 →
      exec .eret s = .next (releaseHeld (s.modSlot (fun x => { x with
        h := false
        thread := { x.thread with
          pc := x.trappc.extractLsb' 0 20, pfx := none, status := .ready
          frame := frameAt s (x.trappc.extractLsb' 0 20) x.trapaux, resume := x.cause.getLsbD 8 && x.rprog.getLsbD 31 } })))) ∧
    (s.thr.level ≠ 0 ∨ x.h = false →
      exec .eret s = .next (takeTrap { cause := .illegalInstruction, val := trapWords s .eret } s)) ∧
    (s.thr.level = 0 → x.h = true → x.trappc.extractLsb' 0 2 ≠ 0#2 →
      exec .eret s = .next (takeTrap { cause := .misaligned, val := x.trappc } s))) ∧
  (∀ (s : State) (pc : LAddr) (aux : Word),
    let k := (aux.extractLsb' 48 8).toNat
    let i := (aux.extractLsb' 56 4).toNat
    let base := pc - BitVec.ofNat 20 (4 * i)
    let rep := (fetchFrom s s.actor.tid s.actor.core (base - 4#20)).bind (fun w => (decode w.2).toOption)
    (aux.getLsbD 60 = false → frameAt s pc aux = none) ∧
    (aux.getLsbD 60 = true →
      (∀ (z y x : BitVec 1) (st : BitVec 2) (c : BitVec 8) (l : BitVec 4), rep = some (.rep z y x st c l) →
        frameAt s pc aux = if i ≤ l.toNat ∧ k ≤ c.toNat then some
          { base := base, len := l.toNat + 1, cnt := c.toNat + 1, st := [0, 1, 2, 4].getD st.toNat 0, fd := x == 1#1
            fa := y == 1#1, fb := z == 1#1, k := k, i := i } else none) ∧
      ((∀ z y x st c l, rep ≠ some (.rep z y x st c l)) → frameAt s pc aux = none))) ∧
  (∀ s : State,
    let me := (s.actor.core, s.actor.slot)
    let trapped := (s.tenant s.actor.tid).trapped
    let left := trapped.filter (fun p => p != me)
    let u := s.modTenant s.actor.tid (fun tn => { tn with trapped := left })
    let goes (th : Thread) : Thread := match th.status with
      | .held 0 => { th with status := .ready }
      | .held (n + 1) => { th with status := .idle (n + 1) }
      | _ => th
    (me ∉ trapped → releaseHeld s = s) ∧
    (me ∈ trapped → (∃ p ∈ left, p.1 = s.actor.core) → releaseHeld s = u) ∧
    (me ∈ trapped → (∀ p ∈ left, p.1 ≠ s.actor.core) → releaseHeld s = u.modHere (fun k => { k with
      slots := k.slots.map (fun p => (p.1, { p.2 with thread := goes p.2.thread, handlers := p.2.handlers.map goes })) })))

/-- R35: a write to g0 is discarded; naming vm0 as the destination of any instruction raises ILLEGAL_REGISTER with nothing
changed but the trap's entry; vm0 as a source or as the active mask reads as all ones. -/
def Obligations.ZeroRegisters : Prop :=
  (∀ (s : State) (v : Word), OnlyThread s (s.setReg 0#5 v) ∧ (s.setReg 0#5 v).slotHere = s.slotHere ∧ s.reg 0#5 = 0#64) ∧
  (∀ (s : State) (i : Instr), (∃ a b t c, i = .vcmp 0 a b t c) ∨ (∃ a b, i = .vmwr 0 a b) ∨ (∃ a, i = .vmnot 0 a) ∨
      (∃ a b, i = .vmand 0 a b ∨ i = .vmor 0 a b ∨ i = .vmxor 0 a b ∨ i = .vmandn 0 a b) →
    s.mayIssue = true → i.wf = true → (∀ b ∈ featuresOf i, s.myLaunch.feats.getLsbD b = true) →
    classOk s (classOf i) = true →
    exec i s = .next (takeTrap { cause := .illegalRegister, val := trapWords s i } s)) ∧
  (∀ s : State, s.vmask 0#3 = BitVec.allOnes 128 ∧ (s.slotHere.amask = 0#3 → s.amask = BitVec.allOnes 128))

/-! ### Scalar instructions -/

/-- The ALU on registers, every operation of Table 5.3, and the immediate forms (R106, R108, Tables 3.7 and 5.4): g[d]
takes the result, and the thread goes on at the next instruction. An immediate of 16 bits, or of 42 below a prefix, is
extended with its sign for ADDI and LI and with zeros for the others. -/
def Obligations.ScalarResults : Prop :=
  (∀ (s : State) (d a b : BitVec 5), ∀ op ∈ twoSource ++ oneSource, Issues (op.1 d a b 0 0 0) s →
    exec (op.1 d a b 0 0 0) s = .next (retire (s.setReg d (op.2 (s.reg a) (s.reg b))))) ∧
  (∀ (s : State) (d a : BitVec 5) (i : BitVec 16) (n : BitVec 6),
    let x := s.reg a
    let se : Word := match s.thr.pfx with
      | none => i.signExtend 64
      | some p => (p ++ i).signExtend 64
    let ze : Word := match s.thr.pfx with
      | none => i.setWidth 64
      | some p => (p ++ i).setWidth 64
    ∀ iv ∈ ([(.addi d a i, x + se), (.andi d a i, x &&& ze), (.ori d a i, x ||| ze), (.xori d a i, x ^^^ ze),
        (.slli d a n, x <<< n.toNat), (.srli d a n, x >>> n.toNat), (.srai d a n, x.sshiftRight n.toNat),
        (.rori d a n, (x >>> n.toNat) ||| (x <<< (64 - n.toNat))), (.li d i, se),
        (.lih d a i, ze.extractLsb' 0 32 ++ x.extractLsb' 0 32)] : List (Instr × Word)),
      Issues iv.1 s → exec iv.1 s = .next (retire (s.setReg d iv.2)))

/-- R107: division by zero gives a quotient of all ones, −1 for DIV and 2^64 − 1 for DIVU; REM by zero gives the dividend;
DIV of −2^63 by −1 gives −2^63 and REM gives 0. None of these traps: each goes on at the next instruction. -/
def Obligations.DivisionCorners : Prop :=
  ∀ (s : State) (d a b : BitVec 5),
    (s.reg b = 0#64 →
      (Issues (.div d a b 0 0 0) s → exec (.div d a b 0 0 0) s = .next (retire (s.setReg d (BitVec.ofInt 64 (-1))))) ∧
      (Issues (.divu d a b 0 0 0) s →
        exec (.divu d a b 0 0 0) s = .next (retire (s.setReg d (BitVec.ofNat 64 (2 ^ 64 - 1))))) ∧
      (Issues (.rem d a b 0 0 0) s → exec (.rem d a b 0 0 0) s = .next (retire (s.setReg d (s.reg a))))) ∧
    (s.reg a = BitVec.ofInt 64 (-2 ^ 63) → s.reg b = BitVec.ofInt 64 (-1) →
      (Issues (.div d a b 0 0 0) s → exec (.div d a b 0 0 0) s = .next (retire (s.setReg d (BitVec.ofInt 64 (-2 ^ 63))))) ∧
      (Issues (.rem d a b 0 0 0) s → exec (.rem d a b 0 0 0) s = .next (retire (s.setReg d 0#64))))

/-- Queue registers in the ALU (R39, R57): a flagged source pops the oldest entry of q(field mod 4), operand a before
operand b; a flagged destination pushes; where an entry or the room is missing, counting the instruction's own pops, the
turn changes nothing at all. Nothing else changes but the thread's place.
The model's choices here: room in a full queue is counted after the instruction's own pops (log entry 53). -/
def Obligations.QueueOperands : Prop :=
  ∀ (s : State) (d a b : BitVec 5) (p q r : BitVec 1), ∀ op ∈ twoSource ++ (if q = 0#1 then oneSource else []),
    Issues (op.1 d a b p q r) s →
    let takes (n : Nat) : Nat :=
      (if r = 1#1 ∧ a.toNat % 4 = n then 1 else 0) + (if q = 1#1 ∧ b.toNat % 4 = n then 1 else 0)
    let ready := (∀ n, takes n ≤ (s.queue n).length) ∧
      (p = 1#1 → (s.queue (d.toNat % 4)).length - takes (d.toNat % 4) < 16)
    let x := if r = 1#1 then (s.queue (a.toNat % 4)).headD 0#64 else s.reg a
    let y := if q = 1#1 then
        ((s.queue (b.toNat % 4)).drop (if r = 1#1 ∧ a.toNat % 4 = b.toNat % 4 then 1 else 0)).headD 0#64
      else s.reg b
    (¬ready → exec (op.1 d a b p q r) s = .next s) ∧
    (ready → ∃ t, exec (op.1 d a b p q r) s = .next t ∧ OnlyCore s t ∧ SameThread s t ∧
      { t.here with queues := s.here.queues, slots := s.here.slots } = s.here ∧
      (∀ n, n ≠ s.actor.slot → t.here.slot n = s.here.slot n) ∧ t.slotHere = s.slotHere.setTop t.thr ∧
      (∀ n, t.queue n = (s.queue n).drop (takes n) ++ if p = 1#1 ∧ d.toNat % 4 = n then [op.2 x y] else []) ∧
      (∀ g, t.reg g = if p = 0#1 ∧ g = d ∧ g ≠ 0#5 then op.2 x y else s.reg g) ∧
      (s.thr.frame = none → t.thr.pc = s.thr.wordAddr + 4#20))

/-- Branches (R109): W is the address of the branch word, which follows a prefix; offsets of BR, JAL, BZ and BNZ count
words, of JALR bytes; JAL and JALR leave W + 4 in their register, g[a] being read first; a JALR target that is no multiple of
4 raises MISALIGNED with TRAPVAL the target. Compare-skip (R66, R67, Table 3.8): where the condition holds, `k` positions
after the word are passed over, a prefix counting with its word, and `k` turns forgone; else the thread goes on after the
word; a word to be passed over that does not translate traps, with nothing skipped. -/
def Obligations.BranchesAndSkips : Prop :=
  (∀ (s : State) (d a : BitVec 5) (o : BitVec 16) (f : BitVec 26),
    let w : LAddr := if s.thr.pfx.isSome then s.thr.pc + 4#20 else s.thr.pc
    let off16 : Word := match s.thr.pfx with
      | none => o.signExtend 64
      | some p => (p ++ o).signExtend 64
    let off26 : Word := match s.thr.pfx with
      | none => f.signExtend 64
      | some p => (p ++ f).signExtend 64
    let goes (pc : LAddr) (u : State) : Out :=
      .next (u.modThr (fun th => { th with pc := pc, pfx := none, status := .ready, resume := false }))
    let link (r : BitVec 5) : State := s.setReg r ((w + 4#20).setWidth 64)
    let near := w + (off16 * 4#64).setWidth 20
    let far := w + (off26 * 4#64).setWidth 20
    let t : LAddr := (s.reg a + off16).setWidth 20
    (Issues (.br f) s → exec (.br f) s = goes far s) ∧
    (Issues (.jal f) s → exec (.jal f) s = goes far (link 31#5)) ∧
    (Issues (.bz a o) s → exec (.bz a o) s = goes (if s.reg a = 0#64 then near else w + 4#20) s) ∧
    (Issues (.bnz a o) s → exec (.bnz a o) s = goes (if s.reg a = 0#64 then w + 4#20 else near) s) ∧
    (Issues (.jalr d a o) s → t.extractLsb' 0 2 = 0#2 → exec (.jalr d a o) s = goes t (link d)) ∧
    (Issues (.jalr d a o) s → t.extractLsb' 0 2 ≠ 0#2 →
      exec (.jalr d a o) s = .next (takeTrap { cause := .misaligned, val := t.setWidth 64 } s))) ∧
  (∀ (s : State) (c : BitVec 3) (k : BitVec 2) (a b : BitVec 5) (m : BitVec 11) (at' : Nat → LAddr)
    (word : Nat → BitVec 32),
    let w : LAddr := if s.thr.pfx.isSome then s.thr.pc + 4#20 else s.thr.pc
    let imm : Word := match s.thr.pfx with
      | none => m.signExtend 64
      | some p => (p ++ m).signExtend 64
    let holds (x y : Word) : Prop :=
      [x = y, x ≠ y, x.toInt < y.toInt, y.toInt ≤ x.toInt, x.toNat < y.toNat, y.toNat ≤ x.toNat, x &&& y ≠ 0#64,
        x &&& y = 0#64].getD c.toNat False
    let goes (pc : LAddr) (st : Status) : Out :=
      .next (s.modThr (fun th => { th with pc := pc, pfx := none, status := st, resume := false }))
    ∀ iy ∈ ([(.cskip c k a b, s.reg b), (.cskipi c k a m, imm)] : List (Instr × Word)), Issues iy.1 s →
      (¬holds (s.reg a) iy.2 → exec iy.1 s = goes (w + 4#20) .ready) ∧
      (holds (s.reg a) iy.2 → at' 0 = w + 4#20 →
        (∀ j, at' (j + 1) = at' j + if (word j).extractLsb' 26 6 = 0x3F#6 then 8#20 else 4#20) →
        ((∀ j < k.toNat, fetchHere s (at' j) = .ok (word j)) → exec iy.1 s = goes (at' k.toNat) (.yielding k.toNat)) ∧
        (∀ n < k.toNat, ∀ tr, (∀ j < n, fetchHere s (at' j) = .ok (word j)) → fetchHere s (at' n) = .trap tr →
          exec iy.1 s = .next (takeTrap tr s))))

/-- The prefix and the repeat frame (R64, R65, R68 to R70). A prefix before an instruction that takes it uses one turn and
changes nothing but that the pair is under way; before any other word it raises ILLEGAL_INSTRUCTION with both words, and where
that word does not translate LOCAL_UNMAPPED with its address. REP
reads its captured words in turn; the first that does not translate, that lies outside the majors of R69 (MZERO apart), that
fails one of checks 1 to 6 of Table 3.6, or whose flagged registers are none of the slot's in the last replay, makes REP trap
with that word in TRAPVAL (that they are judged one after the other is the model's choice, log entry 120); else a frame opens at
the word after REP: loads, stores, atomics, MLDACC and MSTACC are never captured. A replay k of a frame adds st·k to the flagged
fields of a captured word that name registers, and none to literals, selectors and queue registers. `retire` is what every
instruction does to PC: outside a frame it goes past the word, inside from word to word, from replay to replay, and at the end
past the frame.
The model's choices here: a prefix whose second word does not translate (log entry 136). -/
def Obligations.RepeatAndPrefix : Prop :=
  (∀ (s : State) (p : BitVec 26) (w : BitVec 32), s.mayIssue = true → fetchHere s (s.thr.pc + 4#20) = .ok w →
    (∀ i, decode w = .ok i → takesPrefix p i = true → exec (.pfx p) s =
      .next (s.modThr (fun th => { th with pfx := some p, pfxWord := w, status := .ready }))) ∧
    ((∀ i, decode w = .ok i → takesPrefix p i = false) → exec (.pfx p) s =
      .next (takeTrap { cause := .illegalInstruction, val := (0x3F#6 ++ p) ++ w } s))) ∧
  (∀ (s : State) (p : BitVec 26), s.mayIssue = true →
    let a := s.thr.pc + 4#20
    fetchFrom s s.actor.tid s.actor.core a = none →
      exec (.pfx p) s = .next (takeTrap { cause := .localUnmapped, val := a.setWidth 64 } s)) ∧
  (∀ (p : BitVec 26) (i : Instr), takesPrefix p i = true ↔
    (∃ d a n, i = .addi d a n ∨ i = .andi d a n ∨ i = .ori d a n ∨ i = .xori d a n ∨ i = .jalr d a n) ∨
    (∃ d n, i = .li d n ∨ i = .bz d n ∨ i = .bnz d n) ∨ (∃ d a n, i = .lih d a n ∧ p.extractLsb' 16 10 = 0#10) ∨
    (∃ c k a n, i = .cskipi c k a n) ∨ (∃ d a z n, i = .ld d a z n) ∨ (∃ d a z n, i = .st d a z n) ∨
    (∃ n, i = .br n ∨ i = .jal n)) ∧
  (∀ (s : State) (z y x : BitVec 1) (st : BitVec 2) (c : BitVec 8) (l : BitVec 4), Issues (.rep z y x st c l) s →
    let base := s.thr.wordAddr + 4#20
    let f : RepFrame :=
      { base := base, len := l.toNat + 1, cnt := c.toNat + 1, st := [0, 1, 2, 4].getD st.toNat 0, fd := x == 1#1,
        fa := y == 1#1, fb := z == 1#1, k := 0, i := 0 }
    let fetched (j : Nat) : Acc (BitVec 32) := fetchHere s (base + BitVec.ofNat 20 (4 * j))
    let inSet (w : BitVec 32) : Prop := (∃ c, decode w = .ok (.mzero c)) ∨ (w.extractLsb' 26 6).toNat ∈
      [0x01, 0x02, 0x03, 0x04, 0x05, 0x06, 0x07, 0x08, 0x18, 0x19, 0x1A, 0x1B, 0x1C, 0x1D, 0x1E, 0x1F, 0x20, 0x22, 0x24, 0x25]
    let fails (w : BitVec 32) (e : Cause) (aux : Word) : Prop :=
      ((¬inSet w ∨ ∀ i, decode w ≠ .ok i) ∧ e = .illegalInstruction ∧ aux = 0#64) ∨
      (inSet w ∧ ∃ i, decode w = .ok i ∧
        (((∃ b ∈ featuresOf i, s.myLaunch.feats.getLsbD b = false) ∧ e = .illegalInstruction ∧ aux = 1#64) ∨
         ((∀ b ∈ featuresOf i, s.myLaunch.feats.getLsbD b = true) ∧ aux = 0#64 ∧
          ((classOk s (classOf i) = false ∧ e = .phaseIllegal) ∨ (classOk s (classOf i) = true ∧
            (((∃ r ∈ regsUsed s i, regOk s r = false) ∧ e = .illegalRegister) ∨
             ((∀ r ∈ regsUsed s i, regOk s r = true) ∧
              ((comboOk i = false ∧ e = .typeCombo) ∨ (comboOk i = true ∧ e = .illegalRegister ∧
                (staggered f c.toNat i = none ∨ ∃ j, staggered f c.toNat i = some j ∧
                  ∃ r ∈ fieldRegs j, regOk s r = false))))))))))
    (∀ (n : Nat) (word : Nat → BitVec 32), n ≤ l.toNat →
      (∀ j < n, fetched j = .ok (word j) ∧ ∀ e aux, ¬fails (word j) e aux) →
      (∀ tr, fetched n = .trap tr → exec (.rep z y x st c l) s = .next (takeTrap tr s)) ∧
      (∀ e aux, fetched n = .ok (word n) → fails (word n) e aux → exec (.rep z y x st c l) s =
        .next (takeTrap { cause := e, val := (word n).setWidth 64, aux := aux } s))) ∧
    (∀ (v : BitVec 7) (d a b : BitVec 5) (z : BitVec 3) (y : BitVec 2) (o : BitVec 13) (t : BitVec 2) (m : BitVec 3)
      (e : BitVec 1), ∀ i ∈ ([
        .ld d a z o, .st d a y o, .amoadd d a b e, .amocas d a b e, .vld v a b t, .vst v a b t, .vlds v a b t, .vsts v a b t,
        .vgath v a b t, .vscat v a b t, .vldsh v a b, .vstsh v a b, .mldacc m a, .mstacc m a] : List Instr), ¬inSet (encode i)) ∧
    (∀ word : Nat → BitVec 32, (∀ j ≤ l.toNat, fetched j = .ok (word j) ∧ ∀ e aux, ¬fails (word j) e aux) →
      exec (.rep z y x st c l) s =
        .next (s.modThr (fun th => { th with pc := base, pfx := none, status := .ready, resume := false, frame := some f })))) ∧
  (∀ (f : RepFrame) (k : Nat),
    let kd := if f.fd then f.st * k else 0
    let ka := if f.fa then f.st * k else 0
    let kb := if f.fb then f.st * k else 0
    let up (w : Nat) (x : BitVec w) (n : Nat) : Option (BitVec w) :=
      if x.toNat + n < 2 ^ w then some (BitVec.ofNat w (x.toNat + n)) else none
    let one {w v : Nat} (d : BitVec w) (a : BitVec v) (i : BitVec w → BitVec v → Instr) : Prop :=
      staggered f k (i d a) = (up w d kd).bind (fun d' => (up v a ka).map (fun a' => i d' a'))
    let two {w v : Nat} (d : BitVec w) (a b : BitVec v) (i : BitVec w → BitVec v → BitVec v → Instr) : Prop :=
      staggered f k (i d a b) = (up w d kd).bind (fun d' => (up v a ka).bind (fun a' => (up v b kb).map (fun b' => i d' a' b')))
    (∀ (d a b : BitVec 7) (t : BitVec 2), ∀ op ∈ ([.vadd, .vsub, .vmul, .vmulh, .vmin, .vmax, .vadds, .vsubs, .vand, .vor,
        .vxor, .vandn, .vsll, .vsrl, .vsra, .vperm, .vsel, .vshuf, .vfadd, .vfsub, .vfmul, .vfmin, .vfmax, .vfma, .vfms, .vfnma,
        .vfnms] : List (BitVec 7 → BitVec 7 → BitVec 7 → BitVec 2 → Instr)),
      staggered f k (op d a b t) = if d.toNat + kd < 128 ∧ a.toNat + ka < 128 ∧ b.toNat + kb < 128 then
        some (op (BitVec.ofNat 7 (d.toNat + kd)) (BitVec.ofNat 7 (a.toNat + ka)) (BitVec.ofNat 7 (b.toNat + kb)) t) else none) ∧
    (∀ (d a n : BitVec 7) (t : BitVec 2), ∀ op ∈ ([.vslup, .vsldn, .vbcast] :
        List (BitVec 7 → BitVec 7 → BitVec 7 → BitVec 2 → Instr)),
      staggered f k (op d a n t) = if d.toNat + kd < 128 ∧ a.toNat + ka < 128 then
        some (op (BitVec.ofNat 7 (d.toNat + kd)) (BitVec.ofNat 7 (a.toNat + ka)) n t) else none) ∧
    (∀ (d a b : BitVec 5), ∀ op ∈ twoSource,
      (staggered f k (op.1 d a b 0 0 0) = if d.toNat + kd < 32 ∧ a.toNat + ka < 32 ∧ b.toNat + kb < 32 then
        some (op.1 (BitVec.ofNat 5 (d.toNat + kd)) (BitVec.ofNat 5 (a.toNat + ka)) (BitVec.ofNat 5 (b.toNat + kb)) 0 0 0)
        else none) ∧
      staggered f k (op.1 d a b 1 1 1) = some (op.1 d a b 1 1 1)) ∧
    (∀ (d a b : BitVec 5) (p q r : BitVec 1),
      let d' := if p = 0#1 then up 5 d kd else some d
      let a' := if r = 0#1 then up 5 a ka else some a
      let b' := if q = 0#1 then up 5 b kb else some b
      (∀ op ∈ twoSource, staggered f k (op.1 d a b p q r) =
        d'.bind (fun d => a'.bind (fun a => b'.map (fun b => op.1 d a b p q r)))) ∧
      (∀ op ∈ oneSource, staggered f k (op.1 d a b p q r) = d'.bind (fun d => a'.map (fun a => op.1 d a b p q r)))) ∧
    (∀ (d a : BitVec 5) (i : BitVec 16) (n : BitVec 6),
      (∀ op ∈ ([.addi, .andi, .ori, .xori, .lih] : List (BitVec 5 → BitVec 5 → BitVec 16 → Instr)), one d a (fun d a => op d a i)) ∧
      (∀ op ∈ ([.slli, .srli, .srai, .rori] : List (BitVec 5 → BitVec 5 → BitVec 6 → Instr)), one d a (fun d a => op d a n)) ∧
      staggered f k (.li d i) = (up 5 d kd).map (fun d => .li d i)) ∧
    (∀ (d a b : BitVec 7) (m : BitVec 3) (p c : BitVec 3) (h t : BitVec 2),
      (∀ op ∈ ([.vrsum, .vrmax, .vrmin, .vhist, .vcmpr, .vexp2, .vlog2, .vrcp, .vrsq, .vtanh, .vsigm, .vord, .vunord] :
        List (BitVec 7 → BitVec 7 → BitVec 2 → Instr)), one d a (fun d a => op d a t)) ∧
      (∀ op ∈ ([.vpopc, .viota] : List (BitVec 7 → BitVec 3 → BitVec 2 → Instr)), one d m (fun d a => op d a t)) ∧
      one d a (fun d a => .vcvt d a p h t) ∧ one d a (fun d a => .vxpnd d a p h t) ∧
      two d a b (fun d a b => .vqmx d a b t) ∧ two d a b (fun d a b => .vdqmx d a b t) ∧
      two m a b (fun d a b => .vcmp d a b t c)) ∧
    (∀ (d a b : BitVec 3), (∀ op ∈ ([.vmand, .vmor, .vmxor, .vmandn] : List (BitVec 3 → BitVec 3 → BitVec 3 → Instr)), two d a b op) ∧
      one d a .vmnot ∧ staggered f k (.amsel a) = (up 3 a ka).map .amsel ∧
      staggered f k (.mzero d) = (up 3 d kd).map .mzero) ∧
    (∀ (d x y : BitVec 3) (a b : BitVec 5) (z : BitVec 1), ∀ op ∈ ([.mma, .mmat, .mconv] :
      List (BitVec 3 → BitVec 5 → BitVec 5 → BitVec 3 → BitVec 3 → BitVec 1 → Instr)), two d a b (fun d a b => op d a b x y z))) ∧
  (∀ s : State,
    let th := s.thr
    let next (pc : LAddr) (pfx : Option (BitVec 26)) (f : Option RepFrame) : Prop :=
      (retire s).thr = { th with pc := pc, pfx := pfx, frame := f, status := .ready, resume := false }
    (th.frame = none → next ((if th.pfx.isSome then th.pc + 4#20 else th.pc) + 4#20) none none) ∧
    (∀ f, th.frame = some f →
      (f.i + 1 < f.len → next (th.pc + 4#20) th.pfx (some { f with i := f.i + 1 })) ∧
      (f.len ≤ f.i + 1 → f.k + 1 < f.cnt → next f.base th.pfx (some { f with k := f.k + 1, i := 0 })) ∧
      (f.len ≤ f.i + 1 → f.cnt ≤ f.k + 1 → next (f.base + BitVec.ofNat 20 (4 * f.len)) th.pfx none)))

/-- FORK (R235): a misaligned entry point traps; a full share of the deque answers 1, a join semaphore at its most 2, nothing
else changed; else the continuation with g1 to g4 goes to the end of the deque, its join semaphore counted up, with 0. JOIN
(R237) waits while its semaphore is not 0 and changes nothing. QUIT (R238) waits for the slot's operations, lowers the join
semaphore, not below 0, and frees the slot, a pre-empted thread going on; the slots held for a trap of SITOUT are released as
by ERET (R215). YIELD (R239) gives up its next n turns. -/
def Obligations.ThreadOps : Prop :=
  (∀ (s : State) (d a b : BitVec 5) (j : BitVec 1), Issues (.fork d a b j) s →
    let status (v : Word) (u : State) : Out := .next (retire (u.setReg d v))
    let entry : Cont :=
      { pc := (s.reg a).setWidth 20, g := [s.reg 1#5, s.reg 2#5, s.reg 3#5, s.reg 4#5], stream := s.thr.stream,
        trapvec := if s.thr.level = 0 then s.slotHere.trapvec else s.thr.trapvec
        join := if j = 1#1 then some b.toNat else none, launch := s.thr.launch }
    ((s.reg a).extractLsb' 0 2 ≠ 0#2 →
      exec (.fork d a b j) s = .next (takeTrap { cause := .misaligned, val := s.reg a } s)) ∧
    ((s.reg a).extractLsb' 0 2 = 0#2 →
      (s.here.share.deq ≤ s.here.deque.length → exec (.fork d a b j) s = status 1#64 s) ∧
      (s.here.deque.length < s.here.share.deq →
        (j = 1#1 → s.sem b.toNat = BitVec.allOnes 32 → exec (.fork d a b j) s = status 2#64 s) ∧
        (j = 1#1 → s.sem b.toNat ≠ BitVec.allOnes 32 → exec (.fork d a b j) s =
          status 0#64 ((s.setSem b.toNat (s.sem b.toNat + 1#32)).modHere (fun k => { k with deque := k.deque ++ [entry] }))) ∧
        (j = 0#1 → exec (.fork d a b j) s =
          status 0#64 (s.modHere (fun k => { k with deque := k.deque ++ [entry] })))))) ∧
  (∀ (s : State) (a : BitVec 5), Issues (.join a) s →
    (s.sem a.toNat = 0#32 → exec (.join a) s = .next (retire s)) ∧
    (s.sem a.toNat ≠ 0#32 →
      exec (.join a) s = .next (s.modThr (fun th => { th with status := .waiting (.join a) })))) ∧
  (∀ s : State, Issues .quit s →
    let busy := s.here.xq.any (fun x => x.slot == s.actor.slot) || s.here.mq.any (fun x => x.slot == s.actor.slot) ||
      s.here.cq.any (fun x => x.slot == s.actor.slot) || s.here.links.any (fun x => x.slot == s.actor.slot) ||
      s.here.port.any (fun x => x.slot == s.actor.slot)
    (busy = true → exec .quit s = .next (s.modThr (fun th => { th with status := .waiting .quit }))) ∧
    (busy = false → ∃ t, exec .quit s = .next (releaseHeld t) ∧ OnlyCore s t ∧
      t.slotHere = (match s.slotHere.handlers with
        | [] => { s.slotHere with thread := { g := s.thr.g, pc := s.thr.pc, stream := s.thr.stream }, h := false }
        | th :: below => { s.slotHere with
            handlers := below, banks := s.slotHere.banks.set th.level { g := th.g, pc := th.pc, stream := th.stream } }) ∧
      (∀ n, n ≠ s.actor.slot → t.here.slot n = s.here.slot n) ∧
      ∀ n, t.sem n = if s.thr.join = some n ∧ s.sem n ≠ 0#32 then s.sem n - 1#32 else s.sem n)) ∧
  (∀ (s : State) (n : BitVec 5), Issues (.yield n) s → exec (.yield n) s =
    .next ((retire s).modThr (fun th => { th with status := if n = 0#5 then .ready else .yielding n.toNat })))

/-! ### Local memory -/

/-- Where local addresses lead (R47 to R49): pages 0x7C to 0x7F to the control pages; another page below 0x80 to the frame
whose entry has V, PV and that LPAGE; page 0xFF nowhere; a window page nowhere without a stream of the tenant, else to the frame
that the stream's segment table names in a valid entry, where that frame is allocated and not in the reserve, and nowhere where
it is not: the table of the batch-list entry that SSEL selected for a packet's own thread, for any other thread that of the
lowest-numbered packet whose list names the stream, and none where no list does (R49); a window address whose segment table lies
in a revoked frame leads to that frame. An address that leads nowhere raises LOCAL_UNMAPPED with TRAPVAL the address, a revoked
frame stops the slot (R361).
LD (R110, R112, Table 3.2): the bytes at EA, little-endian, extended by the size code. A frame whose writer capability
the core holds is read as it stands, another as of the last commit (R156). MISALIGNED comes before LOCAL_UNMAPPED. -/
def Obligations.LocalLoads : Prop :=
  (∀ (s : State) (a : LAddr),
    let page := a.toNat / 4096
    let off := a.toNat % 4096
    let serves (f : Nat) (e : Word) : Prop :=
      (f, e) ∈ s.here.fm ∧ e.getLsbD 8 = true ∧ e.getLsbD 7 = true ∧ (e.extractLsb' 0 7).toNat = page
    let x := xlate s s.actor.tid s.actor.core s.thr a
    (0x7C ≤ page → page < 0x80 → x = some (.control ((page - 0x7C) * 4096 + off))) ∧
    (page < 0x7C →
      ((∀ f e, ¬serves f e) → x = none) ∧
      (∀ f e, serves f e → ∃ f' e', serves f' e' ∧ x = some (.vault f' off))) ∧
    (page = 0xFF → x = none) ∧
    (0x80 ≤ page → (s.thr.stream.getLsbD 31 = false ∨
      ((s.old s.actor.tid).streams.get (s.thr.stream.extractLsb' 0 18).toNat {}).state = 0#2) → x = none) ∧
    (0x80 ≤ page → page < 0xFF → s.thr.stream.getLsbD 31 = true →
      ((s.old s.actor.tid).streams.get (s.thr.stream.extractLsb' 0 18).toNat {}).state ≠ 0#2 →
      let sid := (s.thr.stream.extractLsb' 0 18).toNat
      let leads (i j : Nat) : Option Place :=
        let b := (s.dev s.actor.tid).ctl.readNat (s.actor.core * 16384 + i * 2048 + j * 8) 8
        let table := b / 2 ^ 20 % 256 * 4096 + b / 2 ^ 28 % 16 * 256
        let e := (s.dev s.actor.tid).vault.readNat (s.actor.core * 1048576 + table + 2 * (page - 0x80)) 2
        let fe := s.here.frame (e % 256)
        if (s.actor.core, table / 4096) ∈ s.lostFrames then some (.vault (table / 4096) (table % 4096))
        else if e / 256 % 2 = 1 ∧ fe.getLsbD 8 = true ∧ fe.getLsbD 11 = false then some (.vault (e % 256) off) else none
      (s.thr.level = 0 → s.thr.origin = 1 → x = leads s.thr.packet s.thr.batch) ∧
      (s.thr.level ≠ 0 ∨ s.thr.origin ≠ 1 →
        ((∀ q ∈ s.here.packets, sid ∉ q.2.sids) → x = none) ∧
        (∀ before i y after pre post, s.here.packets = before ++ (i, y) :: after → (∀ q ∈ before, sid ∉ q.2.sids) →
          y.sids = pre ++ sid :: post → sid ∉ pre → x = leads i pre.length))) ∧
    (x = none → place s a = .trap { cause := .localUnmapped, val := a.setWidth 64 }) ∧
    (∀ f o, x = some (.vault f o) → place s a =
      if (s.actor.core, f) ∈ s.lostFrames then .lost (a.setWidth 64) else .ok (.vault f o))) ∧
  (∀ (s : State) (d a : BitVec 5) (sz : BitVec 3) (o : BitVec 13), Issues (.ld d a sz o) s →
    let off : Word := match s.thr.pfx with
      | none => o.signExtend 64
      | some p => (p ++ o).signExtend 64
    let ea : LAddr := (s.reg a + off).setWidth 20
    let n := [1, 2, 4, 8, 1, 2, 4].getD sz.toNat 8
    (ea.toNat % n ≠ 0 → exec (.ld d a sz o) s =
      .next (takeTrap { cause := .misaligned, val := ea.setWidth 64 } s)) ∧
    (ea.toNat % n = 0 →
      (∀ tr, place s ea = .trap tr → exec (.ld d a sz o) s = .next (takeTrap tr s)) ∧
      (∀ x, place s ea = .lost x → exec (.ld d a sz o) s = .next (lostStop x s)) ∧
      (∀ p, place s ea = .ok p →
        let bs := match p with
          | .control off => (s.dev s.actor.tid).ctl.readBytes (s.actor.core * 16384 + off) n
          | .vault f off =>
            let e := s.here.frame f
            let d := if e.getLsbD 30 = true ∧ (e.extractLsb' 18 12).toNat = s.actor.core then s.dev s.actor.tid
              else s.old s.actor.tid
            d.vault.readBytes (s.actor.core * 1048576 + f * 4096 + off) n
        let v := leNat bs
        let r : Word := [(BitVec.ofNat 8 v).signExtend 64, (BitVec.ofNat 16 v).signExtend 64,
          (BitVec.ofNat 32 v).signExtend 64].getD sz.toNat (BitVec.ofNat 64 v)
        exec (.ld d a sz o) s = .next (retire (s.setReg d r)))))

/-- The checks of a store of `n` bytes, in the order of R110, with the first store to a frame in a phase: a copy under the
stream's quota and the allowance, or a shadow under the allowance (R45, R111, R261).
The copy of frame `f` into reserve frame `r` for a store at `a` (R111, R261): the 4,096 bytes; the new entry, with the core
as the holder, COW = 0 and REFCNT 1; of a private page, which the new frame takes over, the old entry keeps its other references
with PV = 0 and one less; of a window page the stream's segment table names the new frame (Table 2.8), and the old count falls at
the commit. One more frame is dirtied, and one more copy charged to the stream, if one is. -/
def Obligations.StoreChecks : Prop :=
  (∀ (s : State) (a : LAddr) (n : Nat),
    let fails (c : Cause) (aux : Word) : Prop := prepareStore s a n = .trap { cause := c, val := a.setWidth 64, aux := aux }
    (a.toNat % n ≠ 0 → fails .misaligned 0#64) ∧
    (a.toNat % n = 0 →
      (xlate s s.actor.tid s.actor.core s.thr a = none → fails .localUnmapped 0#64) ∧
      (∀ o, xlate s s.actor.tid s.actor.core s.thr a = some (.control o) → fails .writeProtect 0#64) ∧
      (∀ f o, xlate s s.actor.tid s.actor.core s.thr a = some (.vault f o) → (s.actor.core, f) ∉ s.lostFrames →
        let k := s.here
        let e := k.frame f
        let dirty := f ∈ k.copied ∨ (k.shadows.find f).isSome = true
        let copies := e.getLsbD 10 = true ∧ 1 < (e.extractLsb' 32 16).toNat
        let full (sid : Nat) : Prop := chargeTo s s.actor.tid s.thr = some sid ∧
          quotaOf s sid false ((s.old s.actor.tid).streams.get sid {}).vquota.toNat ≤
            ((s.old s.actor.tid).streams.get sid {}).vused.toNat + k.charged.get sid 0
        let free := reserveOf s s.actor.tid s.actor.core
        (e.getLsbD 9 = false → fails .writeProtect 0#64) ∧
        (e.getLsbD 9 = true →
          (e.getLsbD 30 = false ∨ (e.extractLsb' 18 12).toNat ≠ s.actor.core → fails .capability 0#64) ∧
          (e.getLsbD 30 = true → (e.extractLsb' 18 12).toNat = s.actor.core →
            (dirty → prepareStore s a n = .ok (s, f, o)) ∧
            (¬dirty →
              (∀ sid, copies → full sid → ∃ aux, fails .quota aux) ∧
              ((¬copies ∨ ∀ sid, ¬full sid) →
                (k.allow < k.used + 1 ∨ free = [] → ∃ aux, fails .allowance aux) ∧
                (k.used + 1 ≤ k.allow → free ≠ [] →
                  (¬copies → ∃ r ∈ free, prepareStore s a n =
                    .ok ((s.modHere (fun k => { k with shadows := k.shadows.set f r, used := k.used + 1 })).drawn, f, o)) ∧
                  (copies → ∃ r ∈ free, prepareStore s a n =
                    .ok ((copyFrame s a f r (chargeTo s s.actor.tid s.thr)).drawn, r, o)))))))))) ∧
  (∀ (s : State) (a : LAddr) (f r : Nat) (charge : Option Nat), s.memWf = true → f ≠ r →
    let u := copyFrame s a f r charge
    let base := s.actor.core * 1048576
    let e := s.here.frame f
    let x := u.here.frame r
    let bytes (t : State) (n : Nat) : Byte := (t.dev s.actor.tid).vault.read n
    let entry (n : Nat) : Prop := 0x80000 ≤ a.toNat ∧ ∃ seg, segTable s s.actor.tid s.actor.core s.thr = some seg ∧
      base + seg + 2 * (a.toNat / 4096 - 0x80) ≤ n ∧ n < base + seg + 2 * (a.toNat / 4096 - 0x80) + 2
    (∀ o < 4096, ¬entry (base + r * 4096 + o) → bytes u (base + r * 4096 + o) = bytes s (base + f * 4096 + o)) ∧
    (∀ n, ¬(base + r * 4096 ≤ n ∧ n < base + r * 4096 + 4096) → ¬entry n → bytes u n = bytes s n) ∧
    u.here.copied = s.here.copied ++ [r] ∧ u.here.used = s.here.used + 1 ∧
    (∀ n, u.here.charged.get n 0 = s.here.charged.get n 0 + if charge = some n then 1 else 0) ∧
    x.getLsbD 8 = true ∧ x.getLsbD 10 = false ∧ x.getLsbD 11 = false ∧ (x.extractLsb' 12 6).toNat = s.actor.tid % 64 ∧
    (x.extractLsb' 18 12).toNat = s.actor.core % 4096 ∧ x.getLsbD 30 = true ∧ x.extractLsb' 32 16 = 1#16 ∧
    (∀ n, n ≠ f → n ≠ r → u.here.frame n = s.here.frame n) ∧
    (a.toNat < 0x80000 → (x.extractLsb' 0 7).toNat = a.toNat / 4096 ∧ x.getLsbD 7 = true ∧ x.getLsbD 9 = true ∧
      u.here.drops = s.here.drops ∧
      (let y := u.here.frame f
       y.getLsbD 7 = false ∧ y.extractLsb' 32 16 = (if e.extractLsb' 32 16 = 0#16 then 0#16 else e.extractLsb' 32 16 - 1#16) ∧
         y.extractLsb' 0 7 = e.extractLsb' 0 7 ∧ y.extractLsb' 8 4 = e.extractLsb' 8 4 ∧
         y.extractLsb' 18 13 = e.extractLsb' 18 13)) ∧
    (0x80000 ≤ a.toNat → x.getLsbD 7 = false ∧ x.getLsbD 9 = e.getLsbD 9 ∧ u.here.frame f = e ∧
      (∀ n, u.here.drops.get n 0 = s.here.drops.get n 0 + if n = f then 1 else 0) ∧
      ∀ seg, segTable s s.actor.tid s.actor.core s.thr = some seg →
        (u.dev s.actor.tid).vault.readNat (base + seg + 2 * (a.toNat / 4096 - 0x80)) 2 = (256 + r) % 65536))

/-- ST and the atomics (R110, R112, R113): `u`, `f` and `off` are the state, the frame and the offset that the store's
checks answer. ST writes g[d][8n−1:0]. An atomic writes the operation of the old word and g[b] and leaves the old word in
g[d], of 32 bits sign-extended; AMOCAS writes only where the old word equals g[d], and else takes no shadow. `putHere`: each of
the bytes stands in the vault at its place in the core's frame, and the core that holds the frame reads them from then on
(R156); a control page is read from the core's control storage. -/
def Obligations.StoresAndAtomics : Prop :=
  (∀ (s : State) (d a : BitVec 5) (sz : BitVec 2) (o : BitVec 13), Issues (.st d a sz o) s →
    let off : Word := match s.thr.pfx with
      | none => o.signExtend 64
      | some p => (p ++ o).signExtend 64
    let ea : LAddr := (s.reg a + off).setWidth 20
    let n := 2 ^ sz.toNat
    (∀ u f off, prepareStore s ea n = .ok (u, f, off) →
      exec (.st d a sz o) s = .next (retire (putHere u ea f off (natLe n (s.reg d).toNat)))) ∧
    (∀ tr, prepareStore s ea n = .trap tr → exec (.st d a sz o) s = .next (takeTrap tr s))) ∧
  (∀ (s : State) (d a b : BitVec 5) (w : BitVec 1),
    let n := if w = 1#1 then 4 else 8
    let ext (x : Word) : Word := if w = 1#1 then (x.extractLsb' 0 32).signExtend 64 else x
    let ea : LAddr := (s.reg a).setWidth 20
    let old (f off : Nat) : Word := ext (BitVec.ofNat 64 (leNat (readHere s (.vault f off) n)))
    let y := ext (s.reg b)
    (∀ op ∈ ([(.amoadd, fun x y => x + y), (.amoswap, fun _ y => y), (.amoand, fun x y => x &&& y),
        (.amoor, fun x y => x ||| y), (.amoxor, fun x y => x ^^^ y),
        (.amomin, fun x y => if x.toInt ≤ y.toInt then x else y),
        (.amomax, fun x y => if x.toInt ≤ y.toInt then y else x)] :
        List ((BitVec 5 → BitVec 5 → BitVec 5 → BitVec 1 → Instr) × (Word → Word → Word))),
      Issues (op.1 d a b w) s →
      (∀ f off, storeCheck s ea n = .ok (f, off) → ∀ u f' off', prepareStore s ea n = .ok (u, f', off') →
        exec (op.1 d a b w) s = .next (retire
          ((putHere u ea f' off' (natLe n (op.2 (old f off) y).toNat)).setReg d (old f off)))) ∧
      (∀ tr, prepareStore s ea n = .trap tr → exec (op.1 d a b w) s = .next (takeTrap tr s))) ∧
    (Issues (.amocas d a b w) s →
      (∀ f off, storeCheck s ea n = .ok (f, off) →
        (ext (s.reg d) = old f off → ∀ u f' off', prepareStore s ea n = .ok (u, f', off') →
          exec (.amocas d a b w) s = .next (retire ((putHere u ea f' off' (natLe n y.toNat)).setReg d (old f off)))) ∧
        (ext (s.reg d) ≠ old f off → exec (.amocas d a b w) s = .next (retire (s.setReg d (old f off))))) ∧
      (∀ tr, storeCheck s ea n = .trap tr → exec (.amocas d a b w) s = .next (takeTrap tr s)))) ∧
  (∀ (u : State) (ea : LAddr) (f off : Nat) (bs : List Byte), (u.dev u.actor.tid).vault.wf = true →
    let v := putHere u ea f off bs
    let e := u.here.frame f
    (∀ k < bs.length, (v.dev u.actor.tid).vault.read (u.actor.core * 1048576 + f * 4096 + off + k) = bs.getD k 0#8) ∧
    (e.getLsbD 30 = true → (e.extractLsb' 18 12).toNat = u.actor.core → readHere v (.vault f off) bs.length = bs)) ∧
  (∀ (u : State) (off n : Nat), readHere u (.control off) n =
    (List.range n).map (fun k => (u.dev u.actor.tid).ctl.read (u.actor.core * 16384 + off + k)))

/-- The frame of a store to local memory (ST and the eight atomics at their effective address): where the checks answer
frame `f` and offset `off`, every byte of memory but the `n` stored reads as before, and but the frame `f` and the segment
table's entry where the store copies a frame; every register but an atomic's g[d], every flag, special register, semaphore,
ring and queue stands, and so does every other slot's and core's state. -/
def Obligations.StoreFrame : Prop :=
  ∀ (s t u : State) (i : Instr) (ea : LAddr) (n f off : Nat) (dest : Option (BitVec 5)),
    (∃ d a sz o, i = .st d a sz o ∧ ea = effAddr s a o ∧ n = 2 ^ sz.toNat ∧ dest = none) ∨
      (∃ d a b w, (i = .amoadd d a b w ∨ i = .amoswap d a b w ∨ i = .amoand d a b w ∨ i = .amoor d a b w ∨
          i = .amoxor d a b w ∨ i = .amomin d a b w ∨ i = .amomax d a b w ∨ i = .amocas d a b w) ∧
        ea = (s.reg a).setWidth 20 ∧ n = (if w = 1#1 then 4 else 8) ∧ dest = some d) →
    Issues i s → prepareStore s ea n = .ok (u, f, off) → exec i s = .next t →
    let copied := t.here.copied ≠ s.here.copied
    let base := s.actor.core * 1048576
    { t with cur := s.cur, draw := s.draw } = s ∧ (∀ k, k ≠ s.actor.tid → t.dev k = s.dev k) ∧
    { t.dev s.actor.tid with cores := (s.dev s.actor.tid).cores, vault := (s.dev s.actor.tid).vault,
                             lines := (s.dev s.actor.tid).lines } = s.dev s.actor.tid ∧
    (∀ c, c ≠ s.actor.core → t.coreOf s.actor.tid c = s.coreOf s.actor.tid c) ∧
    (∀ x, ¬(base + f * 4096 + off ≤ x ∧ x < base + f * 4096 + off + n) →
      (¬(base + f * 4096 ≤ x ∧ x < base + f * 4096 + 4096) ∨ ¬copied) →
      ((∀ seg, segTable s s.actor.tid s.actor.core s.thr = some seg →
        ¬(base + seg + 2 * (ea.toNat / 4096 - 0x80) ≤ x ∧ x < base + seg + 2 * (ea.toNat / 4096 - 0x80) + 2)) ∨ ¬copied) →
      (t.dev s.actor.tid).vault.read x = (s.dev s.actor.tid).vault.read x) ∧
    { t.here with slots := s.here.slots, fm := s.here.fm, shadows := s.here.shadows, copied := s.here.copied,
                  used := s.here.used, charged := s.here.charged, drops := s.here.drops } = s.here ∧
    (∀ m, m ≠ s.actor.slot → t.here.slot m = s.here.slot m) ∧
    t.slotHere = s.slotHere.setTop t.thr ∧ SameThread s t ∧
    ∀ r, dest ≠ some r → t.reg r = s.reg r

/-! ### Vector memory -/

/-- VLD, VLDS and VGATH (R117, Table 5.5): element i of vd is the little-endian number of the w/8 bytes at EA_i for each
active i, and as it was for the others; for mx4 an element is a block of 16 bytes; the first failing active element, in
increasing i, raises its trap. VLDSH (R119): through the shape record at g[a]; element i has flat index g[b] + i; one outside
the extents reads as PAD. For mx4 a block comes with its scale, into byte j of vd + 1, outside as zeros of PAD and the scale
0x7F; a start that is no multiple of 32 raises MISALIGNED, a group beyond the slot's count ILLEGAL_REGISTER (R115); the first
failing active element inside the extents raises its trap, a block's element bytes coming before its scale.
The model's choices here: PAD is zero-extended for 64-bit formats (log entry 116); a record at a window address is read
through the window (log entry 119); each block of mx4 is checked in element order (log entry 76), a block's element bytes
before its scale byte (log entry 138); the start of mx4 data (log entry 77). -/
def Obligations.VectorLoads : Prop :=
  (∀ (s : State) (d : BitVec 7) (a b : BitVec 5) (t : BitVec 2),
    let w := if s.fmt t = 13 then 128 else fmtWidth (s.fmt t)
    let n := w / 8
    let count := 1024 / w
    let m := s.amask
    ∀ ie ∈ ([(.vld d a b t, fun i => BitVec.ofNat 20 ((s.reg a).toNat + (s.reg b).toNat + i * n)),
        (.vlds d a b t, fun i => BitVec.ofInt 20 ((s.reg a).toInt + i * (s.reg b).toInt)),
        (.vgath d a b t, fun i => BitVec.ofNat 20 ((s.reg a).toNat + velem (s.vreg b.toNat) w i * n))] :
        List (Instr × (Nat → LAddr))), Issues ie.1 s →
      ∀ p : Nat → Place,
        let good (i : Nat) : Prop := m.getLsbD i = true → (ie.2 i).toNat % n = 0 ∧ place s (ie.2 i) = .ok (p i)
        ((∀ i < count, good i) → exec ie.1 s = .next (retire (s.setVreg d.toNat (vof w ((List.range count).map (fun i =>
          if m.getLsbD i then leNat (readHere s (p i) n) else velem (s.vreg d.toNat) w i)))))) ∧
        (∀ j < count, (∀ i < j, good i) → m.getLsbD j = true →
          ((ie.2 j).toNat % n ≠ 0 → exec ie.1 s =
            .next (takeTrap { cause := .misaligned, val := (ie.2 j).setWidth 64 } s)) ∧
          ((ie.2 j).toNat % n = 0 → ∀ tr, place s (ie.2 j) = .trap tr → exec ie.1 s = .next (takeTrap tr s)))) ∧
  ((∀ (s : State) (d : BitVec 7) (a b : BitVec 5) (q : Place), ∀ i ∈ [Instr.vldsh d a b, .vstsh d a b], s.mayIssue = true →
    (∀ f ∈ featuresOf i, s.myLaunch.feats.getLsbD f = true) → classOk s (classOf i) = true → (s.reg a).extractLsb' 0 5 = 0#5 →
    place s ((s.reg a).setWidth 20) = .ok q → (Shape.ofBytes (readHere s q 32)).fmt = 13 → s.vectorCount ≤ d.toNat + 1 →
    exec i s = .next (takeTrap { cause := .illegalRegister, val := trapWords s i } s)) ∧
  (∀ (s : State) (d : BitVec 7) (a b : BitVec 5) (q : Place), Issues (.vldsh d a b) s →
    place s ((s.reg a).setWidth 20) = .ok q →
    let r := Shape.ofBytes (readHere s q 32)
    let m := s.amask
    let w := fmtWidth r.fmt
    let old := s.vreg d.toNat
    let traps (tr : Trap) : Prop := exec (.vldsh d a b) s = .next (takeTrap tr s)
    let misaligned (v : LAddr) : Trap := { cause := .misaligned, val := v.setWidth 64 }
    (r.fmt ≠ 13 → ∀ p : Nat → Place,
      let ix (i : Nat) := r.index ((s.reg b).toNat + i)
      let good (i : Nat) : Prop := m.getLsbD i = true → ∀ x, ix i = some x →
        (r.addr x).toNat % (w / 8) = 0 ∧ place s (r.addr x) = .ok (p i)
      ((∀ i < 1024 / w, good i) →
        exec (.vldsh d a b) s = .next (retire (s.setVreg d.toNat (vof w ((List.range (1024 / w)).map (fun i =>
          if m.getLsbD i then (if ix i = none then r.pad else leNat (readHere s (p i) (w / 8))) else velem old w i)))))) ∧
      (∀ j < 1024 / w, (∀ i < j, good i) → m.getLsbD j = true → ∀ x, ix j = some x →
        ((r.addr x).toNat % (w / 8) ≠ 0 → traps (misaligned (r.addr x))) ∧
        ((r.addr x).toNat % (w / 8) = 0 → ∀ tr, place s (r.addr x) = .trap tr → traps tr))) ∧
    (r.fmt = 13 →
      ((s.reg b).toNat % 32 ≠ 0 → ∃ aux, exec (.vldsh d a b) s =
        .next (takeTrap { cause := .misaligned, val := s.reg b, aux := aux } s)) ∧
      ((s.reg b).toNat % 32 = 0 → ∀ p z : Nat → Place,
        let ix (j : Nat) := r.index ((s.reg b).toNat + 32 * j)
        let good (j : Nat) : Prop := m.getLsbD j = true → ∀ x, ix j = some x →
          (r.addr x).toNat % 16 = 0 ∧ place s (r.addr x) = .ok (p j) ∧ place s (r.scaleAddr x) = .ok (z j)
        (∀ j < 8, (∀ i < j, good i) → m.getLsbD j = true → ∀ x, ix j = some x →
          ((r.addr x).toNat % 16 = 0 → ∀ tr, place s (r.addr x) = .trap tr → traps tr) ∧
          ((r.addr x).toNat % 16 = 0 → place s (r.addr x) = .ok (p j) → ∀ tr, place s (r.scaleAddr x) = .trap tr →
            traps tr)) ∧
        ((∀ j < 8, good j) → exec (.vldsh d a b) s = .next (retire ((s.setVreg d.toNat (vof 128 ((List.range 8).map (fun j =>
          if m.getLsbD j then
            (if ix j = none then vpack 4 (List.replicate 32 (r.pad % 16)) else leNat (readHere s (p j) 16))
          else velem old 128 j)))).setVreg (d.toNat + 1) (vof 8 ((List.range 128).map (fun j =>
          if j < 8 ∧ m.getLsbD j = true then (if ix j = none then 0x7F else leNat (readHere s (z j) 1))
          else velem (s.vreg (d.toNat + 1)) 8 j))))))))))

/-- VST, VSTS, VSCAT and VSTSH (R117 to R119): the active elements are stored in increasing order, all checked before any
is written; VSTSH stores those inside the extents, saturated to the record's bound B (R88), with FLAGS.CL for an element that
is replaced, NX too for a finite one and OF where an integer lies beyond the format's greatest value (R89), a NaN as it is, an
mx4 block with its scale; for mx4 a start that is no multiple of 32 raises MISALIGNED. `storeAll`: the first failing element
raises its trap; where every frame is ready, the elements are written one after the other.
The model's choices here: a block's element bytes before its scale byte (log entry 138); CL and NX of a replaced finite
element (log entry 113) and OF of an integer (log entry 114); the alignment of mx4 blocks (log entry 76) and the start of mx4
data (log entry 77); a record at a window address (log entry 119). -/
def Obligations.VectorStores : Prop :=
  (∀ (s : State) (d : BitVec 7) (a b : BitVec 5) (t : BitVec 2),
    let w := if s.fmt t = 13 then 128 else fmtWidth (s.fmt t)
    let n := w / 8
    ∀ ie ∈ ([(.vst d a b t, fun i => BitVec.ofNat 20 ((s.reg a).toNat + (s.reg b).toNat + i * n)),
        (.vsts d a b t, fun i => BitVec.ofInt 20 ((s.reg a).toInt + i * (s.reg b).toInt)),
        (.vscat d a b t, fun i => BitVec.ofNat 20 ((s.reg a).toNat + velem (s.vreg b.toNat) w i * n))] :
        List (Instr × (Nat → LAddr))), Issues ie.1 s →
      let ws := ((List.range (1024 / w)).filter (fun i => s.amask.getLsbD i)).map (fun i =>
        (ie.2 i, natLe n (velem (s.vreg d.toNat) w i)))
      (∀ u, storeAll s ws = .ok u → exec ie.1 s = .next (retire u)) ∧
      (∀ tr, storeAll s ws = .trap tr → exec ie.1 s = .next (takeTrap tr s))) ∧
  (∀ (s : State) (d : BitVec 7) (a b : BitVec 5) (q : Place), Issues (.vstsh d a b) s →
    place s ((s.reg a).setWidth 20) = .ok q →
    let r := Shape.ofBytes (readHere s q 32)
    let w := fmtWidth r.fmt
    let ins (k n : Nat) : List (Nat × List Nat) := (List.range n).filterMap (fun i =>
      if s.amask.getLsbD i then (r.index ((s.reg b).toNat + k * i)).map (fun x => (i, x)) else none)
    (r.fmt ≠ 13 →
      let rs := (ins 1 (1024 / w)).map (fun x => (r.addr x.2, saturateTo r (velem (s.vreg d.toNat) w x.1)))
      let ws := rs.map (fun x => (x.1, natLe (w / 8) x.2.code))
      let fl := rs.foldl (fun (f : FlagSet) x => f ||| x.2.flags) 0#6
      (∀ u, storeAll s ws = .ok u → exec (.vstsh d a b) s = .next (retire (raiseFlags fl u))) ∧
      (∀ tr, storeAll s ws = .trap tr → exec (.vstsh d a b) s = .next (takeTrap tr s))) ∧
    (r.fmt = 13 → (s.reg b).toNat % 32 ≠ 0 → ∃ aux, exec (.vstsh d a b) s =
      .next (takeTrap { cause := .misaligned, val := s.reg b, aux := aux } s)) ∧
    (r.fmt = 13 → (s.reg b).toNat % 32 = 0 →
      let ws := (ins 32 8).flatMap (fun x => [(r.addr x.2, natLe 16 (velem (s.vreg d.toNat) 128 x.1)),
        (r.scaleAddr x.2, natLe 1 (velem (s.vreg (d.toNat + 1)) 8 x.1))])
      (∀ u, storeAll s ws = .ok u → exec (.vstsh d a b) s = .next (retire u)) ∧
      (∀ tr, storeAll s ws = .trap tr → exec (.vstsh d a b) s = .next (takeTrap tr s)))) ∧
  (∀ (s : State) (ws : List (LAddr × List Byte)) (fo : Nat → Nat × Nat),
    let good (j : Nat) : Prop := ∀ x, ws[j]? = some x → prepareStore s x.1 x.2.length = .ok (s, fo j)
    ((∀ j < ws.length, good j) → storeAll s ws =
      .ok (ws.zipIdx.foldl (fun u x => putHere u x.1.1 (fo x.2).1 (fo x.2).2 x.1.2) s)) ∧
    (∀ j x tr, (∀ k < j, good k) → ws[j]? = some x → prepareStore s x.1 x.2.length = .trap tr →
      storeAll s ws = .trap tr)) ∧
  (∀ (r : Shape) (c : Nat), r.fmt < 8 → c < 2 ^ fmtWidth r.fmt →
    let w := fmtWidth r.fmt
    let v : Int := if r.fmt < 4 ∧ 2 ^ (w - 1) ≤ c then (c : Int) - 2 ^ w else c
    let top : Int := if r.fmt < 4 then 2 ^ (w - 1) - 1 else 2 ^ w - 1
    let b : Int := if r.clamp = 0 then top else min r.clamp top
    let lo : Int := if 4 ≤ r.fmt then 0 else if b = top then -top - 1 else -b
    let x := saturateTo r c
    (lo ≤ v → v ≤ b → x = { code := c }) ∧
    (v < lo → x.code = (lo % 2 ^ w).toNat) ∧ (b < v → x.code = b.toNat) ∧
    (v < lo ∨ b < v → x.flags = if top < v.natAbs then flagCL ||| flagNX ||| flagOF else flagCL ||| flagNX)) ∧
  (∀ (r : Shape) (c : Nat), fmtIsFloat r.fmt = true → c < 2 ^ fmtWidth r.fmt →
    let b := clampBound r.fmt r.clamp
    let inf := infCode r.fmt = some (codeMag r.fmt c)
    let x := saturateTo r c
    ((isNan r.fmt c = true ∨ codeMag r.fmt c ≤ b ∨ (inf ∧ b = maxCode r.fmt)) → x.code = c ∧ x.flags = 0#6) ∧
    (isNan r.fmt c = false → b < codeMag r.fmt c → ¬(inf ∧ b = maxCode r.fmt) →
      x.code = mkCode r.fmt (codeNeg r.fmt c) b ∧ x.flags = if inf then flagCL else flagCL ||| flagNX))

/-! ### Vector arithmetic -/

/-- VADD to VSUBS, the logic operations and the shifts (R120, Table 5.6): active elements take the operation, the others
stand; the saturating forms set CL where an active result leaves the range (R80).
The model's choices here: VSRA copies bit w - 1 whatever F is (log entry 160). -/
def Obligations.VectorInteger : Prop :=
  ∀ (s : State) (d a b : BitVec 7) (t : BitVec 2),
    let f := s.fmt t
    let w := fmtWidth f
    let top : Int := if f < 4 then 2 ^ (w - 1) - 1 else 2 ^ w - 1
    let low : Int := if f < 4 then -2 ^ (w - 1) else 0
    let val (x : Nat) : Int := if f < 4 ∧ 2 ^ (w - 1) ≤ x then (x : Int) - 2 ^ w else x
    let code (v : Int) : Nat := (v % 2 ^ w).toNat
    let sat (v : Int) : Nat := code (if v < low then low else if top < v then top else v)
    let out (v : Int) : Prop := v < low ∨ top < v
    let m := s.amask
    let x (i : Nat) := velem (s.vreg a.toNat) w i
    let y (i : Nat) := velem (s.vreg b.toNat) w i
    let goes (i : Instr) (r : Nat → Nat) (fl : FlagSet) : Prop :=
      exec i s = .next (retire (raiseFlags fl (s.setVreg d.toNat (vof w ((List.range (1024 / w)).map (fun i =>
        if m.getLsbD i then r i else velem (s.vreg d.toNat) w i))))))
    (∀ ir ∈ ([(.vadd d a b t, fun i => (x i + y i) % 2 ^ w), (.vsub d a b t, fun i => code (x i - y i)),
        (.vmul d a b t, fun i => x i * y i % 2 ^ w), (.vmulh d a b t, fun i => code (val (x i) * val (y i) / 2 ^ w)),
        (.vmin d a b t, fun i => if val (x i) ≤ val (y i) then x i else y i),
        (.vmax d a b t, fun i => if val (x i) ≤ val (y i) then y i else x i),
        (.vand d a b t, fun i => x i &&& y i), (.vor d a b t, fun i => x i ||| y i),
        (.vxor d a b t, fun i => x i ^^^ y i), (.vandn d a b t, fun i => x i &&& (y i ^^^ (2 ^ w - 1))),
        (.vsll d a b t, fun i => x i * 2 ^ (y i % w) % 2 ^ w), (.vsrl d a b t, fun i => x i / 2 ^ (y i % w)),
        (.vsra d a b t, fun i => code ((if 2 ^ (w - 1) ≤ x i then (x i : Int) - 2 ^ w else x i) / 2 ^ (y i % w)))] :
        List (Instr × (Nat → Nat))), Issues ir.1 s → goes ir.1 ir.2 0#6) ∧
    (∀ iv ∈ ([(.vadds d a b t, fun i => val (x i) + val (y i)), (.vsubs d a b t, fun i => val (x i) - val (y i))] :
        List (Instr × (Nat → Int))), Issues iv.1 s →
      ((∃ i < 1024 / w, m.getLsbD i = true ∧ out (iv.2 i)) → goes iv.1 (fun i => sat (iv.2 i)) flagCL) ∧
      ((∀ i < 1024 / w, m.getLsbD i = true → ¬out (iv.2 i)) → goes iv.1 (fun i => sat (iv.2 i)) 0#6))

/-- The permute group, VIOTA and VSPLT (R122, R124, R131): active elements as the table has them, the others stand; VSEL
writes every element. The moves and the mask operations (R131, R132, R35 to R37): VINS, VEXT, VMRD, VMWR, SHRD, SHWR, VMAND,
VMOR, VMXOR, VMANDN, VMNOT and AMSEL; no mask governs any of these. -/
def Obligations.PermutesAndMoves : Prop :=
  (∀ (s : State) (d a b : BitVec 7) (g : BitVec 5) (v : BitVec 3) (t : BitVec 2),
    let w := fmtWidth (s.fmt t)
    let e := 1024 / w
    let m := s.amask
    let x (i : Nat) := velem (s.vreg a.toNat) w i
    let y (i : Nat) := velem (s.vreg b.toNat) w i
    let n := b.toNat
    (∀ ir ∈ ([(.vperm d a b t, fun i => x (y i % e)), (.vshuf d a b t, fun i => if i % 2 = 0 then x (i / 2) else y (i / 2)),
        (.vslup d a b t, fun i => if n ≤ i then x (i - n) else 0),
        (.vsldn d a b t, fun i => if i + n < e then x (i + n) else 0), (.vbcast d a b t, fun _ => x (n % e)),
        (.viota d v t, fun i => ((List.range i).filter (fun j => (s.vmask v).getLsbD j && m.getLsbD j)).length % 2 ^ w),
        (.vsplt d g t, fun _ => (s.reg g).toNat % 2 ^ w)] : List (Instr × (Nat → Nat))), Issues ir.1 s →
      exec ir.1 s = .next (retire (s.setVreg d.toNat (vof w ((List.range e).map (fun i =>
        if m.getLsbD i then ir.2 i else velem (s.vreg d.toNat) w i)))))) ∧
    (Issues (.vsel d a b t) s → exec (.vsel d a b t) s =
      .next (retire (s.setVreg d.toNat (vof w ((List.range e).map (fun i => if m.getLsbD i then x i else y i))))))) ∧
  (∀ (s : State) (d : BitVec 7) (a b : BitVec 5) (m x y : BitVec 3) (t : BitVec 2),
    let f := s.fmt t
    let w := fmtWidth f
    let n := (s.reg b).toNat % (1024 / w)
    let c := velem (s.vreg d.toNat) w n
    (∀ iu ∈ ([(.vins d a b t, s.setVreg d.toNat (vof w ((List.range (1024 / w)).map (fun i =>
          if i = n then (s.reg a).toNat % 2 ^ w else velem (s.vreg d.toNat) w i)))),
        (.vext d a b t, s.setReg a (if f < 4 ∧ 2 ^ (w - 1) ≤ c then BitVec.ofInt 64 ((c : Int) - 2 ^ w)
          else BitVec.ofNat 64 c)),
        (.vmrd m a b, (s.setReg a ((s.vmask m).extractLsb' 0 64)).setReg b ((s.vmask m).extractLsb' 64 64)),
        (.vmwr m a b, s.setVmask m (s.reg b ++ s.reg a)), (.shrd m a, s.setReg a (s.shadow m.toNat)),
        (.shwr m a, s.modSlot (fun z => { z with sh := z.sh.set m.toNat (s.reg a) })),
        (.vmand m x y, s.setVmask m (s.vmask x &&& s.vmask y)), (.vmor m x y, s.setVmask m (s.vmask x ||| s.vmask y)),
        (.vmxor m x y, s.setVmask m (s.vmask x ^^^ s.vmask y)), (.vmandn m x y, s.setVmask m (s.vmask x &&& ~~~s.vmask y)),
        (.vmnot m x, s.setVmask m (~~~s.vmask x)), (.amsel x, s.modSlot (fun z => { z with amask := x }))] :
        List (Instr × State)), Issues iu.1 s → exec iu.1 s = .next (retire iu.2)))

/-- VCMP (R121): bits of active elements take the condition, the other bits of the mask stand. A NaN is equal to nothing
and in no order; −0 equals +0; NV is set only for a signalling NaN in an active element.
The reductions and counts (R98, R116, R123, R124): VRSUM, VRMAX and VRMIN of integers, and of floats by the pairwise
tree with one draw where the rounding is stochastic; VHIST, VCMPR and VPOPC.
The reduction of 2^n float elements (R98, R123): the pairwise tree of f32 operations over the widened elements, the identity in
the place of one that is masked off, each rounded to nearest even; its root narrowed into the format.
The model's choices here: CL of VRMAX and VRMIN in e4m3 with every element masked off (log entry 115); VRSUM quiets a
signalling NaN as the additions of its tree do (log entry 79). -/
def Obligations.ComparesAndReductions : Prop :=
  ((∀ (s : State) (d c : BitVec 3) (a b : BitVec 7) (t : BitVec 2), Issues (.vcmp d a b t c) s →
    let f := s.fmt t
    let w := fmtWidth f
    let x (i : Nat) := velem (s.vreg a.toNat) w i
    let y (i : Nat) := velem (s.vreg b.toNat) w i
    let val (n : Nat) : Int :=
      if f < 8 then (if f < 4 ∧ 2 ^ (w - 1) ≤ n then (n : Int) - 2 ^ w else n)
      else match fvalue f n with
        | .fin r => (if r.neg then -1 else 1) * (r.m * 2 ^ (r.e + 149).toNat)
        | .inf neg => if neg then -2 ^ 400 else 2 ^ 400
        | .nan => 0
    let nan (n : Nat) : Prop := 8 ≤ f ∧ isNan f n = true
    let holds (p q : Nat) : Prop :=
      if nan p ∨ nan q then c = 1#3
      else [val p = val q, val p ≠ val q, val p < val q, val p ≤ val q, val q < val p].getD c.toNat (val q ≤ val p)
    let signals := 8 ≤ f ∧ ∃ i < 1024 / w, s.amask.getLsbD i = true ∧
      (isSignalling f (x i) = true ∨ isSignalling f (y i) = true)
    ∃ (k : VMask) (fl : FlagSet), exec (.vcmp d a b t c) s = .next (retire (raiseFlags fl (s.setVmask d k))) ∧
      (∀ i < 1024 / w, s.amask.getLsbD i = true → (k.getLsbD i = true ↔ holds (x i) (y i))) ∧
      (∀ i < 128, 1024 / w ≤ i ∨ s.amask.getLsbD i = false → k.getLsbD i = (s.vmask d).getLsbD i) ∧
      (signals → fl = flagNV) ∧ (¬signals → fl = 0#6)) ∧
  (∀ (s : State) (d a : BitVec 7) (v : BitVec 3) (t : BitVec 2),
    let f := s.fmt t
    let w := fmtWidth f
    let e := 1024 / w
    let m := s.amask
    let x (i : Nat) := velem (s.vreg a.toNat) w i
    let on := (List.range e).filter (fun i => m.getLsbD i)
    let top : Int := if f < 4 then 2 ^ (w - 1) - 1 else 2 ^ w - 1
    let low : Int := if f < 4 then -2 ^ (w - 1) else 0
    let val (n : Nat) : Int := if f < 4 ∧ 2 ^ (w - 1) ≤ n then (n : Int) - 2 ^ w else n
    let sum := (on.map (fun i => val (x i))).sum
    let most := (on.map (fun i => val (x i))).foldl max low
    let least := (on.map (fun i => val (x i))).foldl min top
    (∀ ir ∈ ([((.vrsum d a t, .sum), sum), ((.vrmax d a t, .max), most), ((.vrmin d a t, .min), least)] :
        List ((Instr × Reduction) × Int)), Issues ir.1.1 s →
      (f < 8 → exec ir.1.1 s = .next (retire (s.setVreg d.toNat (BitVec.ofNat 1024 (ir.2 % 2 ^ 64).toNat)))) ∧
      (8 ≤ f →
        let n := if s.rnd t = 4 then 1 else 0
        let r := reduceFloat ir.1.2 f (s.rnd t) (if s.rnd t = 4 then drawOf s 0 else 0)
          ((List.range e).map (fun i => if m.getLsbD i then some (x i) else none))
        (s.slotHere.rngctr.toNat + n < 2 ^ 64 → exec ir.1.1 s =
          .next (retire (raiseFlags r.flags ((tookWords n s).setVreg d.toNat (BitVec.ofNat 1024 r.code))))) ∧
        (2 ^ 64 ≤ s.slotHere.rngctr.toNat + n → exec ir.1.1 s = .next (takeTrap
          { cause := .randomExhausted, val := s.slotHere.rngctr, aux := BitVec.ofNat 64 n } s)))) ∧
    (Issues (.vhist d a t) s → exec (.vhist d a t) s =
      .next (retire (s.setVreg d.toNat (vof 32 ((List.range 32).map (fun b =>
        (velem (s.vreg d.toNat) 32 b + (on.filter (fun i => x i == b)).length) % 2 ^ 32)))))) ∧
    (Issues (.vcmpr d a t) s → exec (.vcmpr d a t) s =
      .next (retire (s.setVreg d.toNat (vof w (on.map x ++ List.replicate (e - on.length) 0))))) ∧
    (Issues (.vpopc d v t) s → exec (.vpopc d v t) s =
      .next (retire (s.setVreg d.toNat (BitVec.ofNat 1024 (on.filter (fun i => (s.vmask v).getLsbD i)).length)))))) ∧
  (∀ (rd : Reduction) (f md draw n : Nat) (es : List (Option Nat)), 8 ≤ f → f < 13 → md < 5 → draw < 2 ^ 32 →
    es.length = 2 ^ n → (∀ e ∈ es, ∀ c, e = some c → c < 2 ^ fmtWidth f) →
    let op (a b : Nat) : Res := match rd with
      | .sum => fAdd 12 0 0 false a b
      | .max => fMinMax 12 false a b
      | .min => fMinMax 12 true a b
    let identity : Nat := match rd with
      | .sum => 0x80000000
      | .max => 0xFF800000
      | .min => 0x7F800000
    ∀ lv : Nat → Nat → Nat, (∀ i < 2 ^ n, lv 0 i = match es.getD i none with
        | none => identity
        | some c => (convert f 12 0 0 c).code) →
      (∀ k < n, ∀ i < 2 ^ (n - k - 1), lv (k + 1) i = (op (lv k (2 * i)) (lv k (2 * i + 1))).code) →
      let root := lv n 0
      let out := convert 12 f md draw root
      let steps := (List.range n).flatMap (fun k => (List.range (2 ^ (n - k - 1))).map (fun i =>
        (op (lv k (2 * i)) (lv k (2 * i + 1))).flags))
      let r := reduceFloat rd f md draw es
      (isNan 12 root = false → f ≠ 12 → r.code = out.code) ∧ (isNan 12 root = false → f = 12 → r.code = root) ∧
      (isNan 12 root = true → r.code = if isSignalling f out.code then out.code + quietBit f else out.code) ∧
      r.flags = steps.foldl (· ||| ·) 0#6 ||| out.flags |||
        (if es.any (fun e => e.any (isSignalling f)) then flagNV else 0#6))

/-- The float instructions (R115, R116, R125, R126): each active element takes the operation of the manual's arithmetic on
its operands, the others stand, the flags raised are those of active elements, and where the rounding is stochastic every
element has a draw of its own; where too few counter values are left RANDOM_EXHAUSTED, with nothing changed (R103). -/
def Obligations.VectorFloat : Prop :=
  ∀ (s : State) (d a b : BitVec 7) (t : BitVec 2),
    let f := s.fmt t
    let md := s.rnd t
    let w := fmtWidth f
    let e := 1024 / w
    let x (i : Nat) := velem (s.vreg a.toNat) w i
    let y (i : Nat) := velem (s.vreg b.toNat) w i
    let z (i : Nat) := velem (s.vreg d.toNat) w i
    let draw (i : Nat) : Nat := if md = 4 then drawOf s i else 0
    ∀ ir ∈ ([(.vfadd d a b t, true, fun i => fAdd f md (draw i) false (x i) (y i)),
        (.vfsub d a b t, true, fun i => fAdd f md (draw i) true (x i) (y i)),
        (.vfmul d a b t, true, fun i => fMul f md (draw i) (x i) (y i)),
        (.vfmin d a b t, false, fun i => fMinMax f true (x i) (y i)),
        (.vfmax d a b t, false, fun i => fMinMax f false (x i) (y i)),
        (.vfma d a b t, true, fun i => fFma f md (draw i) false false (x i) (y i) (z i)),
        (.vfms d a b t, true, fun i => fFma f md (draw i) false true (x i) (y i) (z i)),
        (.vfnma d a b t, true, fun i => fFma f md (draw i) true true (x i) (y i) (z i)),
        (.vfnms d a b t, true, fun i => fFma f md (draw i) true false (x i) (y i) (z i)),
        (.vexp2 d a t, true, fun i => fSpecial f md (draw i) .exp2 (x i)),
        (.vlog2 d a t, true, fun i => fSpecial f md (draw i) .log2 (x i)),
        (.vrcp d a t, true, fun i => fSpecial f md (draw i) .rcp (x i)),
        (.vrsq d a t, true, fun i => fSpecial f md (draw i) .rsq (x i)),
        (.vtanh d a t, true, fun i => fSpecial f md (draw i) .tanh (x i)),
        (.vsigm d a t, true, fun i => fSpecial f md (draw i) .sigm (x i))] : List (Instr × Bool × (Nat → Res))),
      Issues ir.1 s →
        let n := if ir.2.1 = true ∧ md = 4 then e / 2 else 0
        let on := (List.range e).filter (fun i => s.amask.getLsbD i)
        (s.slotHere.rngctr.toNat + n < 2 ^ 64 → exec ir.1 s =
          .next (retire (raiseFlags ((on.map (fun i => (ir.2.2 i).flags)).foldl (· ||| ·) 0#6)
            ((tookWords n s).setVreg d.toNat (vof w ((List.range e).map (fun i =>
              if s.amask.getLsbD i then (ir.2.2 i).code else z i))))))) ∧
        (2 ^ 64 ≤ s.slotHere.rngctr.toNat + n → exec ir.1 s = .next (takeTrap
          { cause := .randomExhausted, val := s.slotHere.rngctr, aux := BitVec.ofNat 64 n } s))

/-- A finite value within a float format's range rounds, under round-to-nearest, to a code no other finite code is nearer
than (R86); of two that are equally near the even one is taken; a value that is a code's own rounds to it with no flag. -/
def Obligations.RoundsToNearest : Prop :=
  ∀ (f : Nat) (x top : Machine.Real) (q : Int), 8 ≤ f → f < 13 → x.sticky = false → fvalue f (maxCode f) = .fin top →
    q ≤ x.e → q ≤ leastExp f → (x.scaled q).natAbs ≤ (top.scaled q).natAbs →
    let r := roundInto f 0 0 none x
    ∃ y, fvalue f r.code = .fin y ∧ ∀ c z, c < 2 ^ fmtWidth f → fvalue f c = .fin z →
      (y.scaled q - x.scaled q).natAbs ≤ (z.scaled q - x.scaled q).natAbs ∧
      ((y.scaled q - x.scaled q).natAbs = (z.scaled q - x.scaled q).natAbs → y.scaled q ≠ z.scaled q → r.code % 2 = 0) ∧
      (z.scaled q = x.scaled q → y.scaled q = x.scaled q ∧ r.flags = 0#6)

/-- Corners of float arithmetic in every format (R86, R91, Table 5.7): the first NaN operand comes out quieted, NV for a
signalling one; ∞ − ∞ and 0 × ∞ are invalid; an exact zero sum is +0, −0 when rounding down; −0 is below +0; the special
functions' table.
The values of float arithmetic in every format and rounding mode (R86 to R89, R91, R125, R126): the exact sum, difference,
product, fused result, reciprocal and reciprocal square root of finite codes, rounded once; an exact zero sum by the rule of R86;
powers of two and logarithms of powers of two; an infinite operand's sum or product. -/
def Obligations.FloatCorners : Prop :=
  (∀ (f md r x y : Nat), 8 ≤ f → f < 13 → md < 5 → r < 2 ^ 32 → x < 2 ^ fmtWidth f → y < 2 ^ fmtWidth f →
    let sign := 2 ^ (fmtWidth f - 1)
    let quiet (c : Nat) : Nat := if isSignalling f c then c + quietBit f else c
    let nv : FlagSet := if isSignalling f x || isSignalling f y then flagNV else 0#6
    let nan : Res := { code := nanCode f, flags := flagNV }
    let inf (neg : Bool) (fl : FlagSet) : Res := match infCode f with
      | some c => { code := (if neg then sign else 0) + c, flags := fl }
      | none => { code := (if neg then sign else 0) + maxCode f, flags := fl ||| flagCL }
    let one : Nat := expBias f * 2 ^ fracBits f
    let sp (g : Special) (c : Nat) : Res := fSpecial f md r g c
    (isNan f x = true → fAdd f md r false x y = { code := quiet x, flags := nv } ∧
      fMul f md r x y = { code := quiet x, flags := nv } ∧ fMinMax f true x y = { code := quiet x, flags := nv }) ∧
    (isNan f x = false → isNan f y = true → fAdd f md r false x y = { code := quiet y, flags := nv } ∧
      fMul f md r x y = { code := quiet y, flags := nv } ∧ fMinMax f false x y = { code := quiet y, flags := nv }) ∧
    (∀ c, infCode f = some c → fAdd f md r false c (sign + c) = nan ∧ fAdd f md r true c c = nan ∧ fMul f md r 0 c = nan ∧
      sp .exp2 (sign + c) = { code := 0 } ∧ sp .exp2 c = { code := c } ∧ sp .log2 (sign + c) = nan ∧
      sp .log2 c = { code := c } ∧ sp .rcp c = { code := 0 } ∧ sp .rcp (sign + c) = { code := sign } ∧
      sp .rsq c = { code := 0 } ∧ sp .rsq (sign + c) = nan ∧ sp .tanh c = { code := one } ∧
      sp .tanh (sign + c) = { code := sign + one } ∧ sp .sigm c = { code := one } ∧ sp .sigm (sign + c) = { code := 0 }) ∧
    (x ≤ maxCode f → fAdd f md r true x x = { code := if md = 3 then sign else 0 }) ∧
    (fMinMax f true 0 sign = { code := sign } ∧ fMinMax f false sign 0 = { code := 0 }) ∧
    (∀ z ∈ [0, sign], sp .log2 z = inf true flagDZ ∧ sp .rcp z = inf (z == sign) flagDZ ∧
      sp .rsq z = inf (z == sign) flagDZ ∧ sp .tanh z = { code := z } ∧ sp .exp2 z = { code := one } ∧
      sp .sigm z = { code := one - 2 ^ fracBits f }) ∧
    (sign < x → isNan f x = false → sp .log2 x = nan ∧ sp .rsq x = nan) ∧ sp .log2 one = { code := 0 }) ∧
  (∀ (f md r x y z : Nat), 8 ≤ f → f < 13 → md < 5 → r < 2 ^ 32 → x < 2 ^ fmtWidth f → y < 2 ^ fmtWidth f → z < 2 ^ fmtWidth f →
    let L := leastExp f
    let sign := 2 ^ (fmtWidth f - 1)
    let fin (c : Nat) : Prop := c % sign ≤ maxCode f
    let neg (c : Nat) : Bool := decide (sign ≤ c)
    let val := signedValue f L
    let one : Nat := 2 ^ (-L).toNat
    let zero (n : Bool) : Res := { code := if n then sign else 0 }
    let rounds (n : Bool) (q : Int) (e : Exact) (res : Res) : Prop := RoundedTo f md r (f != 12) n q e res
    let sum (q : Int) (v : Int) (bothNeg : Bool) (res : Res) : Prop :=
      (v ≠ 0 → rounds (decide (v < 0)) q (exactly v.natAbs) res) ∧ (v = 0 → res = zero (md == 3 || bothNeg))
    let p : Int := val x * val y
    let np : Bool := neg x != neg y
    (fin x → fin y →
      sum L (val x + val y) (x == sign && y == sign) (fAdd f md r false x y) ∧
      sum L (val x - val y) (x == sign && y == 0) (fAdd f md r true x y) ∧
      (p ≠ 0 → rounds np (2 * L) (exactly p.natAbs) (fMul f md r x y)) ∧ (p = 0 → fMul f md r x y = zero np) ∧
      (fin z → ∀ tp tz : Bool, sum (2 * L) ((if tp then -p else p) + (if tz then -val z else val z) * one)
        (p == 0 && np != tp && z % sign == 0 && neg z != tz) (fFma f md r tp tz x y z))) ∧
    (fin x → val x ≠ 0 → rounds (neg x) L (fun n d => compare (n * (val x).natAbs) (d * one ^ 2)) (fSpecial f md r .rcp x)) ∧
    (fin x → 0 < val x → rounds false L (fun n d => compare (n ^ 2 * (val x).natAbs) (d ^ 2 * one ^ 3)) (fSpecial f md r .rsq x)) ∧
    (∀ n : Int, fin x → val x = n * one →
      rounds false (min L n) (exactly (2 ^ (n - min L n).toNat)) (fSpecial f md r .exp2 x)) ∧
    (∀ j : Nat, fin x → val x = 2 ^ j → L + j ≠ 0 →
      rounds (decide (L + j < 0)) L (exactly ((L + j).natAbs * one)) (fSpecial f md r .log2 x)) ∧
    (∀ c, infCode f = some c → fin y →
      (∀ s : Bool, fAdd f md r s c y = { code := c } ∧ fAdd f md r s (sign + c) y = { code := sign + c }) ∧
      fAdd f md r false y c = { code := c } ∧ fAdd f md r true y c = { code := sign + c } ∧
      (val y ≠ 0 → fMul f md r c y = { code := (if neg y then sign else 0) + c })))

/-- The conversions (R127 to R130, R96): VCVT between any two formats but mx4, the narrower side in part p; VXPND; VORD by
the keys of R130 and VUNORD by their inverse; active elements are written, the others stand. VQMX and VDQMX: block j of 32
values goes with active bit j; VQMX leaves its element bytes in vd and its scale in byte j of vb, VDQMX the decoded values in
vd + j.
Conversion of one element (R90, R92 to R94, R127): between integers exact or saturated with CL, NX and, above the greatest
value, OF; an integer rounded once into a float format; a float rounded to an integer, and what leaves the range saturated with
CL and NV; a float rounded once into another, a NaN widened to its tag and narrowed back from it; the integer of an int4 or the
value of an fp6 or fp4 code in e4m3 (R85, R128).
A block quantised and decoded (R96): a NaN or an infinity makes the block a NaN; a block of zeros has the scale 0x7F; else the
scale is the exponent of the largest magnitude less 2, at least -127, and each element is rounded once with that scale taken out.
Decoding puts it back, with one rounding where it overflows.
The model's choices here: CL and NX, and OF, of what saturates (log entry 81); OF and the draw limit of integer formats (log
entry 114); with vd = vb the scale bytes over the element bytes (log entry 117). -/
def Obligations.Conversions : Prop :=
  ((((∀ (s : State) (d a : BitVec 7) (p : BitVec 3) (sf t : BitVec 2), Issues (.vcvt d a p sf t) s →
    let ws := fmtWidth (s.fmt sf)
    let wd := fmtWidth (s.fmt t)
    let n := 1024 / max ws wd
    let part := p.toNat * n
    let md := s.rnd t
    let res (k : Nat) : Res := convert (s.fmt sf) (s.fmt t) md (if md = 4 then drawOf s k else 0)
      (velem (s.vreg a.toNat) ws (if ws < wd then part + k else k))
    let at' (e : Nat) : Nat := if wd < ws then e - part else e
    let on := (List.range n).filter (fun k => s.amask.getLsbD k)
    let words := if md = 4 then (n + 1) / 2 else 0
    (s.slotHere.rngctr.toNat + words < 2 ^ 64 → exec (.vcvt d a p sf t) s =
      .next (retire (raiseFlags ((on.map (fun k => (res k).flags)).foldl (· ||| ·) 0#6)
        ((tookWords words s).setVreg d.toNat (vof wd ((List.range (1024 / wd)).map (fun e =>
          if (wd < ws → part ≤ e ∧ e < part + n) ∧ s.amask.getLsbD (at' e) = true then (res (at' e)).code
          else velem (s.vreg d.toNat) wd e))))))) ∧
    (2 ^ 64 ≤ s.slotHere.rngctr.toNat + words → exec (.vcvt d a p sf t) s = .next (takeTrap
      { cause := .randomExhausted, val := s.slotHere.rngctr, aux := BitVec.ofNat 64 words } s))) ∧
  (∀ (s : State) (d a : BitVec 7) (p : BitVec 3) (k t : BitVec 2),
    let w := fmtWidth (s.fmt t)
    let key (c : Nat) : Nat :=
      let sign := 2 ^ (w - 1)
      let T := (infCode (s.fmt t)).getD (maxCode (s.fmt t))
      if s.fmt t < 4 then c ^^^ sign
      else if s.fmt t < 8 then c
      else if isNan (s.fmt t) c = false ∧ sign ≤ c then T - (c - sign)
      else if c < sign then T + 1 + c
      else sign + (c - sign)
    ∀ ir ∈ ([(.vxpnd d a p k t, fun i => expandElem k (s.vreg a.toNat) (p.toNat * 128 + i)),
        (.vord d a t, fun i => key (velem (s.vreg a.toNat) w i)),
        (.vunord d a t, fun i => unorderKey (s.fmt t) (velem (s.vreg a.toNat) w i))] : List (Instr × (Nat → Nat))),
      Issues ir.1 s → exec ir.1 s = .next (retire (s.setVreg d.toNat (vof w ((List.range (1024 / w)).map (fun i =>
        if s.amask.getLsbD i then ir.2 i else velem (s.vreg d.toNat) w i)))))) ∧
  (∀ f c, f < 13 → c < 2 ^ fmtWidth f → orderKey f c < 2 ^ fmtWidth f ∧ unorderKey f (orderKey f c) = c)) ∧
  (∀ (s : State) (d a b : BitVec 7) (t : BitVec 2),
    let md := s.rnd t
    let on (j : Nat) : Prop := s.amask.getLsbD j = true
    (Issues (.vqmx d a b t) s →
      let words := if md = 4 then 128 else 0
      let blk (j : Nat) : Block :=
        quantise md (fun i => if md = 4 then drawOf s (32 * j + i) else 0) (velems (s.vreg (a.toNat + j)) 32 32)
      let fl : FlagSet := ((List.range 8).map (fun j => if on j then (blk j).flags else 0#6)).foldl (· ||| ·) 0#6
      let u := (tookWords words s).setVreg d.toNat (vof 128 ((List.range 8).map (fun j =>
        if on j then vpack 4 (blk j).elems else velem (s.vreg d.toNat) 128 j)))
      (s.slotHere.rngctr.toNat + words < 2 ^ 64 → exec (.vqmx d a b t) s =
        .next (retire (raiseFlags fl (u.setVreg b.toNat (vof 8 ((List.range 128).map (fun j =>
          if j < 8 ∧ on j then (blk j).scale else velem (u.vreg b.toNat) 8 j))))))) ∧
      (2 ^ 64 ≤ s.slotHere.rngctr.toNat + words → exec (.vqmx d a b t) s = .next (takeTrap
        { cause := .randomExhausted, val := s.slotHere.rngctr, aux := 128#64 } s))) ∧
    (Issues (.vdqmx d a b t) s → ∃ u, exec (.vdqmx d a b t) s = .next u ∧ OnlySlot s u ∧ SameThread s u ∧
      (∀ n, (∀ j < 8, on j → n ≠ d.toNat + j) → u.vreg n = s.vreg n) ∧
      (∀ r, u.reg r = s.reg r) ∧
      ∀ j < 8, on j → u.vreg (d.toNat + j) = vof 32 ((List.range 32).map (fun i =>
        (dequantise md (velem (s.vreg b.toNat) 8 j) (velem (s.vreg a.toNat) 4 (32 * j + i))).code))))) ∧
  ((∀ (sf df md r c : Nat), sf < 13 → df < 13 → md < 5 → r < 2 ^ 32 → c < 2 ^ fmtWidth sf →
    let res := convert sf df md r c
    let w := fmtWidth df
    let int (f n : Nat) : Int := if f < 4 ∧ 2 ^ (fmtWidth f - 1) ≤ n then (n : Int) - 2 ^ fmtWidth f else n
    let top : Int := if df < 4 then 2 ^ (w - 1) - 1 else 2 ^ w - 1
    let low : Int := if df < 4 then -2 ^ (w - 1) else 0
    let code (v : Int) : Nat := (v % 2 ^ w).toNat
    let fits (v : Int) : Prop := low ≤ v ∧ v ≤ top
    let near (v : Int) : Nat := code (if v < 0 then low else top)
    let ssign := 2 ^ (fmtWidth sf - 1)
    let dsign := 2 ^ (w - 1)
    let neg : Bool := decide (ssign ≤ c)
    let mag := c % ssign
    let L := min (leastExp sf) (leastExp df)
    (sf = df → res = { code := c }) ∧
    (sf ≠ df → sf < 8 →
      (df < 8 → (fits (int sf c) → res = { code := code (int sf c) }) ∧
        (¬fits (int sf c) →
          let above := top < ((int sf c).natAbs : Int)
          res = { code := near (int sf c), flags := flagCL ||| flagNX ||| (if above then flagOF else 0#6) })) ∧
      (8 ≤ df → (c = 0 → res = { code := 0 }) ∧ (c ≠ 0 → RoundedTo df md r true (decide (int sf c < 0)) (leastExp df)
        (exactly ((int sf c).natAbs * 2 ^ (-leastExp df).toNat)) res))) ∧
    (8 ≤ sf → df < 8 →
      let one : Nat := 2 ^ (-leastExp sf).toNat
      (isNan sf c = true → res = { code := 0, flags := flagNV }) ∧
      (infCode sf = some mag → res = { code := code (if neg then low else top), flags := flagNV ||| flagCL }) ∧
      (mag ≤ maxCode sf → ∃ (n : Nat) (inexact : Bool),
        let v : Int := if neg then -(n : Int) else n
        Rounds (fun a => a * one) (if md = 4 ∧ top.toNat * one < magnitude sf (leastExp sf) mag then 0 else md) r neg
          (exactly (magnitude sf (leastExp sf) mag)) n inexact ∧
        (fits v → res = { code := code v, flags := if inexact then flagNX else 0#6 }) ∧
        (¬fits v → res = { code := near v,
                           flags := flagCL ||| flagNV ||| flagNX ||| (if top < (n : Int) then flagOF else 0#6) }))) ∧
    (8 ≤ sf → 8 ≤ df → sf ≠ df →
      let bad : Res := { code := (if neg then dsign else 0) + nanCode df }
      (mag = 0 → res = { code := if neg then dsign else 0 }) ∧
      (0 < mag → mag ≤ maxCode sf → RoundedTo df md r true neg L (exactly (magnitude sf L mag)) res) ∧
      (infCode sf = some mag → res = match infCode df with
        | some i => { code := (if neg then dsign else 0) + i }
        | none => { code := (if neg then dsign else 0) + maxCode df, flags := flagCL }) ∧
      (isNan sf c = true → sf ≠ 12 → res = if df = 12
        then { code := (if neg then dsign else 0) + 0x7F800000 + 2 ^ 22 + 2 ^ 21 + sf * 2 ^ 16 + c } else bad) ∧
      (isNan sf c = true → sf = 12 →
        let tagged := c / 2 ^ 20 % 8 = 6 ∧ c / 2 ^ 16 % 16 = df ∧ c % 2 ^ 16 < 2 ^ w
        res = if tagged then { code := (if neg then dsign else 0) + c % dsign }
          else { bad with flags := if c / 2 ^ 22 % 2 = 0 then flagNV else 0#6 }))) ∧
  (∀ (k : BitVec 2) (x : VReg) (i : Nat),
    let n := [4, 6, 6, 4].getD k.toNat 4
    let c := velem x n i
    let frac := [0, 2, 3, 1].getD k.toNat 1
    let bias := [0, 3, 1, 1].getD k.toNat 1
    let mag := c % 2 ^ (n - 1)
    let e := expandElem k x i
    (k = 0#2 → signedValue 8 (-9) e = (if 8 ≤ c then (c : Int) - 16 else c) * 512 ∧ (c = 0 → e = 0)) ∧
    (k ≠ 0#2 → (128 ≤ e ↔ 2 ^ (n - 1) ≤ c) ∧ e < 256 ∧ magnitude 8 (-9) (e % 128) =
      if mag / 2 ^ frac = 0 then mag * 2 ^ (10 - bias - frac)
      else (2 ^ frac + mag % 2 ^ frac) * 2 ^ (9 + mag / 2 ^ frac - bias - frac))))) ∧
  ((∀ (md : Nat) (draw : Nat → Nat) (xs : List Nat), md < 5 → (∀ i, draw i < 2 ^ 32) → xs.length = 32 →
    (∀ c ∈ xs, c < 2 ^ 32) →
    let b := quantise md draw xs
    let mag (c : Nat) : Nat := c % 2 ^ 31
    let size (c : Nat) : Nat := magnitude 12 (-149) (mag c)
    ((∃ c ∈ xs, 0x7F800000 ≤ mag c) → b = { elems := List.replicate 32 0, scale := 0xFF, flags := flagNV }) ∧
    ((∀ c ∈ xs, mag c = 0) → b = { elems := List.replicate 32 0, scale := 0x7F }) ∧
    ((∀ c ∈ xs, mag c < 0x7F800000) → (∃ c ∈ xs, mag c ≠ 0) → ∃ (e : Int) (rs : List Res),
      -127 ≤ e ∧ b.scale = (e + 127).toNat ∧ (∀ c ∈ xs, size c < 2 ^ (e + 152).toNat) ∧
      (e = -127 ∨ ∃ c ∈ xs, 2 ^ (e + 151).toNat ≤ size c) ∧
      rs.length = 32 ∧ b.elems = rs.map (·.code) ∧ b.flags = (rs.map (·.flags)).foldl (· ||| ·) 0#6 ∧
      ∀ j c r, xs[j]? = some c → rs[j]? = some r →
        let neg : Bool := decide (2 ^ 31 ≤ c)
        (mag c = 0 → r = { code := if neg then 8 else 0 }) ∧
        (mag c ≠ 0 → RoundedTo 13 md (draw j) true neg (-149 - e) (exactly (size c)) r))) ∧
  (∀ (md scale c : Nat), md < 5 → scale < 256 → c < 16 →
    let r := dequantise md scale c
    let neg : Bool := decide (8 ≤ c)
    (scale = 255 → r = { code := 0x7FC00000 }) ∧
    (scale < 255 → (c % 8 = 0 → r = { code := if neg then 2 ^ 31 else 0 }) ∧
      (c % 8 ≠ 0 → RoundedTo 12 md 0 false neg (-149) (exactly (magnitude 13 (-1) (c % 8) * 2 ^ (scale + 21))) r))))

/-- RNG, RNGKEY and VRNG (R100 to R104, R133 to R135): RNG takes the generator's word for the tenant's seed, the slot's epoch
and lane and the counter, and counts on by one; RNGKEY sets the epoch from g[a][47:0] and the counter to 0; VRNG fills vd
from 16 or 32 words, inactive elements standing. Where the counter has too few values left, RANDOM_EXHAUSTED. -/
def Obligations.RandomNumbers : Prop :=
  ∀ (s : State) (d : BitVec 7) (a : BitVec 5) (t : BitVec 2),
    let ctr := s.slotHere.rngctr
    let word (m : Nat) : Word := gen (s.tenant s.actor.tid).seed
      (s.slotHere.epoch ++ BitVec.ofNat 16 (16 * s.actor.core + s.slotHere.lane)) (ctr + BitVec.ofNat 64 m)
    let left (n : Nat) : Prop := ctr.toNat + n < 2 ^ 64
    let exhausted (i : Instr) (n : Nat) : Prop := exec i s =
      .next (takeTrap { cause := .randomExhausted, val := ctr, aux := BitVec.ofNat 64 n } s)
    let fill (n w : Nat) (fl : FlagSet) (x : Nat → Nat) : State :=
      retire (raiseFlags fl ((tookWords n s).setVreg d.toNat (vof w ((List.range (1024 / w)).map (fun i =>
        if s.amask.getLsbD i then x i else velem (s.vreg d.toNat) w i)))))
    (Issues (.rng a) s → (left 1 → exec (.rng a) s = .next (retire ((tookWords 1 s).setReg a (word 0)))) ∧
      (¬left 1 → exhausted (.rng a) 1)) ∧
    (Issues (.rngkey a) s → exec (.rngkey a) s = .next (retire (s.modSlot (fun x =>
      { x with epoch := (s.reg a).extractLsb' 0 48, rngctr := 0#64 })))) ∧
    (Issues (.vrng d 0 t) s →
      (left 16 → exec (.vrng d 0 t) s = .next (fill 16 (fmtWidth (s.fmt t)) 0#6 (fun i =>
        let k := i * fmtWidth (s.fmt t)
        ((word (k / 64)).extractLsb' (k % 64) (fmtWidth (s.fmt t))).toNat))) ∧
      (¬left 16 → exhausted (.vrng d 0 t) 16)) ∧
    (Issues (.vrng d 1 t) s →
      (left 32 → exec (.vrng d 1 t) s = .next (fill 32 32 0#6 (fun i => uniformCode (word i)))) ∧
      (¬left 32 → exhausted (.vrng d 1 t) 32)) ∧
    (Issues (.vrng d 2 t) s →
      (left 32 → exec (.vrng d 2 t) s = .next (fill 32 32
        (if (List.range 32).any (fun i => s.amask.getLsbD i) then flagNX else 0#6)
        (fun i => (gumbel ((word i).extractLsb' 41 23).toNat).code))) ∧
      (¬left 32 → exhausted (.vrng d 2 t) 32))

/-! ### The matrix engine -/

/-- The matrix instructions (R138, R140, R143 to R151). At issue, with two operations queued on the core the turn is empty;
else the operation takes a queue entry with its registers and records as they stand, and its slot leaves the rotation, MZERO's
slot going on. MWAIT goes on once every operation of the core issued before it is done. A completion performs the core's
oldest one, over all its tenants, for its level-0 thread: MZERO clears its accumulator, after ERET's mark from row DONE;
MLDACC reads its rows of 32 words, MSTACC stores them, from the first row on, modulo 32; one whose address or stride is no
multiple of 4 raises MISALIGNED (R148). MMA, MMAT and MCONV multiply the elements their operands and records name into the
rows and columns of the accumulator, unit by unit (R142 to R149).
A multiply completes (R142 to R145, R148, R149): `B` is what it reads of B before the first row, `A i` what it reads of row i
of A; every element of row i and of the N columns takes its steps, and the row is in the accumulator whole before the next; rows
from M on and columns from N on stand. MCONV reads its operands through its records, outside their extents as PAD. A base or stride
that is not aligned raises MISALIGNED; an element, a block or a scale of B or A that does not translate traps, RPROG holding the
rows done: of B a block before its scale, of a row of A its blocks and then its scales.
A matrix operation goes on unit by unit (R148, R151): a unit of it, an element or a block read or a row put, leaves what the
rest of it has to do, so that whatever has been read stays read and, where nothing else acts, the whole is the same.
The model's choices here: an operation goes on unit by unit and its completion performs the rest (log entry 60); an MCONV
index of a dimension above NDIM is 0 (log entry 73); a two-byte element at an odd address is read without MISALIGNED (log
entry 121); RPROG.DONE of a marked MZERO is read when the engine begins it (log entry 150). -/
def Obligations.MatrixOperations : Prop :=
  (((∀ (s : State) (c : BitVec 3) (a b : BitVec 5) (x y : BitVec 3) (k : BitVec 1),
    let entry (i : Instr) (g h : Word) (recs : List Word) : MatOp :=
      { id := s.here.nextOp, order := s.tick, slot := s.actor.slot, launch := s.thr.launch, instr := i, a := g, b := h,
        recs := recs, resume := s.thr.resume }
    let queued (o : MatOp) : State := s.modHere (fun k => { k with mq := k.mq ++ [o], nextOp := k.nextOp + 1 })
    let takes (i : Instr) (o : MatOp) : Prop :=
      (2 ≤ matrixQueued s s.actor.core → exec i s = .next s) ∧
      (matrixQueued s s.actor.core < 2 → exec i s =
        .next ((queued o).modThr (fun th => { th with status := .engine, resume := false })))
    (∀ i ∈ [Instr.mma c a b x y k] ++ (if x = 6#3 then [] else [.mmat c a b x y k]), Issues i s →
      takes i (entry i (s.reg a) (s.reg b) [])) ∧
    (Issues (.mmat c a b x y k) s → x = 6#3 → ∀ n, scaleRecord s = .ok n →
      takes (.mmat c a b x y k) (entry (.mmat c a b x y k) (s.reg a) (s.reg b)
        [BitVec.ofNat 64 (n % 2 ^ 64), BitVec.ofNat 64 (n / 2 ^ 64)])) ∧
    (Issues (.mconv c a b x y k) s → ∀ r q, loadBytes s ((s.reg a).setWidth 20) 32 = .ok r →
      loadBytes s ((s.reg b).setWidth 20) 32 = .ok q →
      takes (.mconv c a b x y k) (entry (.mconv c a b x y k) (s.reg a) (s.reg b) (wordsOf r ++ wordsOf q))) ∧
    (∀ i ∈ [Instr.mldacc c a, .mstacc c a], Issues i s → takes i (entry i (s.reg a) 0#64 [])) ∧
    (Issues (.mzero c) s →
      (2 ≤ matrixQueued s s.actor.core → exec (.mzero c) s = .next s) ∧
      (matrixQueued s s.actor.core < 2 → exec (.mzero c) s =
        .next (retire (queued (entry (.mzero c) 0#64 0#64 []))))) ∧
    (Issues .mwait s →
      let upto := match s.thr.status with
        | .fenced _ n => n
        | _ => s.here.nextOp
      ((∀ o ∈ s.here.mq, upto ≤ o.id) → exec .mwait s = .next (retire s)) ∧
      ((∃ o ∈ s.here.mq, o.id < upto) → exec .mwait s =
        .next (s.modThr (fun th => { th with status := .fenced .mwait upto }))))) ∧
  ((∀ (s : State) (t c : Nat),
    ((s.coreOf t c).mq = [] ∨ (s.tenant t).phase.issues = false → exec (.matrixOpComplete t c) s = .next s) ∧
    (∀ o rest, (s.coreOf t c).mq = o :: rest → (s.tenant t).phase.issues = true →
      let oldest := ∀ d ∈ s.cur, ∀ x ∈ (d.2.core c).mq, o.order ≤ x.order
      (oldest → exec (.matrixOpComplete t c) s =
        .next (onThread { tid := t, core := c, slot := o.slot } 0 (runMatrix o)
          (s.modCoreOf t c (fun k => { k with mq := rest })))) ∧
      (¬oldest → exec (.matrixOpComplete t c) s = .next s))) ∧
  (∀ (s : State) (o : MatOp) (c : BitVec 3), o.instr = .mzero c → o.prog = none →
    let first := if o.resume then (s.slotHere.rprog.extractLsb' 0 24).toNat else 0
    OnlyCore s (runMatrix o s) ∧
    (o.resume = false → { (runMatrix o s).here with accs := s.here.accs } = s.here) ∧
    (o.resume = true → (runMatrix o s).slotHere = { s.slotHere with rprog := s.slotHere.rprog &&& ~~~(0x80000000#64) }) ∧
    ∀ d row col, row < 32 → col < 32 →
      accWord (runMatrix o s) d row col = if d = c.toNat ∧ first ≤ row then 0 else accWord s d row col) ∧
  (∀ (s : State) (c i d r n : Nat) (ws : List Nat), ws.length ≤ 32 → i < 32 → n < 32 → r < 32 → (∀ w ∈ ws, w < 2 ^ 32) →
    accWord (putAccRow s c i ws) d r n = if d = c ∧ r = i ∧ n < ws.length then ws.getD n 0 else accWord s d r n) ∧
  (∀ (s : State) (o : MatOp) (c : BitVec 3) (a : BitVec 5), (o.instr = .mldacc c a ∨ o.instr = .mstacc c a) →
    o.prog = none →
    let base := (o.a.extractLsb' 0 20).toNat
    let stride := (o.a.extractLsb' 20 16).toInt
    let first := (o.a.extractLsb' 36 5).toNat
    let rows := (o.a.extractLsb' 41 5).toNat + 1
    let done := if o.resume then (s.slotHere.rprog.extractLsb' 0 24).toNat else 0
    let at' (i : Nat) : LAddr := BitVec.ofInt 20 (base + i * stride)
    let ends (u : State) : State :=
      retire (if o.resume then u.modSlot (fun x => { x with rprog := x.rprog &&& ~~~(0x80000000#64) }) else u)
    let stops (j : Nat) (tr : Trap) (u : State) : State :=
      if u.slotHere.h = true ∨ u.thr.level ≠ 0 then takeTrap tr u
      else takeTrap { tr with res := true } (u.modSlot (fun x => { x with rprog := BitVec.ofNat 64 (j % 2 ^ 24 + 2 ^ 31) }))
    let word (v : State) (i n : Nat) : Acc (List Byte) := loadRange v (at' i + BitVec.ofNat 20 (4 * n)) 4
    let stores (v : State) (i : Nat) : Acc State := storeAll v ((List.range 32).map (fun j =>
      (at' i + BitVec.ofNat 20 (4 * j), natLe 4 (accWord v c.toNat ((first + i) % 32) j))))
    ((base % 4 ≠ 0 ∨ stride % 4 ≠ 0) → runMatrix o s = takeTrap { cause := .misaligned, val := o.a } s) ∧
    (base % 4 = 0 → stride % 4 = 0 → ∀ u : Nat → State, u done = s →
      (o.instr = .mldacc c a → ∀ j ≤ max done rows,
        (∀ i, done ≤ i → i < j → ∃ ws : Nat → List Byte, (∀ n < 32, word (u i) i n = .ok (ws n)) ∧
          u (i + 1) = putAccRow (u i) c.toNat ((first + i) % 32) ((List.range 32).map (fun n => leNat (ws n)))) →
        (j = max done rows → runMatrix o s = ends (u j)) ∧
        (done ≤ j → j < rows → ∀ n < 32, ∀ tr, (∀ m < n, ∃ bs, word (u j) j m = .ok bs) → word (u j) j n = .trap tr →
          runMatrix o s = stops j tr (u j))) ∧
      (o.instr = .mstacc c a → ∀ j ≤ max done rows, (∀ i, done ≤ i → i < j → stores (u i) i = .ok (u (i + 1))) →
        (j = max done rows → runMatrix o s = ends (u j)) ∧
        (done ≤ j → j < rows → ∀ tr, stores (u j) j = .trap tr → runMatrix o s = stops j tr (u j))))))) ∧
  (∀ (s : State) (o : MatOp) (c : BitVec 3) (a b : BitVec 5) (x y : BitVec 3) (k : BitVec 1),
    o.prog = none → comboOk o.instr = true →
    let fmt (t : BitVec 3) : Nat := [0, 4, 8, 9, 10, 11, 13].getD t.toNat 0
    let size (t : BitVec 3) : Nat := if 4 ≤ t.toNat then 2 else 1
    let done := if o.resume then (s.slotHere.rprog.extractLsb' 0 24).toNat else 0
    let ends (u : State) : State :=
      retire (if o.resume then u.modSlot (fun x => { x with rprog := x.rprog &&& ~~~(0x80000000#64) }) else u)
    let stops (j : Nat) (tr : Trap) (u : State) : State :=
      if u.slotHere.h = true ∨ u.thr.level ≠ 0 then takeTrap tr u
      else takeTrap { tr with res := true } (u.modSlot (fun x => { x with rprog := BitVec.ofNat 64 (j % 2 ^ 24 + 2 ^ 31) }))
    let runs (K N : Nat) (ofB : State → Nat → Nat → Elem → Prop) (ofA : State → Nat → Nat → Elem → Prop)
        (j : Nat) (u : Nat → State) : Prop :=
      ∃ A B : Nat → Nat → Elem, (∀ kk < K, ∀ n < N, ofB s kk n (B kk n)) ∧ u done = s ∧
        ∀ i, done ≤ i → i < j → (∀ kk < K, ofA (u i) i kk (A i kk)) ∧
          (let rs := (List.range N).map (fun n => elementOf (fmt x) (fmt y) k (accWord (u i) c.toNat i n)
            ((List.range K).map (A i)) ((List.range K).map (fun kk => B kk n)))
           u (i + 1) = raiseFlags ((rs.map (·.flags)).foldl (· ||| ·) 0#6) (putAccRow (u i) c.toNat i (rs.map (·.code))))
    (∀ tr : Bool, o.instr = (if tr then .mmat c a b x y k else .mma c a b x y k) → (x = 6#3 → o.recs.length = 2) →
      let K := (o.a.extractLsb' 36 11).toNat + 1
      let M := (o.b.extractLsb' 36 5).toNat + 1
      let N := (o.b.extractLsb' 41 5).toNat + 1
      let addr (g : Word) (row off : Nat) : LAddr :=
        BitVec.ofInt 20 ((g.extractLsb' 0 20).toNat + row * (g.extractLsb' 20 16).toInt + off)
      let w0 := o.recs.getD 0 0#64
      let w1 := o.recs.getD 1 0#64
      let read (v : State) (t : BitVec 3) (g : Word) (row col : Nat) : Acc (List Byte) :=
        loadRange v (addr g row (col * size t)) (size t)
      let elem (v : State) (t : BitVec 3) (g w : Word) (row col : Nat) (e : Elem) : Prop :=
        if t = 6#3 then ∃ bs z, loadRange v (addr g row (16 * (col / 32))) 16 = .ok bs ∧
          loadRange v (addr w row (col / 32)) 1 = .ok z ∧ e = { code := leNat bs / 16 ^ (col % 32) % 16, scale := leNat z }
        else ∃ bs, read v t g row col = .ok bs ∧ e = { code := leNat bs }
      let bad (t : BitVec 3) (g : Word) : Prop :=
        let n := if t = 6#3 then 16 else size t
        (g.extractLsb' 0 20).toNat % n ≠ 0 ∨ (g.extractLsb' 20 16).toNat % n ≠ 0
      let ofB (v : State) (kk n : Nat) : Elem → Prop := if tr then elem v y o.b w1 n kk else elem v y o.b w1 kk n
      let ofA (v : State) (i kk : Nat) : Elem → Prop := elem v x o.a w0 i kk
      (bad x o.a → runMatrix o s = takeTrap { cause := .misaligned, val := o.a } s) ∧
      (¬bad x o.a → bad y o.b → runMatrix o s = takeTrap { cause := .misaligned, val := o.b, aux := 1#64 } s) ∧
      (¬bad x o.a → ¬bad y o.b →
        (∀ u, runs K N ofB ofA (max done M) u → runMatrix o s = ends (u (max done M))) ∧
        (y ≠ 6#3 → ∀ e < N * K, ∀ t,
          let at' (e : Nat) : Acc (List Byte) :=
            if tr then read s y o.b (e / K) (e % K) else read s y o.b (e / N) (e % N)
          (∀ m < e, ∃ bs, at' m = .ok bs) → at' e = .trap t → runMatrix o s = stops done t s) ∧
        (x ≠ 6#3 → ∀ u j, runs K N ofB ofA j u → done ≤ j → j < M → ∀ kk < K, ∀ t,
          (∀ m < kk, ∃ bs, read (u j) x o.a j m = .ok bs) → read (u j) x o.a j kk = .trap t →
          runMatrix o s = stops j t (u j)) ∧
        (let blocks := (K + 31) / 32
         let block (v : State) (g : Word) (r j : Nat) : Acc (List Byte) := loadRange v (addr g r (16 * j)) 16
         let scale (v : State) (w : Word) (r j : Nat) : Acc (List Byte) := loadRange v (addr w r j) 1
         (y = 6#3 → ∀ e < N * blocks, ∀ t, (∀ m < e, (∃ bs, block s o.b (m / blocks) (m % blocks) = .ok bs) ∧
             ∃ bs, scale s w1 (m / blocks) (m % blocks) = .ok bs) →
           block s o.b (e / blocks) (e % blocks) = .trap t ∨ ((∃ bs, block s o.b (e / blocks) (e % blocks) = .ok bs) ∧
             scale s w1 (e / blocks) (e % blocks) = .trap t) → runMatrix o s = stops done t s) ∧
         (x = 6#3 → ∀ u j, runs K N ofB ofA j u → done ≤ j → j < M → ∀ e < blocks, ∀ t,
           ((∀ m < e, ∃ bs, block (u j) o.a j m = .ok bs) ∧ block (u j) o.a j e = .trap t) ∨
             ((∀ m < blocks, ∃ bs, block (u j) o.a j m = .ok bs) ∧ (∀ m < e, ∃ bs, scale (u j) w0 j m = .ok bs) ∧
               scale (u j) w0 j e = .trap t) → runMatrix o s = stops j t (u j))))) ∧
    (o.instr = .mconv c a b x y k → ∀ I W : Shape, I = Shape.ofBytes (bytesOf (o.recs.take 4)) →
      W = Shape.ofBytes (bytesOf (o.recs.drop 4)) → I.fmt = fmt x → W.fmt = fmt y →
      let C := if 2 ≤ I.ndim then I.ext.getD 2 1 else 1
      let Kw := I.win0 + 1
      let M := (o.b.extractLsb' 20 5).toNat + 1
      let N := (o.b.extractLsb' 25 5).toNat + 1
      let inside (r : Shape) (ix : List Int) : Prop := ∀ d ≤ r.ndim, 0 ≤ ix.getD d 0 ∧ ix.getD d 0 < (r.ext.getD d 1 : Int)
      let at' (r : Shape) (ix : List Int) : LAddr :=
        BitVec.ofInt 20 (r.base + ((List.range (r.ndim + 1)).map (fun d => ix.getD d 0 * r.str.getD d 0)).sum)
      let elem (v : State) (r : Shape) (t : BitVec 3) (ix : List Int) (e : Elem) : Prop :=
        (inside r ix → ∃ bs, loadRange v (at' r ix) (size t) = .ok bs ∧ e = { code := leNat bs }) ∧
        (¬inside r ix → e = { code := r.pad % 256 ^ size t })
      let fails (v : State) (r : Shape) (t : BitVec 3) (ix : List Int) (tr : Trap) : Prop :=
        inside r ix ∧ loadRange v (at' r ix) (size t) = .trap tr
      let ixB (kk n : Nat) : List Int := [(kk % C : Nat), (n : Nat), (kk / C : Nat), 0]
      let ixA (i kk : Nat) : List Int :=
        [(o.a.extractLsb' 20 16).toInt + (i * ((o.a.extractLsb' 52 4).toNat + 1) + kk / C % Kw * (I.dil0 + 1) : Nat),
         (o.a.extractLsb' 36 16).toInt + (kk / C / Kw * (I.dil1 + 1) : Nat), (kk % C : Nat), 0]
      let ofB (v : State) (kk n : Nat) : Elem → Prop := elem v W y (ixB kk n)
      let ofA (v : State) (i kk : Nat) : Elem → Prop := elem v I x (ixA i kk)
      let K := C * Kw * (I.win1 + 1)
      (∀ u, runs K N ofB ofA (max done M) u → runMatrix o s = ends (u (max done M))) ∧
      (∀ e < N * K, ∀ tr, (∀ m < e, ∃ z, ofB s (m % K) (m / K) z) → fails s W y (ixB (e % K) (e / K)) tr →
        runMatrix o s = stops done tr s) ∧
      (∀ u j, runs K N ofB ofA j u → done ≤ j → j < M → ∀ kk < K, ∀ tr, (∀ m < kk, ∃ z, ofA (u j) j m z) →
        fails (u j) I x (ixA j kk) tr → runMatrix o s = stops j tr (u j))))) ∧
  (∀ (s t : State) (o : MatOp) (p q : MatProg), p.row < o.engine.rows → o.engine.unit p s = .ok (t, q) →
    o.engine.finish q (raiseFlags q.flags t) = o.engine.finish p (raiseFlags p.flags s) ∧
    (p.b.length < o.engine.bUnits ∨ p.a.length < o.engine.aUnits → t = s))

/-- The arithmetic of MMA, MMAT and MCONV (R97, R144): an i32 accumulator word takes the sum of the products modulo 2^32,
with no flag, whatever its K-steps; an f32 word goes through K-steps of 32 products (16 of two bytes, 64 of mx4), the exact sum of
the step's products added to it with one rounding to nearest even. A NaN word stands; a step with a NaN operand, 0 × ∞ or
infinities of both signs makes it the default NaN, with NV but for a quiet NaN; an exact zero is +0, −0 where all are −0. -/
def Obligations.MatrixElements : Prop :=
  (∀ (ta tb acc : Nat) (row col : List Elem), ta ∈ [0, 4] → tb ∈ [0, 4] → row.length = col.length → acc < 2 ^ 32 →
    (∀ e ∈ row ++ col, e.code < 256) →
    let val (f : Nat) (e : Elem) : Int := if f = 0 ∧ 128 ≤ e.code then (e.code : Int) - 256 else e.code
    elementOf ta tb 1#1 acc row col =
      { code := (((acc : Int) + ((row.zip col).map (fun (p : Elem × Elem) => val ta p.1 * val tb p.2)).sum) % 2 ^ 32).toNat }) ∧
  (∀ (ta tb acc : Nat) (row col : List Elem), row.length = col.length →
    let depth := if ta = 13 then 64 else if ta = 8 ∨ ta = 9 then 32 else 16
    ta ∈ [8, 9, 10, 11, 13] →
    (row = [] → elementOf ta tb 0#1 acc row col = { code := acc }) ∧
    (row ≠ [] →
      let first := floatStep ta tb acc ((row.zip col).take depth)
      let rest := elementOf ta tb 0#1 first.code (row.drop depth) (col.drop depth)
      elementOf ta tb 0#1 acc row col = { code := rest.code, flags := rest.flags ||| first.flags })) ∧
  (∀ (ta tb acc : Nat) (ps : List (Elem × Elem)), ta ∈ [8, 9, 10, 11, 13] → tb ∈ [8, 9, 10, 11, 13] → ps ≠ [] → acc < 2 ^ 32 →
    (∀ p ∈ ps, p.1.code < 2 ^ fmtWidth ta ∧ p.2.code < 2 ^ fmtWidth tb ∧ p.1.scale < 256 ∧ p.2.scale < 256) →
    let low (f : Nat) : Int := if f = 13 then -128 else leastExp f
    let neg (f : Nat) (e : Elem) : Bool := decide (2 ^ (fmtWidth f - 1) ≤ e.code)
    let val (f : Nat) (e : Elem) : Int :=
      if f = 13 then signedValue 13 (-1) e.code * 2 ^ e.scale else signedValue f (leastExp f) e.code
    let nan (f : Nat) (e : Elem) : Prop := if f = 13 then e.scale = 255 else isNan f e.code = true
    let inf (f : Nat) (e : Elem) : Prop := infCode f = some (e.code % 2 ^ (fmtWidth f - 1))
    let zero (f : Nat) (e : Elem) : Prop := ¬nan f e ∧ e.code % 2 ^ (fmtWidth f - 1) = 0
    let aNan := ∃ p ∈ ps, nan ta p.1 ∨ nan tb p.2
    let signals := ∃ p ∈ ps, (ta ≠ 13 ∧ isSignalling ta p.1.code = true) ∨ (tb ≠ 13 ∧ isSignalling tb p.2.code = true)
    let zeroInf := ∃ p ∈ ps, (zero ta p.1 ∧ inf tb p.2) ∨ (inf ta p.1 ∧ zero tb p.2)
    let infinite (n : Bool) : Prop := ∃ p ∈ ps, ¬nan ta p.1 ∧ ¬nan tb p.2 ∧ ¬zero ta p.1 ∧ ¬zero tb p.2 ∧
      (inf ta p.1 ∨ inf tb p.2) ∧ (neg ta p.1 != neg tb p.2) = n
    let bad := zeroInf ∨ (infinite false ∧ infinite true)
    let r := floatStep ta tb acc ps
    (isNan 12 acc = true → r.code = acc) ∧
    (isNan 12 acc = false → aNan ∨ bad → r.code = 0x7FC00000) ∧
    (isNan 12 acc = true ∨ aNan ∨ bad → (signals ∨ bad → r.flags = flagNV) ∧ (¬(signals ∨ bad) → r.flags = 0#6)) ∧
    (isNan 12 acc = false → ¬aNan → ¬bad →
      (∀ n, infinite n → r = if acc = (if n then 0x7F800000 else 0xFF800000) then { code := 0x7FC00000, flags := flagNV }
        else { code := if n then 0xFF800000 else 0x7F800000 }) ∧
      ((∀ n, ¬infinite n) → (acc % 2 ^ 31 = 0x7F800000 → r = { code := acc }) ∧
        (acc % 2 ^ 31 ≠ 0x7F800000 →
          let l := low ta + low tb
          let q := min (-149) l
          let sum := (ps.map (fun p => val ta p.1 * val tb p.2)).sum
          let v := signedValue 12 (-149) acc * 2 ^ (-149 - q).toNat + sum * 2 ^ (l - q).toNat
          (v ≠ 0 → RoundedTo 12 0 0 false (decide (v < 0)) q (exactly v.natAbs) r) ∧
          (v = 0 → r = { code := if acc = 2 ^ 31 ∧ ∀ p ∈ ps, (zero ta p.1 ∨ zero tb p.2) ∧ neg ta p.1 ≠ neg tb p.2
            then 2 ^ 31 else 0 })))))

/-! ### Semaphores, rings, fences and the ends of phases -/

/-- SEMWAIT waits until the semaphore is at least g[d][31:0] + n, and changes nothing (R178). SEMSIG adds the signed
g[d][31:0] and n, SEMSET puts g[d][31:0] + n, each within 0 and 2^32 - 1, with the old value in g[c] (R179). -/
def Obligations.Semaphores : Prop :=
  ∀ (s : State) (d a n e c : BitVec 5),
    let sem := (s.sem a.toNat).toNat
    let g := (s.reg d).extractLsb' 0 32
    let becomes (i : Instr) (v : Int) : Prop := exec i s =
      .next (retire ((s.setSem a.toNat (BitVec.ofInt 32 (if v < 0 then 0 else if 2 ^ 32 - 1 < v then 2 ^ 32 - 1 else v))).setReg
        c (BitVec.ofNat 64 sem)))
    (Issues (.semwait d a n e) s →
      (g.toNat + n.toNat ≤ sem → exec (.semwait d a n e) s = .next (retire s)) ∧
      (sem < g.toNat + n.toNat → exec (.semwait d a n e) s =
        .next (s.modThr (fun th => { th with status := .waiting (.semwait d a n e) })))) ∧
    (Issues (.semsig d a n c) s → becomes (.semsig d a n c) (sem + g.toInt + n.toNat)) ∧
    (Issues (.semset d a n c) s → becomes (.semset d a n c) (g.toNat + n.toNat))

/-- RINGWAIT, RINGRSV and the four modes of RINGADV (R40, R181, R182).
FENCE, QFENCE, SYNC and XEND (R183, R199, R200); SYNC and XEND release the slots held for a trap of SITOUT as ERET does
(R215). FENCE waits for the loop-back writes of operations issued before it, QFENCE for those operations themselves; XEND
for its own slot's. -/
def Obligations.RingsAndFences : Prop :=
  (∀ (s : State) (d : BitVec 5) (r : BitVec 4) (n e : BitVec 5),
    let h := s.ring r.toNat
    let base := (h.extractLsb' 0 14).toNat * 64
    let cap := 2 ^ (h.extractLsb' 14 4).toNat
    let entry := 8 * 2 ^ (h.extractLsb' 18 3).toNat
    let head := h.extractLsb' 32 16
    let tail := h.extractLsb' 48 16
    let occ := (tail - head).toNat
    let addr (i : BitVec 16) : Word := BitVec.ofNat 64 (base + i.toNat % cap * entry)
    let valid := (h.extractLsb' 14 4).toNat ≤ 12 ∧ (h.extractLsb' 18 3).toNat ≤ 4 ∧ base + cap * entry ≤ 0x80000
    let range (i : Instr) (v : Word) : Prop :=
      exec i s = .next (takeTrap { cause := .illegalInstruction, val := v, aux := 2#64 } s)
    (∀ i ∈ [Instr.ringwait d r n e, .ringrsv d r n e, .ringadvHead d r n, .ringadvTail d r n,
        .ringadvWrite d r, .ringadvRead d r], Issues i s → ¬valid →
      ∃ tr, tr.cause = .localUnmapped ∧ exec i s = .next (takeTrap tr s)) ∧
    (valid →
      (Issues (.ringwait d r n e) s →
        (n.toNat ≤ occ → exec (.ringwait d r n e) s = .next (retire (s.setReg d (addr head)))) ∧
        (occ < n.toNat → exec (.ringwait d r n e) s =
          .next (s.modThr (fun th => { th with status := .waiting (.ringwait d r n e) })))) ∧
      (Issues (.ringrsv d r n e) s →
        ((n.toNat : Int) ≤ max 0 ((cap : Int) - occ) → exec (.ringrsv d r n e) s = .next (retire (s.setReg d (addr tail)))) ∧
        (max 0 ((cap : Int) - occ) < n.toNat → exec (.ringrsv d r n e) s =
          .next (s.modThr (fun th => { th with status := .waiting (.ringrsv d r n e) })))) ∧
      (Issues (.ringadvHead d r n) s →
        (occ < n.toNat → range (.ringadvHead d r n) (n.setWidth 64)) ∧
        (n.toNat ≤ occ → exec (.ringadvHead d r n) s = .next (retire
          ((s.setRing r.toNat (tail ++ ((head + n.setWidth 16) ++ h.extractLsb' 0 32))).setReg d (addr (head + n.setWidth 16)))))) ∧
      (Issues (.ringadvTail d r n) s →
        (max 0 ((cap : Int) - occ) < n.toNat → range (.ringadvTail d r n) (n.setWidth 64)) ∧
        ((n.toNat : Int) ≤ max 0 ((cap : Int) - occ) → exec (.ringadvTail d r n) s = .next (retire
          ((s.setRing r.toNat ((tail + n.setWidth 16) ++ h.extractLsb' 0 48)).setReg d (addr (tail + n.setWidth 16))))))) ∧
    (Issues (.ringadvWrite d r) s → valid →
      let v := s.reg d
      let refused := v.extractLsb' 21 11 ≠ 0#11 ∨ 12 < (v.extractLsb' 14 4).toNat ∨ 4 < (v.extractLsb' 18 3).toNat ∨
        2 ^ (v.extractLsb' 14 4).toNat < (v.extractLsb' 48 16 - v.extractLsb' 32 16).toNat
      (refused → range (.ringadvWrite d r) v) ∧
      (¬refused → exec (.ringadvWrite d r) s = .next (retire (s.setRing r.toNat v)))) ∧
    (Issues (.ringadvRead d r) s → valid → exec (.ringadvRead d r) s = .next (retire (s.setReg d h)))) ∧
  (∀ (s : State) (q : BitVec 2),
    let k := s.here
    let upto := match s.thr.status with
      | .fenced _ n => n
      | _ => k.nextOp
    let goesOr (i : Instr) (open' : Prop) : Prop :=
      (open' → exec i s = .next (s.modThr (fun th => { th with status := .fenced i upto }))) ∧
      (¬open' → exec i s = .next (retire s))
    let arrives (i : Instr) : Prop :=
      exec i s = .next (releaseHeld ((retire s).modThr (fun th => { th with status := .arrived })))
    let mine := (∃ x ∈ k.xq, x.slot = s.actor.slot) ∨ (∃ x ∈ k.mq, x.slot = s.actor.slot) ∨
      (∃ x ∈ k.cq, x.slot = s.actor.slot) ∨ (∃ x ∈ k.links, x.slot = s.actor.slot) ∨ ∃ x ∈ k.port, x.slot = s.actor.slot
    (Issues .fence s → goesOr .fence
      ((∃ o ∈ k.xq, o.id < upto ∧ ∃ u ∈ (unitsOf s s.actor.tid s.actor.core o).drop o.next, u.core = some s.actor.core) ∨
        (∃ l ∈ k.links, l.id < upto ∧ l.sends = false) ∨ ∃ w ∈ k.port, w.id < upto)) ∧
    (Issues (.qfence q) s → goesOr (.qfence q)
      ((q.getLsbD 0 = true ∧ ∃ o ∈ k.mq, o.id < upto) ∨
        (q.getLsbD 1 = true ∧ ((∃ o ∈ k.cq, o.id < upto) ∨ ∃ o ∈ k.xq, o.id < upto)))) ∧
    (Issues .sync s → arrives .sync) ∧
    (Issues .xend s → (¬mine → arrives .xend) ∧
      (mine → exec .xend s = .next (s.modThr (fun th => { th with status := .waiting .xend })))))

/-! ### Copies and transfers -/

/-- CPY and CPYSH (R184 to R186). At issue the checks in their order; then, with two operations in the copy queue the turn
is empty, else the copy takes an entry with its registers and records, and its slot leaves the rotation. A completion performs
the oldest one for its thread, a unit at a time: CPY moves its units, the aligned 64-byte pieces of the destination, in
increasing address, each reading the source as it then stands, CPYSH the elements of its records; SEM is signalled at the
end.
The model's choices here: a copy goes on unit by unit and its completion performs at once all that is left (log entry 60); in
a CPYSH unit a block's element bytes come before its scale byte (log entry 138). -/
def Obligations.Copies : Prop :=
  (∀ (s : State) (d a b c : BitVec 5) (rd ra : List Byte),
    let w := s.reg b
    let len := (w.extractLsb' 0 21).toNat
    let bad (p : Bool) (v : Word) (aux : Nat) : Option Trap :=
      if p then some { cause := .misaligned, val := v, aux := BitVec.ofNat 64 aux } else none
    let sem : Option Trap := if w.getLsbD 26 && !s.here.share.sem.getLsbD (w.extractLsb' 21 5).toNat then
      some { cause := .illegalRegister, val := w } else none
    let does (i : Instr) (c : BitVec 5) (recs : List Word) (checks : List (Option Trap)) : Prop :=
      (∀ tr, checks.findSome? id = some tr → exec i s = .next (takeTrap tr s)) ∧
      (checks.findSome? id = none →
        (2 ≤ copyQueued s s.actor.core → exec i s = .next s) ∧
        (copyQueued s s.actor.core < 2 → exec i s = .next ((s.modHere (fun k => { k with
          nextOp := k.nextOp + 1
          cq := k.cq ++ [{ id := k.nextOp, order := s.tick, slot := s.actor.slot, level := s.thr.level, instr := i,
                           d := s.reg d, a := s.reg a, b := w, c := s.reg c, recs := recs
                           resume := s.thr.resume }] })).modThr (fun th =>
            { th with status := .engine, resume := false }))))
    (Issues (.cpy d a b) s → does (.cpy d a b) 0#5 []
      [sem, bad ((s.reg d).toNat % 8 != 0) (s.reg d) 0, bad ((s.reg a).toNat % 8 != 0) (s.reg a) 1,
       bad (decide (2 ^ 20 < len ∨ len % 8 ≠ 0)) w 2]) ∧
    (Issues (.cpysh d a b c) s → loadBytes s ((s.reg d).setWidth 20) 32 = .ok rd →
      loadBytes s ((s.reg a).setWidth 20) 32 = .ok ra →
      let mx := (Shape.ofBytes ra).fmt = 13
      does (.cpysh d a b c) c (wordsOf rd ++ wordsOf ra)
        [sem, bad (decide (2 ^ 20 < len ∨ (mx ∧ len % 32 ≠ 0))) w 2, bad (decide (mx ∧ (s.reg c).toNat % 32 ≠ 0)) (s.reg c) 3])) ∧
  ((∀ (s : State) (t c : Nat),
    ((s.coreOf t c).cq = [] ∨ (s.tenant t).phase.issues = false → exec (.copyComplete t c) s = .next s) ∧
    (∀ o rest, (s.coreOf t c).cq = o :: rest → (s.tenant t).phase.issues = true →
      let first := ∀ d ∈ s.cur, (∀ x ∈ (d.2.core c).cq, o.order ≤ x.order) ∧
        ∀ x ∈ (d.2.core c).xq, x.injected = false → o.order ≤ x.order
      (first → exec (.copyComplete t c) s =
        .next (onThread { tid := t, core := c, slot := o.slot } o.level (runCopy o)
          (s.modCoreOf t c (fun k => { k with cq := rest })))) ∧
      (¬first → exec (.copyComplete t c) s = .next s))) ∧
  (∀ (s : State) (o : CopyOp) (u : Nat → State), o.done = none →
    let len := (o.b.extractLsb' 0 21).toNat
    let done := if o.resume then (s.slotHere.rprog.extractLsb' 0 24).toNat else 0
    let ends (v : State) : State :=
      let v := if o.b.getLsbD 26 then bumpSem v s.actor.tid s.actor.core (o.b.extractLsb' 21 5).toNat else v
      retire (if o.resume then v.modSlot (fun x => { x with rprog := x.rprog &&& ~~~(0x80000000#64) }) else v)
    let stops (j : Nat) (tr : Trap) (v : State) : State :=
      if v.slotHere.h = true ∨ v.thr.level ≠ 0 then takeTrap tr v
      else takeTrap { tr with res := true } (v.modSlot (fun x => { x with rprog := BitVec.ofNat 64 (j % 2 ^ 24 + 2 ^ 31) }))
    let goes (units : Nat) (ok : Nat → Prop) (fails : Nat → Trap → Prop) : Prop :=
      u done = s → ∀ j ≤ max done units, (∀ i, done ≤ i → i < j → ok i) →
        (j = max done units → runCopy o s = ends (u j)) ∧
        (done ≤ j → j < units → ∀ tr, fails j tr → runCopy o s = stops j tr (u j))
    (∀ d a b, o.instr = .cpy d a b →
      let base := o.d.toNat % 2 ^ 20
      let cuts := if len = 0 then 0 else (len + base % 64 + 63) / 64
      let lo (i : Nat) := if i = 0 then 0 else i * 64 - base % 64
      let hi (i : Nat) := min len ((i + 1) * 64 - base % 64)
      let source (i : Nat) := loadRange (u i) (o.a.setWidth 20 + BitVec.ofNat 20 (lo i)) (hi i - lo i)
      let place' (i : Nat) := prepareStore (u i) (o.d.setWidth 20 + BitVec.ofNat 20 (lo i)) 1
      goes cuts (fun i => ∃ bs v f off, source i = .ok bs ∧ place' i = .ok (v, f, off) ∧
          u (i + 1) = putHere v (o.d.setWidth 20 + BitVec.ofNat 20 (lo i)) f off bs)
        (fun j tr => source j = .trap tr ∨ ∃ bs, source j = .ok bs ∧ place' j = .trap tr)) ∧
    (∀ d a b c, o.instr = .cpysh d a b c → ∀ dst src : Shape, dst = Shape.ofBytes (bytesOf (o.recs.take 4)) →
      src = Shape.ofBytes (bytesOf (o.recs.drop 4)) → src.fmt < 14 → src.fmt = dst.fmt →
      let n := fmtWidth src.fmt / 8
      (src.fmt ≠ 13 →
        let run := 64 / n
        ∀ val : Nat → List Byte,
        let index (i j : Nat) : Nat := o.c.toNat + i * run + j
        let writes (i : Nat) : List (LAddr × List Byte) := (List.range (min run (len - i * run))).filterMap (fun j =>
          (dst.index (index i j)).map (fun x => (dst.addr x, val (index i j))))
        let reads (i : Nat) : Prop := ∀ j < min run (len - i * run), dst.index (index i j) ≠ none →
          match src.index (index i j) with
          | none => val (index i j) = natLe n src.pad
          | some x => loadBytes (u i) (src.addr x) n = .ok (val (index i j))
        goes ((len + run - 1) / run) (fun i => reads i ∧ storeAll (u i) (writes i) = .ok (u (i + 1)))
          (fun j tr => reads j ∧ storeAll (u j) (writes j) = .trap tr)) ∧
      (src.fmt = 13 → len % 32 = 0 → ∀ val : Nat → List Byte × List Byte,
        let index (i j : Nat) : Nat := o.c.toNat + i * 128 + 32 * j
        let blocks (i : Nat) : Nat := min 128 (len - i * 128) / 32
        let writes (i : Nat) : List (LAddr × List Byte) := (List.range (blocks i)).flatMap (fun j =>
          match dst.index (index i j) with
          | none => []
          | some x => [(dst.addr x, (val (index i j)).1), (dst.scaleAddr x, (val (index i j)).2)])
        let reads (i : Nat) : Prop := ∀ j < blocks i, dst.index (index i j) ≠ none →
          match src.index (index i j) with
          | none => val (index i j) = (natLe 16 (vpack 4 (List.replicate 32 (src.pad % 16))), [0x7F#8])
          | some x => loadBytes (u i) (src.addr x) 16 = .ok (val (index i j)).1 ∧
            loadBytes (u i) (src.scaleAddr x) 1 = .ok (val (index i j)).2
        goes ((len + 127) / 128) (fun i => reads i ∧ storeAll (u i) (writes i) = .ok (u (i + 1)))
          (fun j tr => reads j ∧ storeAll (u j) (writes j) = .trap tr)))))

/-- XPUT, XGET, XDEAL, XMCAST, XRED, XHFILL and XHSPILL at issue (R184, R188, R191, R192, R194): the checks in their order,
MISALIGNED and TRANSLATION with the operand's number (a local operand that is no local address, a remote one that is none of its
kind), then LOCAL_UNMAPPED for the local range; with the tenant's share of
the completion table full the turn is empty; with room in the copy queue the transfer takes its entries and the slot goes
on.
The model's choices here: ranges are checked at issue and a local operand with bits above [19:0] traps (log entry 65); every
address and length is a multiple of 8 (log entry 66). -/
def Obligations.TransferIssue : Prop :=
  ∀ (s : State) (d a b c : BitVec 5) (op : BitVec 3),
    let w := s.reg b
    let len := (w.extractLsb' 0 21).toNat
    let x := s.reg c
    let bad (cause : Cause) (p : Bool) (v : Word) (aux : Nat) : Option Trap :=
      if p then some { cause := cause, val := v, aux := BitVec.ofNat 64 aux } else none
    let lacks (at' : Nat) (on : Nat) : Bool := w.getLsbD on && !s.here.share.sem.getLsbD (w.extractLsb' at' 5).toNat
    let common (receives more : Bool) : List (Option Trap) :=
      [if lacks 21 26 || (receives && lacks 27 32) then some { cause := .illegalRegister, val := w } else none,
       bad .misaligned ((s.reg d).toNat % 8 != 0) (s.reg d) 0, bad .misaligned ((s.reg a).toNat % 8 != 0) (s.reg a) 1,
       bad .misaligned (decide (2 ^ 20 < len) || len % 8 != 0 || more) w 2]
    let block := 64 * ((x.extractLsb' 24 6).toNat + 1)
    let x0 := (x.extractLsb' 0 6).toNat
    let y0 := (x.extractLsb' 6 6).toNat
    let wd := (x.extractLsb' 12 6).toNat + 1
    let ht := (x.extractLsb' 18 6).toNat + 1
    let outside := 64 < x0 + wd ∨ 48 < y0 + ht ∨
      ∃ i < wd, ∃ j < ht, (y0 + j) * 64 + x0 + i ∉ s.myLaunch.cores
    let group := (s.dev s.actor.tid).groups.get (x.extractLsb' 0 8).toNat []
    let mask := (x.extractLsb' 8 16).toNat
    let vault (v : Word) (aux : Nat) : Option Trap := bad .translation (!vaultRange v len) v aux
    let hbm (v : Word) (aux : Nat) : Option Trap := bad .translation (!hbmRange v len) v aux
    let far (v : Word) (aux : Nat) : Option Trap := bad .translation (decide (2 ^ 20 ≤ v.toNat)) v aux
    ∀ it ∈ ([(.xput d a b, 0#5, common false false ++ [vault (s.reg d) 0, far (s.reg a) 1], some a, false),
        (.xred d a b op, 0#5, common false false ++ [vault (s.reg d) 0, far (s.reg a) 1], some a, false),
        (.xget d a b, 0#5, common true false ++ [far (s.reg d) 0, vault (s.reg a) 1], some d, false),
        (.xmcast d a b c, c, common false false ++ [far (s.reg d) 0, far (s.reg a) 1,
          bad .translation (decide (group = [] ∨ mask = 0 ∨ 2 ^ group.length ≤ mask)) x 3], some a, false),
        (.xdeal d a b c, c, common false (len % block != 0) ++
          [far (s.reg d) 0, hbm (s.reg a) 1, bad .translation (decide outside) x 3], none, true),
        (.xhfill d a b, 0#5, common true false ++ [far (s.reg d) 0, hbm (s.reg a) 1], some d, true),
        (.xhspill d a b, 0#5, common false false ++ [hbm (s.reg d) 0, far (s.reg a) 1], some a, true)] :
        List (Instr × BitVec 5 × List (Option Trap) × Option (BitVec 5) × Bool)), Issues it.1 s →
      let maps : Acc Unit := match it.2.2.2.1 with
        | none => .ok ()
        | some r => localRange s ((s.reg r).setWidth 20) len
      let o : XferOp :=
        { id := s.here.nextOp, order := s.tick, slot := s.actor.slot, instr := it.1, d := s.reg d, a := s.reg a, b := w,
          c := s.reg it.2.1
          ctx := { level := s.thr.level, origin := s.thr.origin, launch := s.thr.launch, packet := s.thr.packet,
                   batch := s.thr.batch, stream := s.thr.stream } }
      (∀ tr, it.2.2.1.findSome? id = some tr → exec it.1 s = .next (takeTrap tr s)) ∧
      (it.2.2.1.findSome? id = none → (∀ x, maps ≠ .lost x) ∧ (∀ tr, maps = .trap tr → exec it.1 s = .next (takeTrap tr s)) ∧
        (maps = .ok () →
          (s.here.share.ct ≤ s.here.xq.length ∨ 2 ≤ copyQueued s s.actor.core → exec it.1 s = .next s) ∧
          (s.here.xq.length < s.here.share.ct → copyQueued s s.actor.core < 2 → exec it.1 s =
            .next (retire (((s.modHere (fun k => { k with xq := k.xq ++ [o], nextOp := k.nextOp + 1 })).modSlot (fun y =>
              { y with hbmOpen := y.hbmOpen +
                  (if it.2.2.2.2 then (unitsOf s s.actor.tid s.actor.core o).length else 0) })))))))

/-! ### Messages, tasks, streams -/

/-- SEND, SPAWN, MIGRATE, RUPD and MBXSEND (R240, R241, R243 to R246, R250): none of them waits. Where the operands pass the
checks of Table 11.3, the message enters the send queue with the next sequence number and g[d] takes 0; with the share of
the queue full, or 64 spawns outstanding, g[d] takes 1 or 2 and nothing else changes, or, where d is g0, SPILL_FULL or
SPAWN_LIMIT is raised. MIGRATE packs g1 to g8 after g[d] is written, and its thread leaves the slot. Each of the five
completes: with its operands as the rules have them and room in the queue, `exec` answers the next state given here.
The model's choices here: SID and SV of the sender's STREAM in messages of every kind and the payload of a RUPD (log entry
143). -/
def Obligations.Sends : Prop :=
  ∀ (s : State) (d a b : BitVec 5) (w : BitVec 1) (o : BitVec 4),
    let v := s.reg a
    let core := (v.extractLsb' 0 12).toNat
    let member := core < 3072 ∧ core ∈ s.myLaunch.cores
    let last := if s.thr.level = 0 then 31 else 8
    let regs (u : State) (from' n : Nat) : List Word := (List.range n).map (fun i => u.reg (BitVec.ofNat 5 (from' + i)))
    let msg (kind : MsgKind) (dest : Nat) (typ : BitVec 6) (pc : LAddr) (payload : List Word) : Message :=
      { src := s.actor.core, typ := typ, kind := kind, launch := s.thr.launch, sid := s.thr.stream.extractLsb' 0 18,
        sv := s.thr.stream.getLsbD 31, seq := s.here.seq, pc := pc, payload := payload, dest := dest, slot := s.actor.slot }
    let queued (m : Message) (u : State) : State := u.modHere (fun k => { k with
      sendq := k.sendq ++ [m], seq := k.seq + 1#32, spawns := k.spawns + if m.kind = .spawn then 1 else 0 })
    let does (i : Instr) (m : Message) (after : State → State) : Prop :=
      let status : Word := if m.kind = .spawn ∧ 64 ≤ s.here.spawns then 2#64
        else if s.here.share.sendq ≤ s.here.sendq.length then 1#64 else 0#64
      (status = 0#64 → exec i s = .next (after (queued m (s.setReg d 0#64)))) ∧
      (status ≠ 0#64 → d ≠ 0#5 → exec i s = .next (retire (s.setReg d status))) ∧
      (status ≠ 0#64 → d = 0#5 → exec i s = .next
        (takeTrap { cause := if status = 2#64 then .spawnLimit else .spillFull } s))
    let traps (i : Instr) (c : Cause) (v : Word) : Prop := exec i s = .next (takeTrap { cause := c, val := v } s)
    let n := if w = 1#1 ∨ o = 6#4 then 4 else 8
    let far := (v.extractLsb' 20 6).toNat * 64 + (v.extractLsb' 26 6).toNat
    let vault := v.extractLsb' 32 32 = 0xFE00#32 ∧ (v.extractLsb' 20 6).toNat < 48 ∧ v.getLsbD 19 = false ∧
      far ∈ s.myLaunch.cores
    (Issues (.send d a b) s →
      (¬(member ∧ v.extractLsb' 18 46 = 0#46) → traps (.send d a b) .translation v) ∧
      (member → v.extractLsb' 18 46 = 0#46 →
        (last < b.toNat + 7 → traps (.send d a b) .illegalRegister (trapWords s (.send d a b))) ∧
        (b.toNat + 7 ≤ last →
          (56 ≤ (v.extractLsb' 12 6).toNat → s.myLaunch.priv = false → traps (.send d a b) .privilege v) ∧
          ((v.extractLsb' 12 6).toNat < 56 ∨ s.myLaunch.priv = true →
            does (.send d a b) (msg .send core (v.extractLsb' 12 6) 0#20 (regs s b.toNat 8)) retire)))) ∧
    (Issues (.spawn d a b) s →
      (¬(member ∧ v.extractLsb' 12 52 = 0#52) → traps (.spawn d a b) .translation v) ∧
      (member → v.extractLsb' 12 52 = 0#52 →
        ((s.reg b).extractLsb' 0 2 ≠ 0#2 → traps (.spawn d a b) .misaligned (s.reg b)) ∧
        ((s.reg b).extractLsb' 0 2 = 0#2 →
          does (.spawn d a b) (msg .spawn core 0#6 ((s.reg b).extractLsb' 0 20) (regs s 1 4)) retire))) ∧
    (Issues (.migrate d a) s →
      (s.thr.level ≠ 0 → traps (.migrate d a) .illegalInstruction v) ∧
      (s.thr.level = 0 → ¬vault → traps (.migrate d a) .translation v) ∧
      (s.thr.level = 0 → vault → does (.migrate d a)
        (msg .migrate far 0#6 (s.thr.wordAddr + 4#20) (regs (s.setReg d 0#64) 1 8)) freeThread)) ∧
    (Issues (.rupd d a b w o) s →
      (¬vault → traps (.rupd d a b w o) .translation v) ∧
      (vault →
        (v.toNat % n ≠ 0 → traps (.rupd d a b w o) .misaligned v) ∧
        (v.toNat % n = 0 → does (.rupd d a b w o)
          (msg .rupd far 0#6 0#20 [v, s.reg b, BitVec.ofNat 64 (o.toNat + 16 * n)]) retire))) ∧
    (Issues (.mbxsend d a b) s →
      (v.extractLsb' 18 46 ≠ 0#46 → traps (.mbxsend d a b) .translation v) ∧
      (v.extractLsb' 18 46 = 0#46 →
        (last < b.toNat + 6 → traps (.mbxsend d a b) .illegalRegister (trapWords s (.mbxsend d a b))) ∧
        (b.toNat + 6 ≤ last →
          does (.mbxsend d a b) (msg .mbxsend (v.extractLsb' 0 18).toNat 0#6 0#20 (regs s b.toNat 7)) retire)))

/-- A request, its answer and its reply (R252, R258): what a slot asks of the task table or the Stream Table leaves it out of
the rotation; once both events have come it has its registers and stands at the next instruction. TQPUSH and TQDEC (R253,
R254); SADV, SACTPOP, SACTADD, SRET, SPRUNE, SQUERY, SMIGRATE and SFORK (R262, R264 to R269); a SACTADD is not taken while an
earlier one of its core to the same stream waits (R265). What the tables refuse: an index outside the tenant's range, a count
that is 0 or an entry that is free, a stream operand with bits above [17:0], a stream that is free, not live where it must be,
or migrating, a SACTADD off the stream's HOME core; and at issue a record that is misaligned, does not translate or holds a
refused value, and for SMIGRATE a port without a channel of the tenant and a notice core outside the launch's mask.
The model's choices here: what a descriptor of another tenant raises (log entry 86) and TRAPAUX of an operand with bits above
[17:0] (log entry 163); the record of TQPUSH (log entry 90); what a notice word is checked for (log entry 155). -/
def Obligations.Requests : Prop :=
  (∀ (s : State) (d a b c : BitVec 5),
    let p := s.actor
    let dev := s.dev p.tid
    let v := s.reg a
    let sid := (v.extractLsb' 0 18).toNat
    let x := (s.old p.tid).streams.get sid {}
    let task := fun (i : Instr) => [i, .taskTableRequest p.tid p.core p.slot, .taskTableReply p.tid p.core p.slot]
    let stream := fun (i : Instr) => [i, .streamTableRequest p.tid p.core p.slot, .streamTableReply p.tid p.core p.slot]
    let ends (is : List Instr) (writes : List (BitVec 5 × Word)) (dev' : TenantDev) : Prop :=
      ∃ t, Run is s t ∧ (∀ r, t.reg r = if r = 0#5 then 0#64 else
          ((writes.filter (fun w => w.1 == r)).map (·.2)).getLastD (s.reg r)) ∧
        (s.thr.frame = none → t.thr.pc = s.thr.wordAddr + 4#20) ∧ t.thr.status = .ready ∧
        { t.dev p.tid with cores := dev.cores } = { dev' with cores := dev.cores } ∧
        (∀ k, k ≠ p.tid → t.dev k = s.dev k) ∧ t.com = s.com
    let asks (q : List StreamReq) : TenantDev := { dev with reqs := dev.reqs ++ q }
    let outside (i : Word) := i.toNat < (s.tenant p.tid).taskBase ∨
      (s.tenant p.tid).taskBase + (s.tenant p.tid).taskCount ≤ i.toNat
    let adds (th : Thread) (w : Word) (n : Nat) : Prop := ∃ q d' a', th.open = some q ∧ q.instr = .sactadd d' a' ∧
      q.g.getD 0 0#64 = w ∧ (q.g.getD 1 0#64).toNat = n
    (∀ th x k, th ∈ s.slotHere.allThreads → s.slotHere.allThreads.filter (fun y => y.open.isSome) = [th] → adds th x k →
      (∃ y ∈ s.here.slots, ∃ th' ∈ y.2.allThreads, ∃ j < k, adds th' x j) →
      exec (.streamTableRequest p.tid p.core p.slot) s = .next s) ∧
    ((∀ th ∈ s.slotHere.allThreads, th.open = none) →
    (∀ bs, Issues (.tqpush d a b c) s → loadBytes s (v.setWidth 20) 64 = .ok bs → v.toNat % 64 = 0 →
      leNat (bs.take 1) % 4 < 2 → ¬outside (s.reg c) →
      (∀ y, dev.tasks.find (s.reg c).toNat = some y → ends (task (.tqpush d a b c)) [(d, 1#64)] dev) ∧
      (dev.tasks.find (s.reg c).toNat = none → ends (task (.tqpush d a b c)) [(d, 0#64)] { dev with
        tasks := dev.tasks.set (s.reg c).toNat
          { recs := wordsOf bs, count := (s.reg b).extractLsb' 0 32, launch := s.thr.launch } })) ∧
    (∀ y, Issues (.tqdec d a) s → ¬outside v → dev.tasks.find v.toNat = some y → y.count ≠ 0#32 →
      ends (task (.tqdec d a)) [(d, y.count.setWidth 64)]
        { dev with tasks := dev.tasks.set v.toNat { y with count := y.count - 1#32 } }) ∧
    (v.extractLsb' 18 46 = 0#46 → x.migrating = false →
      (∀ n, Issues (.squery d a n) s → x.state ≠ 0#2 →
        ends (stream (.squery d a n)) [(d, (x.words p.tid).getD n.toNat 0#64)] dev) ∧
      (Issues (.sprune d a) s → x.state ≠ 0#2 → ends (stream (.sprune d a)) [(d, x.state.setWidth 64)]
        (asks (if x.state = 3#2 then [] else [.prune sid]))) ∧
      (x.state = 1#2 →
        (Issues (.sadv d a) s → ends (stream (.sadv d a)) [(d, x.cursor.setWidth 64)] (asks [.advance sid])) ∧
        (Issues (.sret a b) s → ends (stream (.sret a b)) []
          (asks [.reward sid p.core p.slot (s.tick % 2 ^ 64) ((s.reg b).extractLsb' 0 32)])) ∧
        (Issues (.sactpop d a) s →
          (x.acthead = x.acttail → ends (stream (.sactpop d a)) [(d, 0x8000000000000000#64)] dev) ∧
          (x.acthead ≠ x.acttail → ends (stream (.sactpop d a)) [(d, BitVec.ofNat 64
            (x.actbase.toNat * 64 + x.acthead.toNat % 2 ^ x.actlogn.toNat * 64))] (asks [.pop sid]))) ∧
        (Issues (.sactadd d a) s → x.home.toNat = p.core → (∀ y ∈ s.here.slots, ∀ th ∈ y.2.allThreads, ∀ w n, ¬adds th w n) →
          let j := ((dev.appends ++ dev.appendsNew).filter (fun y => y.1 == sid && y.2 == p.core)).length
          let occ := (x.acttail + BitVec.ofNat 16 (j + 1) - x.acthead).toNat
          (2 ^ x.actlogn.toNat < occ → ends (stream (.sactadd d a)) [(d, 0x8000000000000000#64)] dev) ∧
          (occ ≤ 2 ^ x.actlogn.toNat → ends (stream (.sactadd d a))
            [(d, BitVec.ofNat 64 (x.actbase.toNat * 64 + (x.acttail.toNat + j) % 2 ^ x.actlogn.toNat * 64))]
            { dev with appendsNew := dev.appendsNew ++ [(sid, p.core)] })) ∧
        (Issues (.smigrate d a b c) s →
          let port := ((s.reg b).extractLsb' 0 4).toNat
          let note := s.reg c
          channelOf s port p.tid ≠ none → (note.extractLsb' 0 12).toNat ∈ s.myLaunch.cores →
          (portBusy dev port = true → ends (stream (.smigrate d a b c)) [(d, 1#64)] dev) ∧
          (portBusy dev port = false → ends (stream (.smigrate d a b c)) [(d, 0#64)]
            (asks [.migrate sid port (note.extractLsb' 0 12).toNat (note.extractLsb' 12 6) p.core p.slot s.thr.launch]))) ∧
        (∀ bs, Issues (.sfork d a b c) s → (s.reg b).toNat % 16 = 0 →
          loadBytes s ((s.reg b).setWidth 20) 16 = .ok bs →
          let w0 := (wordsOf bs).getD 0 0#64
          let w1 := (wordsOf bs).getD 1 0#64
          forkRecordBad w0 w1 = false →
          (freeSid s (sid / 65536) = none → ends (stream (.sfork d a b c)) [(d, 1#64)] dev) ∧
          (∀ child, freeSid s (sid / 65536) = some child →
            ((∃ k ∈ tableKeys s p.tid x, dev.counts.get k 0 = 65535) → ends (stream (.sfork d a b c)) [(d, 2#64)] dev) ∧
            ((∀ k ∈ tableKeys s p.tid x, dev.counts.get k 0 ≠ 65535) → ends (stream (.sfork d a b c))
              [(c, BitVec.ofNat 64 child), (d, 0#64)] (asks [.fork child { x with
                parent := BitVec.ofNat 18 sid, pv := true, state := 1#2, actbase := w0.extractLsb' 6 42
                actlogn := w0.extractLsb' 0 4, segrec := w1.extractLsb' 0 20, vquota := w1.extractLsb' 32 16, acthead := 0#16
                acttail := 0#16, vused := 0#16, hused := 0#32, age := 0#16, parked := true, migrating := false
                born := if s.exchange then s.phase + 1#64 else s.phase + 2#64 }])))))))) ∧
  ((∀ (s : State) (d a b c : BitVec 5),
    let tn := s.tenant s.actor.tid
    let traps (i : Instr) (tr : Trap) : Prop := exec i s = .next (takeTrap tr s)
    (Issues (.tqpush d a b c) s →
      ((s.reg a).toNat % 64 ≠ 0 → traps (.tqpush d a b c) { cause := .misaligned, val := s.reg a }) ∧
      ((s.reg a).toNat % 64 = 0 →
        (∀ tr, loadBytes s ((s.reg a).setWidth 20) 64 = .trap tr → traps (.tqpush d a b c) tr) ∧
        (∀ bs, loadBytes s ((s.reg a).setWidth 20) 64 = .ok bs →
          (2 ≤ leNat (bs.take 1) % 4 → traps (.tqpush d a b c)
            { cause := .illegalInstruction, val := trapWords s (.tqpush d a b c) }) ∧
          (leNat (bs.take 1) % 4 < 2 → (s.reg c).toNat < tn.taskBase ∨ tn.taskBase + tn.taskCount ≤ (s.reg c).toNat →
            traps (.tqpush d a b c) { cause := .translation, val := s.reg c })))) ∧
    (Issues (.sfork d a b c) s →
      ((s.reg b).toNat % 16 ≠ 0 → traps (.sfork d a b c) { cause := .misaligned, val := s.reg b }) ∧
      ((s.reg b).toNat % 16 = 0 →
        (∀ tr, loadBytes s ((s.reg b).setWidth 20) 16 = .trap tr → traps (.sfork d a b c) tr) ∧
        (∀ bs, loadBytes s ((s.reg b).setWidth 20) 16 = .ok bs →
          forkRecordBad ((wordsOf bs).getD 0 0#64) ((wordsOf bs).getD 1 0#64) = true →
          traps (.sfork d a b c) { cause := .translation, val := s.reg b }))) ∧
    (Issues (.smigrate d a b c) s →
      let port := ((s.reg b).extractLsb' 0 4).toNat
      (channelOf s port s.actor.tid = none → traps (.smigrate d a b c) { cause := .translation, val := s.reg b }) ∧
      (channelOf s port s.actor.tid ≠ none → ((s.reg c).extractLsb' 0 12).toNat ∉ s.myLaunch.cores →
        traps (.smigrate d a b c) { cause := .translation, val := s.reg c }))) ∧
  (∀ w0 w1 : Word, forkRecordBad w0 w1 = true ↔ 12 < (w0.extractLsb' 0 4).toNat ∨ w0.extractLsb' 4 2 ≠ 0#2 ∨
    w0.extractLsb' 48 16 ≠ 0#16 ∨ w1.extractLsb' 20 12 ≠ 0#12 ∨ w1.extractLsb' 48 16 ≠ 0#16) ∧
  (∀ (s : State) (d a b c : BitVec 5),
    let p := s.actor
    let v := s.reg a
    let x := (s.old p.tid).streams.get (v.extractLsb' 0 18).toNat {}
    let tn := s.tenant p.tid
    s.thr.level = 0 → s.slotHere.handlers = [] → s.slotHere.h = false → s.slotHere.trapvec.extractLsb' 0 20 ≠ 0#20 →
    let traps (is : List Instr) (c : Cause) : Prop := ∃ t, Run is s t ∧ t.slotHere.h = true ∧
      t.slotHere.cause = BitVec.ofNat 64 c.code ∧ t.slotHere.trapval = v ∧ t.slotHere.trappc = s.thr.pc.setWidth 64 ∧
      t.thr.pc = s.slotHere.trapvec.extractLsb' 0 20 ∧ ∀ r, t.reg r = s.reg r
    (Issues (.tqdec d a) s →
      (v.toNat < tn.taskBase ∨ tn.taskBase + tn.taskCount ≤ v.toNat → traps [.tqdec d a] .translation) ∧
      (tn.taskBase ≤ v.toNat → v.toNat < tn.taskBase + tn.taskCount →
        ((s.dev p.tid).tasks.find v.toNat = none ∨ ∃ y, (s.dev p.tid).tasks.find v.toNat = some y ∧ y.count = 0#32) →
        traps [.tqdec d a, .taskTableRequest p.tid p.core p.slot, .taskTableReply p.tid p.core p.slot]
          .depcountUnderflow)) ∧
    (∀ i, (i ∈ [Instr.sadv d a, .sactpop d a, .sactadd d a, .sret a b, .sprune d a, .squery d a b] ∨
        (i = .sfork d a b c ∧ (s.reg b).toNat % 16 = 0 ∧ ∃ bs, loadBytes s ((s.reg b).setWidth 20) 16 = .ok bs ∧
          forkRecordBad ((wordsOf bs).getD 0 0#64) ((wordsOf bs).getD 1 0#64) = false) ∨
        (i = .smigrate d a b c ∧ channelOf s ((s.reg b).extractLsb' 0 4).toNat p.tid ≠ none ∧
          ((s.reg c).extractLsb' 0 12).toNat ∈ s.myLaunch.cores)) → Issues i s →
      (∀ y ∈ s.here.slots, ∀ th ∈ y.2.allThreads, th.open = none) →
      (v.extractLsb' 18 46 ≠ 0#46 ∨ x.state = 0#2 ∨ x.migrating = true ∨
        (i ≠ .sprune d a ∧ i ≠ .squery d a b ∧ x.state ≠ 1#2) ∨ (i = .sactadd d a ∧ x.home.toNat ≠ p.core)) →
      traps [i, .streamTableRequest p.tid p.core p.slot, .streamTableReply p.tid p.core p.slot] .translation)))

/-- SSEL (R263): the old STREAM goes to g[d] before g[a] is read; bit 63 clears SV; else the thread's batch-list entry
becomes its stream, for a level-0 thread of a work packet and an index within the list. MBXRECV (R251): the address of the
oldest entry of the mailbox once `n` have come, on the home core of a live stream.
The model's choices here: TRAPAUX of an operand with bits above [17:0] (log entry 163). -/
def Obligations.StreamSelect : Prop :=
  (∀ (s : State) (d a : BitVec 5), Issues (.ssel d a) s →
    let u := s.setReg d s.thr.stream
    let v := if a = d ∧ d ≠ 0#5 then s.thr.stream else s.reg a
    let sids := ((s.here.packets.find s.thr.packet).map (·.sids)).getD []
    (v.getLsbD 63 = true → exec (.ssel d a) s =
      .next (retire (u.modThr (fun th => { th with stream := th.stream &&& 0xFFFFFFFF7FFFFFFF#64 })))) ∧
    (v.getLsbD 63 = false →
      (s.thr.origin = 1 ∧ s.thr.level = 0 ∧ v.toNat < 256 ∧ v.toNat < sids.length → exec (.ssel d a) s =
        .next (retire (u.modThr (fun th =>
          { th with stream := BitVec.ofNat 64 (sids.getD v.toNat 0 % 2 ^ 18 + 2 ^ 31), batch := v.toNat })))) ∧
      (¬(s.thr.origin = 1 ∧ s.thr.level = 0 ∧ v.toNat < 256 ∧ v.toNat < sids.length) → exec (.ssel d a) s =
        .next (takeTrap { cause := .translation, val := v } s)))) ∧
  (∀ (s : State) (d a n e : BitVec 5) (head tail : Nat), Issues (.mbxrecv d a n e) s →
    let x := (s.old s.actor.tid).streams.get ((s.reg a).extractLsb' 0 18).toNat {}
    let size := 2 ^ x.mbxlogn.toNat
    let occ := (tail + 65536 - head) % 65536
    (x.state ≠ 1#2 ∨ x.home.toNat ≠ s.actor.core → exec (.mbxrecv d a n e) s =
      .next (takeTrap { cause := .translation, val := s.reg a } s)) ∧
    (x.state = 1#2 → x.home.toNat = s.actor.core → boxLine s s.actor.tid x = .ok (head, tail) →
      (n.toNat ≤ occ → n.toNat ≤ size → exec (.mbxrecv d a n e) s =
        .next (retire (s.setReg d (BitVec.ofNat 64 (x.mbx.toNat + 64 + head % size * 64))))) ∧
      (occ < n.toNat ∨ size < n.toNat → exec (.mbxrecv d a n e) s =
        .next (s.modThr (fun th => { th with status := .waiting (.mbxrecv d a n e) })))))

/-! ### The Finial and the Oculus -/

/-- SELSUB, REDSUB and SJOIN submit (R272 to R274): a list that is not aligned raises MISALIGNED, a count of 0 or above 64
TRANSLATION; each is taken with status 0, or refused with status 1 and nothing else
changed: more than 64 candidates of the core for an identifier, a second reduction of the core, 64 joins of the core.
SELGET (R275) copies the last committed round to local memory and leaves its word in g[d]; 0x200 where there is none. -/
def Obligations.Finial : Prop :=
  ∀ (s : State) (d a b c : BitVec 5),
    let t := s.actor.tid
    let n := (s.reg b).toNat
    let w := s.reg c
    let id := (w.extractLsb' 0 6).toNat
    let mine (reduce : Bool) := (s.dev t).finSubs.filter (fun x => x.id == id && x.core == s.actor.core && x.reduce == reduce)
    let takes (i : Instr) (full : Prop) (x : FinSub) : Prop :=
      (full → exec i s = .next (retire (s.setReg d 1#64))) ∧
      (¬full → exec i s = .next (retire
        ((s.modDev t (fun v => { v with finSubs := v.finSubs ++ [x] })).setReg d 0#64)))
    let items (width : Nat) (xs : List Word) : Prop := xs.length = n ∧ ∀ i < n, ∃ bs,
      loadBytes s ((s.reg a).setWidth 20 + BitVec.ofNat 20 (width * i)) width = .ok bs ∧ xs.getD i 0#64 = BitVec.ofNat 64 (leNat bs)
    let op := (w.extractLsb' 8 3).toNat
    let width := if op = 1 ∨ op = 6 ∨ op = 7 then 4 else 8
    (∀ iw ∈ ([(.selsub d a b c, 8), (.redsub d a b c, width)] : List (Instr × Nat)), Issues iw.1 s →
      ((s.reg a).toNat % iw.2 ≠ 0 → exec iw.1 s = .next (takeTrap { cause := .misaligned, val := s.reg a } s)) ∧
      ((s.reg a).toNat % iw.2 = 0 → n = 0 ∨ 64 < n →
        exec iw.1 s = .next (takeTrap { cause := .translation, val := s.reg b } s))) ∧
    (Issues (.selsub d a b c) s → 0 < n → n ≤ 64 → (s.reg a).toNat % 8 = 0 → ∀ xs, items 8 xs →
      takes (.selsub d a b c) (64 < ((mine false).map (·.items.length)).sum + n)
        { id := id, core := s.actor.core, order := s.tick, reduce := false, mode := (w.extractLsb' 8 1).toNat,
          k := (w.extractLsb' 16 6).toNat + 1, items := xs }) ∧
    (Issues (.redsub d a b c) s → 0 < n → n ≤ 64 → (s.reg a).toNat % width = 0 → ∀ xs, items width xs →
      takes (.redsub d a b c) (mine true ≠ [])
        { id := id, core := s.actor.core, order := s.tick, reduce := true, mode := op, k := 0, items := xs }) ∧
    (Issues (.sjoin d a b) s →
      let sid := ((s.reg a).extractLsb' 0 18).toNat
      let x := (s.old t).streams.get sid {}
      let v := s.reg b
      let good := x.state ≠ 0#2 ∧ x.pv = true
      let valid := v.extractLsb' 0 2 ≠ 3#2 ∧ v.extractLsb' 2 6 = 0#6 ∧ v.extractLsb' 16 48 = 0#48
      (¬good → exec (.sjoin d a b) s = .next (takeTrap { cause := .translation, val := s.reg a } s)) ∧
      (good → ¬valid → exec (.sjoin d a b) s = .next (takeTrap { cause := .translation, val := v } s)) ∧
      (good → valid →
        (64 ≤ s.here.joins → exec (.sjoin d a b) s = .next (retire (s.setReg d 1#64))) ∧
        (s.here.joins < 64 → exec (.sjoin d a b) s = .next (retire
          (((s.modDev t (fun y => { y with joinSubs := y.joinSubs ++ [{ child := sid, op := (v.extractLsb' 0 2).toNat
                                                                        keep := (v.extractLsb' 8 8).toNat, ret := x.ret }] })).modHere
            (fun k => { k with joins := k.joins + 1 })).setReg d 0#64))))) ∧
    (Issues (.selget d a b) s →
      let got := (s.old t).finRes.find ((s.reg b).extractLsb' 0 6).toNat
      ((s.reg a).toNat % 8 ≠ 0 → exec (.selget d a b) s = .next (takeTrap { cause := .misaligned, val := s.reg a } s)) ∧
      ((s.reg a).toNat % 8 = 0 →
        (got = none → exec (.selget d a b) s = .next (retire (s.setReg d 0x200#64))) ∧
        (∀ r, got = some r →
          let width := if r.reduce = true ∧ (r.mode = 1 ∨ r.mode = 6 ∨ r.mode = 7) then 4 else 8
          let ws := (List.range r.items.length).map (fun i => ((s.reg a).setWidth 20 + BitVec.ofNat 20 (width * i),
            natLe width (r.items.getD i 0#64).toNat))
          (∀ u, storeAll s ws = .ok u → exec (.selget d a b) s = .next (retire (u.setReg d (BitVec.ofNat 64
            (r.items.length % 128 + (if r.conflict then 256 else 0) + (if r.reduce then 1024 else 0)))))) ∧
          (∀ tr, storeAll s ws = .trap tr → exec (.selget d a b) s = .next (takeTrap tr s)))))

/-- The Oculus (R276, R277, R280): UMSTATE's four forms, UMSUB, UMCOMMIT and UMDIRTY on a sequence of the tenant's range.
What they ask becomes current at the commit; a value that is no sequence of the range, an unconfigured sequence, a position
that the core does not hold (of UMSUB with the candidate's address) raise TRANSLATION, a list of UMSUB that is not aligned
MISALIGNED. (That the whole of g[a] is compared with the range is log entry 41's, that configure and release leave g[d] as it
was log entry 92's choice.) -/
def Obligations.Oculus : Prop :=
  ∀ (s : State) (d a b c : BitVec 5),
    let t := s.actor.tid
    let tn := s.tenant t
    let v := s.reg a
    let id := v.toNat
    let inside := tn.seqBase ≤ id ∧ id < tn.seqBase + tn.seqCount ∧ id < 4096
    let asks (r : SeqReq) (u : State) : State := u.modDev t (fun y => { y with seqReqs := y.seqReqs ++ [r] })
    let traps (i : Instr) (x : Word) : Prop := exec i s = .next (takeTrap { cause := .translation, val := x } s)
    let subs (xs : List SeqSub) : State := s.modDev t (fun y => match y.seqs.find id with
      | none => y
      | some q => { y with seqs := y.seqs.set id { q with
          subs := xs.foldl (fun l x => l.filter (fun z => z.pos != x.pos) ++ [x]) q.subs } })
    let sub (pos key token : Nat) (forced : Bool) : SeqSub :=
      { pos := pos, forced := forced, key := key, token := token, core := s.actor.core, slot := s.actor.slot,
        launch := s.thr.launch, birth := s.thr.birth }
    (Issues (.umsub a b c) s →
      ((s.reg b).toNat % 8 ≠ 0 → exec (.umsub a b c) s = .next (takeTrap { cause := .misaligned, val := s.reg b } s)) ∧
      ((s.reg b).toNat % 8 = 0 → ¬inside ∨ (s.old t).seqs.find id = none → traps (.umsub a b c) v)) ∧
    (¬inside → ∀ i ∈ [Instr.umstateConfigure d a c, .umstateStatus d a c, .umstateMask d a c, .umstateRelease d a c,
        .umdirty d a b, .umcommit a b c], Issues i s → traps i v) ∧
    (inside →
      (∀ bs, Issues (.umstateConfigure d a c) s → (s.reg c).toNat % 64 = 0 →
        loadBytes s ((s.reg c).setWidth 20) 64 = .ok bs →
        (seqRefused s (wordsOf bs) = true → traps (.umstateConfigure d a c) (s.reg c)) ∧
        (seqRefused s (wordsOf bs) = false → exec (.umstateConfigure d a c) s =
          .next (retire (asks (.configure id (wordsOf bs) s.thr.launch) s)))) ∧
      (Issues (.umstateRelease d a c) s → exec (.umstateRelease d a c) s = .next (retire (asks (.release id) s))) ∧
      ((s.old t).seqs.find id = none →
        (Issues (.umstateStatus d a c) s → exec (.umstateStatus d a c) s = .next (retire (s.setReg d 0#64))) ∧
        (Issues (.umstateMask d a c) s → traps (.umstateMask d a c) (s.reg c)) ∧
        (∀ i ∈ [Instr.umdirty d a b, .umcommit a b c], Issues i s → traps i v)) ∧
      (∀ q, (s.old t).seqs.find id = some q →
        let k := seqConf q.recs
        (Issues (.umstateStatus d a c) s → exec (.umstateStatus d a c) s = .next (retire (s.setReg d
          (BitVec.ofNat 64 (q.round.toNat + popcount (bitLen q.mask) q.mask * 2 ^ 32 + 2 ^ 63))))) ∧
        (Issues (.umstateMask d a c) s →
          let j := (s.reg c).toNat
          (256 ≤ j ∨ k.n ≤ 64 * j → traps (.umstateMask d a c) (s.reg c)) ∧
          (j < 256 → 64 * j < k.n → exec (.umstateMask d a c) s =
            .next (retire (s.setReg d (BitVec.ofNat 64 (q.mask / 2 ^ (64 * j))))))) ∧
        (Issues (.umdirty d a b) s →
          let x := s.reg b
          let l := (x.extractLsb' 0 6).toNat
          let j := (x.extractLsb' 8 6).toNat
          let good := l < k.g ∧ 64 * j < (k.n + 31) / 32 ∧ x.extractLsb' 6 2 = 0#2 ∧ x.extractLsb' 14 50 = 0#50
          let bits := q.dirty.get l 0 / 2 ^ (64 * j) % 2 ^ 64
          (¬good → traps (.umdirty d a b) x) ∧
          (good → exec (.umdirty d a b) s =
            .next (retire ((asks (.clean id l (bits * 2 ^ (64 * j))) s).setReg d (BitVec.ofNat 64 bits))))) ∧
        (Issues (.umcommit a b c) s →
          let pos := (s.reg b).toNat
          let good := pos < 16384 ∧ pos < k.n ∧ k.holder pos = s.actor.core
          (¬good → traps (.umcommit a b c) (s.reg b)) ∧
          (good → (s.reg c).extractLsb' 18 46 ≠ 0#46 → traps (.umcommit a b c) (s.reg c)) ∧
          (good → (s.reg c).extractLsb' 18 46 = 0#46 → exec (.umcommit a b c) s =
            .next (retire (subs [sub pos 0 (s.reg c).toNat true])))) ∧
        (Issues (.umsub a b c) s → (s.reg b).toNat % 8 = 0 →
          let n := (s.reg c).toNat
          (n = 0 ∨ 64 < n → traps (.umsub a b c) (s.reg c)) ∧
          (0 < n → n ≤ 64 → ∀ ws : Nat → Nat,
            let at' (i : Nat) : LAddr := (s.reg b).setWidth 20 + BitVec.ofNat 20 (8 * i)
            let reads (i : Nat) : Prop := ∃ bs, loadBytes s (at' i) 8 = .ok bs ∧ leNat bs = ws i
            let pos (i : Nat) := ws i / 2 ^ 32 % 2 ^ 14
            let good (i : Nat) : Prop := pos i < k.n ∧ k.holder (pos i) = s.actor.core
            ((∀ i < n, reads i ∧ good i) → exec (.umsub a b c) s = .next (retire
              (subs ((List.range n).map (fun i => sub (pos i) (ws i % 2 ^ 32) (ws i / 2 ^ 46 % 2 ^ 18) false))))) ∧
            (∀ i < n, (∀ j < i, reads j ∧ good j) → reads i → ¬good i → traps (.umsub a b c) ((at' i).setWidth 64))))))

/-! ### Control registers and traps -/

/-- The control and status registers (R43, R44, R317, R318, R331): CSRR of every number of Table 2.6 and of PTENANT, and
DIGEST; the write forms on each number with a writable field, which keep the read-only fields; every other number raises
ILLEGAL_INSTRUCTION, as a write to a number without a writable field does.
The model's choices here: a handler of level 1 to 3 over a thread has sh0 to sh7 and TRAPVEC of its own and the slot's other
registers (log entry 48). -/
def Obligations.ControlRegisters : Prop :=
  ∀ (s : State) (d : BitVec 5) (n : BitVec 12),
    let x := s.slotHere
    let k := s.here
    let l := s.myLaunch
    let c := s.actor.core
    let bit (b : Bool) (i : Nat) : Nat := if b then 2 ^ i else 0
    let reads : List (BitVec 12 × Word) :=
      [(0x000, s.cycle), (0x001, s.phase),
       (0x002, BitVec.ofNat 64 (c % 64 + c / 64 * 2 ^ 6 + (c % 64 / 32 + c / 64 / 24 * 2) * 2 ^ 12)),
       (0x003, BitVec.ofNat 64 (s.actor.slot + x.lane * 2 ^ 4 + s.thr.level * 2 ^ 8 + s.thr.origin * 2 ^ 10)),
       (0x004, BitVec.ofNat 64 (l.tmode + bit l.det 2 + x.amask.toNat * 2 ^ 3 + bit l.priv 6)), (0x005, s.thr.stream),
       (0x006, BitVec.ofNat 64 (s.actor.tid + s.thr.launch % 4096 * 2 ^ 16)), (0x008, x.latcnt),
       (0x009, BitVec.ofNat 64 (k.limit + k.used * 2 ^ 8 + (reserveOf s s.actor.tid c).length % 256 * 2 ^ 16)),
       (0x00A, x.rprog), (0x010, x.cause), (0x011, x.trappc), (0x012, x.trapval), (0x013, x.trapaux),
       (0x014, if s.thr.level = 0 then x.trapvec else s.thr.trapvec),
       (0x020, x.flags), (0x030, (s.old s.actor.tid).digest), (0x040, x.rngctr), (0x100, x.ptenant)]
    let sets (f : Word → Slot → Slot) : Word → State := fun v => s.modSlot (f v)
    let writes : List (BitVec 12 × (Word → State)) :=
      [(0x004, sets (fun v y => { y with amask := v.extractLsb' 3 3 })), (0x008, sets (fun v y => { y with latcnt := v })),
       (0x009, fun v => s.modHere (fun k => { k with limit := max 8 (min 64 (v.toNat % 128)) })),
       (0x00A, sets (fun v y => { y with rprog := v &&& 0x80FFFFFF#64 })),
       (0x010, sets (fun v y => { y with cause := v &&& 0x1FF#64 })), (0x011, sets (fun v y => { y with trappc := v })),
       (0x012, sets (fun v y => { y with trapval := v })), (0x013, sets (fun v y => { y with trapaux := v })),
       (0x014, fun v => if s.thr.level = 0 then s.modSlot (fun y => { y with trapvec := v &&& 0xFFFFC#64 })
          else s.modThr (fun y => { y with trapvec := v &&& 0xFFFFC#64 })),
       (0x020, sets (fun v y => { y with flags := v &&& 0x3F#64 })), (0x040, sets (fun v y => { y with rngctr := v })),
       (0x100, sets (fun v y => { y with ptenant := v &&& 0x3F#64 }))]
    let illegal (i : Instr) : Prop := exec i s = .next (takeTrap { cause := .illegalInstruction, val := trapWords s i } s)
    (Issues (.csrr d n) s →
      (∀ v, (n, v) ∈ reads → exec (.csrr d n) s = .next (retire (s.setReg d v))) ∧
      (n ∉ reads.map (·.1) → illegal (.csrr d n))) ∧
    (∀ ig ∈ ([(.csrw d n, fun _ => s.reg d), (.csrset d n, fun v => v ||| s.reg d),
        (.csrclr d n, fun v => v &&& ~~~(s.reg d))] : List (Instr × (Word → Word))), Issues ig.1 s →
      (∀ v f, (n, v) ∈ reads → (n, f) ∈ writes → exec ig.1 s = .next (retire (f (ig.2 v)))) ∧
      (n ∉ writes.map (·.1) → illegal ig.1)) ∧
    (Issues (.digest d) s → exec (.digest d) s = .next (retire (s.setReg d (s.old s.actor.tid).digest)))

/-- R331: DIGEST reads the tenant's DIGEST as of the last commit, as CSRR of DIGEST does. -/
def Obligations.DigestReads : Prop :=
  ∀ (s : State) (d : BitVec 5), Issues (.digest d) s → Issues (.csrr d 0x030) s →
    (∃ t, exec (.digest d) s = .next t ∧ OnlyThread s t ∧
      ∀ r, t.reg r = if r = d ∧ d ≠ 0#5 then (s.old s.actor.tid).digest else s.reg r) ∧
    exec (.digest d) s = exec (.csrr d 0x030) s

/-- TRAP and DBRK (R322): SOFTWARE and DEBUG with TRAPVAL the code, TRAPPC the following instruction and TRAPAUX g[a] or 0;
with a debugger attached DBRK raises no trap: its slot stops at the following instruction and its tenant drains. IDLE (R323)
puts the slot out of the rotation for n boundaries, at the following instruction. HALT (R324): every thread of the launch
stops and counts as arrived, its operations are abandoned, the tenant's phase is to be voided, and the launch has failed: its
fault record gets, while there is room and its page takes it, the entry of cause SOFTWARE with the value g[a] and the core,
slot, launch, tenant and PHASE (Table 18.1), else one more dropped, and its header both counts (R342); other tenants and the
threads of other launches stand. Each of the four completes wherever it issues: `exec` answers the next state given here. -/
def Obligations.TrapIdleHalt : Prop :=
  (∀ (s : State) (a : BitVec 5) (c : BitVec 12),
    let next := if s.thr.pfx.isSome then s.thr.pc + 8#20 else s.thr.pc + 4#20
    (Issues (.trap a c) s → exec (.trap a c) s =
      .next (takeTrap { cause := .software, val := c.setWidth 64, aux := s.reg a, pc := some next } s)) ∧
    (Issues (.dbrk c) s →
      (s.myLaunch.debugger = false → exec (.dbrk c) s =
        .next (takeTrap { cause := .debugStop, val := c.setWidth 64, aux := 0#64, pc := some next } s)) ∧
      (s.myLaunch.debugger = true → exec (.dbrk c) s = .next (((retire s).modThr (fun th =>
        { th with status := .stopped s.exchange })).modTenant s.actor.tid (fun t => { t with draining := true })))) ∧
    (Issues (.idle a) s →
      let n := (s.reg a).toNat % 65536
      exec (.idle a) s = .next ((retire s).modThr (fun th => { th with status := .idle (if n = 0 then 1 else n) })))) ∧
  (∀ (s : State) (a : BitVec 5) (l : Launch), Issues (.halt a) s → s.launches.find s.thr.launch = some l →
    let n := s.thr.launch
    let va := l.frec.toNat + 64 + 32 * l.written.toNat
    let room := l.written.toNat < l.entries ∧ s.hbmWritable l.tid va 32 = true
    let entry := natLe 4 (0x18 + s.actor.core % 4096 * 2 ^ 16 + s.actor.slot % 16 * 2 ^ 28) ++
      natLe 4 (n % 4096 + l.tid % 64 * 2 ^ 12) ++ natLe 8 s.phase.toNat ++ natLe 8 (s.reg a).toNat ++ natLe 8 0
    let u := if room then s.hbmWrite l.tid va entry else s
    ∃ t m, exec (.halt a) s = .next t ∧ (∀ k, k ≠ s.actor.tid → t.dev k = s.dev k) ∧ t.com = s.com ∧
      (∀ c i, t.coreOf s.actor.tid c = haltCore n (s.coreOf s.actor.tid c) ∧
        (let x := (s.coreOf s.actor.tid c).slot i
         let y := (t.coreOf s.actor.tid c).slot i
         (∀ th ∈ y.thread :: y.handlers, th.live = true → th.launch = n → th.status = .arrived) ∧
         (x.thread.launch ≠ n → y.thread = x.thread))) ∧
      (∀ c, ∀ o ∈ (t.coreOf s.actor.tid c).xq, o.ctx.launch ≠ n) ∧
      ((s.tenant s.actor.tid).phase = .run → (t.tenant s.actor.tid).phase = .voiding false) ∧
      n ∈ (t.tenant s.actor.tid).halted ∧ t.launches.find n = some m ∧ m.failed = true ∧
      (room → m.written = l.written + 1#32 ∧ m.dropped = l.dropped) ∧
      (¬room → m.written = l.written ∧ m.dropped = l.dropped + 1#32) ∧
      let w := if u.hbmWritable l.tid l.frec.toNat 64 then
        u.hbmWrite l.tid l.frec.toNat (natLe 4 m.written.toNat ++ natLe 4 m.dropped.toNat ++ List.replicate 56 0#8) else u
      t.hbm = w.hbm ∧ t.hbmKey = w.hbmKey)

/-! ### Capabilities and privileged changes -/

/-- CAPGIVE, CAPTAKE and CAPQ (R326 to R328, R330). A region of another core or a page of HBM is left to its message; a frame
of the core itself is given only by its holder, and from then on the core holds it no longer.
The model's choices here: the order of CAPGIVE's checks (log entry 94). -/
def Obligations.Capabilities : Prop :=
  ∀ (s : State) (d a b : BitVec 5) (r : Region),
    let v := s.reg a
    let w := s.reg b
    let traps (i : Instr) (c : Cause) (x : Word) : Prop := exec i s = .next (takeTrap { cause := c, val := x } s)
    let status (i : Instr) (n : Word) : Prop := exec i s = .next (retire (s.setReg d n))
    let target : Option Nat := if w.getLsbD 63 then none else some (w.extractLsb' 0 12).toNat
    let good := w.getLsbD 63 = true ∨ (w.extractLsb' 12 51 = 0#51 ∧ (w.extractLsb' 0 12).toNat < 3072)
    let away := ∃ c, target = some c ∧ c ∉ tenantCores s s.actor.tid
    let msg (give : Bool) (to' : Option Nat) : CapMsg :=
      { src := s.actor.core, slot := s.actor.slot, give := give, region := v, target := to', launch := s.thr.launch
        frame := match r with
          | .own f => some f
          | _ => none }
    let sends (i : Instr) (m : CapMsg) (u : State) : Prop := exec i s = .next (retire
      (((u.modDev s.actor.tid (fun y => { y with capMsgs := y.capMsgs ++ [m] })).modHere (fun k =>
        { k with capSent := k.capSent + 1 })).setReg d 0#64))
    (∀ i ∈ [Instr.capgive d a b, .captake d a, .capq d a], Issues i s → 2 ^ 20 ≤ v.toNat → globalOf v = .none →
      traps i .translation v) ∧
    (regionOf s v = .ok r →
      (Issues (.capgive d a b) s →
        (¬good → traps (.capgive d a b) .translation w) ∧
        (good → r = .nothing → v.toNat < 2 ^ 20 → traps (.capgive d a b) .localUnmapped v) ∧
        (good → (∀ f, r = .own f →
          let e := s.here.frame f
          let held := e.getLsbD 30 = true ∧ (e.extractLsb' 18 12).toNat = s.actor.core
          (¬held → traps (.capgive d a b) .capability v) ∧
          (held → away → status (.capgive d a b) 1#64) ∧
          (held → ¬away → target = some s.actor.core → status (.capgive d a b) 0#64) ∧
          (held → ¬away → target ≠ some s.actor.core →
            (64 ≤ s.here.capSent → status (.capgive d a b) 1#64) ∧
            (s.here.capSent < 64 → sends (.capgive d a b) (msg true target)
              (s.modHere (fun k => k.setFrame f (fmSetCap (k.frame f) none))))))) ∧
        (good → (∃ x, r = .other x) →
          (away → status (.capgive d a b) 1#64) ∧
          (¬away → target = some s.actor.core → status (.capgive d a b) 0#64) ∧
          (¬away → target ≠ some s.actor.core →
            (64 ≤ s.here.capSent → status (.capgive d a b) 1#64) ∧
            (s.here.capSent < 64 → sends (.capgive d a b) (msg true target) s)))) ∧
      (Issues (.captake d a) s →
        (r = .nothing → v.toNat < 2 ^ 20 → traps (.captake d a) .localUnmapped v) ∧
        (r ≠ .nothing ∨ 2 ^ 20 ≤ v.toNat →
          (64 ≤ s.here.capSent → status (.captake d a) 1#64) ∧
          (s.here.capSent < 64 → sends (.captake d a) (msg false (some s.actor.core)) s))) ∧
      (Issues (.capq d a) s →
        (∀ f, r = .own f →
          let e := s.here.frame f
          status (.capq d a) (if e.getLsbD 8 then BitVec.ofNat 64 ((e.extractLsb' 18 12).toNat +
            (e.extractLsb' 30 1).toNat * 2 ^ 12 + (e.extractLsb' 9 2).toNat * 2 ^ 13 + (e.extractLsb' 32 16).toNat * 2 ^ 16 +
            f * 2 ^ 32 + 2 ^ 63) else 0#64)) ∧
        (r = .nothing → status (.capq d a) 0#64) ∧
        (∀ va x, r = .other x → globalOf x = .hbm va →
          (∀ y, s.walk s.actor.tid va = .ok y → status (.capq d a) (capWordPage y)) ∧
          ((∀ y, s.walk s.actor.tid va ≠ .ok y) → status (.capq d a) 0#64)) ∧
        (∀ x c la, r = .other x → globalOf x = .vault c la →
          (frameNamed s s.actor.tid x = none → status (.capq d a) 0#64) ∧
          (∀ k f, frameNamed s s.actor.tid x = some (k, f) →
            status (.capq d a) (capWordFrame f (((s.old s.actor.tid).core k).frame f))))))

/-- The privileged operations (R332, R333): QUOTASET, KEYSEL and MODESET in a privileged thread. Where no change is still
pending, a request that Table 16.5 refuses answers 1 and changes nothing; any other answers 0 and is kept for the commit
with the operand, PTENANT and the record as they stood at issue. A record whose frame or page is in use raises RESIDENCY.
The model's choices here: a change to an absent tenant, a pool page with a lost frame and the span that MODESET 7 tests (log
entry 97); what new mappings and roots count (log entry 98); what MODESET 8 refuses (log entry 99); what MODESET 9 releases
first (log entry 147); accepted changes count at once and are made in their order (log entry 165). -/
def Obligations.Privileged : Prop :=
  ∀ (s : State) (d a : BitVec 5),
    let p := s.actor
    let v := s.reg a
    let pt := s.slotHere.ptenant
    let key := (v.extractLsb' 0 13).toNat
    let owner (k : Nat) : Option Nat := (s.keys.get k {}).owner
    let n25 := (v.extractLsb' 0 25).toNat
    let n23 := (v.extractLsb' 0 23).toNat
    let exists' := (s.tenants.find pt.toNat).isSome = true
    let tn := s.tenant pt.toNat
    let meet (p n q m : Nat) : Prop := p < q + m ∧ q < p + n
    let entry (t table i : Nat) : BitVec 128 := BitVec.ofNat 128 (s.tableEntry t table i)
    let pfnOf (e : BitVec 128) : Nat := (e.extractLsb' 12 29).toNat
    let below (t : Nat) (path : List Nat) (root : Nat) : Option Nat := path.foldl (fun acc i => acc.bind (fun table =>
      let e := entry t table i
      if e.getLsbD 0 = true ∧ e.getLsbD 2 = false then some (pfnOf e) else none)) (some root)
    let mapped (p n : Nat) : Prop := ∃ x ∈ s.tenants, ∃ root path table, x.2.root = some root ∧ path.length ≤ 3 ∧
      (∀ i ∈ path, i < 512) ∧ below x.1 path root = some table ∧ (meet p n table 2 ∨ ∃ i < 512,
        let e := entry x.1 table i
        e.getLsbD 0 = true ∧ e.getLsbD 2 = true ∧ ((path.length = 2 ∧ meet p n (pfnOf e) 512) ∨
          (path.length = 3 ∧ meet p n (pfnOf e) (if e.getLsbD 3 then 16 else 1))))
    let pool := (v.extractLsb' 12 29).toNat
    let frames := 4096 * [1, 16, 512].getD (v.extractLsb' 0 2).toNat 0
    let poolBad := v.extractLsb' 0 2 = 3#2 ∨ pool % (frames / 4096) ≠ 0 ∨ s.retired pool (frames / 4096) = true ∨
      mapped pool (frames / 4096) ∨ (∃ x ∈ s.cur, ∃ q ∈ x.2.pool, meet pool (frames / 4096) q.1 (q.2 / 4096)) ∨
      reservedBase < pool + frames / 4096
    let base := (v.extractLsb' 0 12).toNat
    let count := (v.extractLsb' 16 13).toNat
    let rangeBad (others : Tenant → Nat × Nat) (used : Nat → Prop) : Prop := 4096 < base + count ∨
      (∃ x ∈ s.tenants, x.1 ≠ pt.toNat ∧ 0 < count ∧ 0 < (others x.2).2 ∧ meet base count (others x.2).1 (others x.2).2) ∨
      ∃ i, used i ∧ ¬(base ≤ i ∧ i < base + count)
    let importBad (ws : List Word) : Prop := owner ((ws.getD 0 0#64).extractLsb' 0 13).toNat ≠ some pt.toNat ∨
      ∀ kek, tn.importKey = some kek → keyUnwrap (bytes256 kek) (((bytesOf ws).drop 8).take 72) = none
    let frameBad (ws : List Word) : Prop := let e := ws.getD 1 0#64
      e.getLsbD 8 = true ∧ (s.coreOf (e.extractLsb' 12 6).toNat p.core).share = {}
    let leafBad (ws : List Word) : Prop :=
      let va := (ws.getD 0 0#64).toNat
      let up := ((ws.getD 1 0#64).extractLsb' 0 1).toNat
      let e := ws.getD 2 0#64
      let path := (List.range (3 - up)).map (fun j => va / 2 ^ (39 - 9 * j) % 512)
      (∀ root table, tn.root = some root → below pt.toNat path root ≠ some table) ∨
        owner (e.extractLsb' 48 13).toNat ≠ some pt.toNat ∨ reservedBase ≤ (e.extractLsb' 12 29).toNat ∨
        (e.getLsbD 0 = true ∧ e.getLsbD 5 = true ∧ s.pageCnt.get (e.extractLsb' 12 29).toNat 0 = 65535 ∧
          ∀ places, leafRecordPlaces s pt.toNat ws = some places →
            ∀ q ∈ statePagesLost s pt.toNat ws places, q.1 ≠ (e.extractLsb' 12 29).toNat)
    let modelBad (ws : List Word) : Prop :=
      let w := ws.getD 0 0#64
      let m := (w.extractLsb' 0 8).toNat
      let B := (w.extractLsb' 16 9).toNat
      let n := ((ws.getD 1 0#64).extractLsb' 0 12).toNat
      let l := s.launchOf n
      let rect (i : Nat) : BitVec 32 := (ws.getD (32 + i / 2) 0#64).extractLsb' (32 * (i % 2)) 32
      s.launches.find n = none ∨ l.tid ≠ pt.toNat ∨ l.live = false ∨ B = 0 ∨ 256 < B ∨ B < (w.extractLsb' 32 9).toNat ∨
      tn.models.find m ≠ none ∨ ∃ i ≤ (w.extractLsb' 8 6).toNat, l.templates.find (64 * m + i) = none ∨
        let r := rect i
        let x1 := (r.extractLsb' 0 6).toNat + (r.extractLsb' 12 6).toNat
        let y1 := (r.extractLsb' 6 6).toNat + (r.extractLsb' 18 6).toNat
        64 ≤ x1 ∨ 48 ≤ y1 ∨ ∃ x y, (r.extractLsb' 0 6).toNat ≤ x ∧ x ≤ x1 ∧ (r.extractLsb' 6 6).toNat ≤ y ∧ y ≤ y1 ∧
          y * 64 + x ∉ l.cores
    let req (i : Instr) (recs : List Word) : PrivReq :=
      { order := s.tick, instr := i, tid := pt.toNat, core := p.core, arg := v, recs := recs }
    let answers (is : List Instr) (i : Instr) (recs : List Word) (refused : Prop) (quota : List (Nat × Nat × Bool × Nat)) : Prop :=
      ∃ t, Run is s t ∧ (∀ r, (refused → t.reg r = if r = d ∧ d ≠ 0#5 then 1#64 else s.reg r) ∧
          (¬refused → t.reg r = if r = d ∧ d ≠ 0#5 then 0#64 else s.reg r)) ∧
        (s.thr.frame = none → t.thr.pc = s.thr.wordAddr + 4#20) ∧ t.thr.status = .ready ∧ t.com = s.com ∧
        t.tenants = s.tenants ∧ t.keys = s.keys ∧ t.hbm = s.hbm ∧ (∀ k, k ≠ p.tid → t.dev k = s.dev k) ∧
        (refused → { t.dev p.tid with cores := (s.dev p.tid).cores } = s.dev p.tid) ∧
        (¬refused → { t.dev p.tid with cores := (s.dev p.tid).cores } =
          { s.dev p.tid with priv := (s.dev p.tid).priv ++ [req i recs], quotas := quota ++ (s.dev p.tid).quotas })
    let reply := fun (i : Instr) => [i, .privilegedOperationReply p.tid p.core p.slot]
    (∀ k ∈ s.cur, k.2.priv = []) → (∀ th ∈ s.slotHere.allThreads, th.open = none) →
    (∀ ir ∈ ([(.quotasetSpill d a, (s.coreOf pt.toNat p.core).share = {}), (.quotasetPoolAdd d a, poolBad),
        (.quotasetPoolRemove d a, v.extractLsb' 0 2 = 3#2 ∨ (pool, frames) ∉ (s.dev pt.toNat).pool),
        (.quotasetSeqRange d a, rangeBad (fun x => (x.seqBase, x.seqCount)) (fun i => ∃ q ∈ (s.old pt.toNat).seqs, q.1 = i)),
        (.quotasetTaskRange d a, rangeBad (fun x => (x.taskBase, x.taskCount)) (fun i => ∃ q ∈ (s.dev pt.toNat).tasks, q.1 = i)),
        (.keyselAssign d a, key = 0 ∨ owner key ≠ none), (.keyselRelease d a, owner key ≠ some pt.toNat),
        (.modesetFeatures d a, False), (.modesetSeed d a, False),
        (.modesetRoot d a, owner (v.extractLsb' 48 13).toNat ≠ some pt.toNat ∨
          reservedBase ≤ (v.extractLsb' 12 29).toNat),
        (.modesetSystemFlag d a, ∃ x ∈ s.launches, x.2.live = true ∧ x.2.tid = pt.toNat),
        (.modesetComputeBudget d a, n25 = 0 ∨ 2 ^ 24 < n25),
        (.modesetExchangeBudget d a, n23 = 0 ∨ 2 ^ 22 < n23),
        (.modesetUnregister d a, tn.models.find (v.extractLsb' 0 8).toNat = none ∨
          ∃ x ∈ (s.old pt.toNat).streams, x.2.state = 1#2 ∧ x.2.model = v.extractLsb' 0 8)] : List (Instr × Prop)), Issues ir.1 s →
      answers (reply ir.1) ir.1 [] (¬exists' ∨ ir.2) []) ∧
    (∀ iq ∈ ([(.quotasetVquota d a, (false, (v.extractLsb' 32 16).toNat)),
        (.quotasetHquota d a, (true, (v.extractLsb' 32 32).toNat))] : List (Instr × Bool × Nat)), Issues iq.1 s →
      answers [iq.1, .streamTableRequest p.tid p.core p.slot, .privilegedOperationReply p.tid p.core p.slot] iq.1 []
        (stateFound s (v.extractLsb' 0 18).toNat = 0#2) [(s.tick, (v.extractLsb' 0 18).toNat, iq.2)]) ∧
    (∀ ir ∈ ([(.keyselImport d a, 128, fun _ => false, importBad), (.modesetFrameMap d a, 16, frameBusy s, frameBad),
        (.modesetLeaf d a, 32, pageBusy s, leafBad), (.modesetRegister d a, 512, fun _ => false, modelBad)] :
        List (Instr × Nat × (List Word → Bool) × (List Word → Prop))), Issues ir.1 s →
      ∀ bs, loadBytes s (v.setWidth 20) ir.2.1 = .ok bs →
      (ir.2.2.1 (wordsOf bs) = true → exec ir.1 s = .next (takeTrap { cause := .residency, val := v } s)) ∧
      (ir.2.2.1 (wordsOf bs) = false → answers (reply ir.1) ir.1 (wordsOf bs)
        (¬exists' ∨ ir.2.2.2 (wordsOf bs)) []))

/-! ### Links, dependent loads, the exchange barrier -/

/-- XLSEND, XLRECV, XHLD and XBAR at issue (R188, R195 to R197, R201). A link transfer leaves the rotation, matched with the
oldest waiting issue of the far end of its channel, tag and other direction where one is there; the turn is empty while the
slot has one under way; XHLD does so with its
address, and its value is in g[d] once the access completes, LATCNT having taken the excess (R160); one of its own core's
vault reads behind the writes of the loop-back port (R170); XBAR joins the next
instance of a rectangle that holds its core and lies within the launch.
The model's choices here: a local operand with bits above [19:0] traps (log entry 65); multiples of 8 (log entry 66); a slot's
second transfer waits (log entry 133). -/
def Obligations.LinksAndBarriers : Prop :=
  ∀ (s : State) (d a b c : BitVec 5),
    let p := s.actor
    let v := s.reg a
    let w := s.reg b
    let x := s.reg c
    let len := (w.extractLsb' 0 21).toNat
    let port := (x.extractLsb' 0 4).toNat
    let y := s.ports.get port {}
    let bad (cause : Cause) (q : Bool) (val : Word) (aux : Nat) : Option Trap :=
      if q then some { cause := cause, val := val, aux := BitVec.ofNat 64 aux } else none
    let lacks (at' on : Nat) : Bool := w.getLsbD on && !s.here.share.sem.getLsbD (w.extractLsb' at' 5).toNat
    (∀ iq ∈ [(Instr.xlsend d a b c, true), (Instr.xlrecv d a b c, false)], Issues iq.1 s →
      let checks := [if lacks 21 26 || (!iq.2 && lacks 27 32) then some { cause := .illegalRegister, val := w } else none,
        bad .misaligned (v.toNat % 8 != 0) v 1, bad .misaligned (decide (2 ^ 20 < len) || len % 8 != 0) w 2,
        bad .translation (decide (2 ^ 20 ≤ v.toNat)) v 1, bad .translation (channelOf s port p.tid).isNone x 3]
      let takes (far : Option (Nat × List Byte)) (u : State) : Prop := exec iq.1 s = .next
        ((u.modHere (fun k => { k with nextOp := k.nextOp + 1, links := k.links ++ [
          { id := s.here.nextOp, order := s.tick, slot := p.slot, level := s.thr.level, sends := iq.2, d := d.toNat,
            addr := v, ctl := w, link := x, far := far }] })).modThr (fun th => { th with status := .engine, resume := false }))
      (∀ tr, checks.findSome? id = some tr → exec iq.1 s = .next (takeTrap tr s)) ∧
      (checks.findSome? id = none →
        (∀ tr, localRange s (v.setWidth 20) len = .trap tr → exec iq.1 s = .next (takeTrap tr s)) ∧
        (localRange s (v.setWidth 20) len = .ok () → (∃ l ∈ s.here.links, l.slot = p.slot) → exec iq.1 s = .next s) ∧
        (localRange s (v.setWidth 20) len = .ok () → (∀ l ∈ s.here.links, l.slot ≠ p.slot) →
          ∀ chan, channelOf s port p.tid = some chan →
          let mine (z : Nat × Bool × BitVec 16 × Nat × List Byte) : Prop :=
            z.1 = chan ∧ z.2.1 = !iq.2 ∧ z.2.2.1 = x.extractLsb' 4 16
          ((y.up = false ∨ ∀ z ∈ y.waiting, ¬mine z) → takes none s) ∧
          (∀ before z after, y.up = true → y.waiting = before ++ z :: after → mine z → (∀ q ∈ before, ¬mine q) →
            takes (some z.2.2.2) { s with ports := s.ports.set port { y with waiting := before ++ after } })))) ∧
    (∀ sz : BitVec 3, Issues (.xhld d a sz) s →
      let n := [1, 2, 4, 8, 1, 2, 4].getD sz.toNat 8
      (v.toNat % n ≠ 0 → exec (.xhld d a sz) s = .next (takeTrap { cause := .misaligned, val := v, aux := 1#64 } s)) ∧
      (v.toNat % n = 0 → globalOf v = .none →
        exec (.xhld d a sz) s = .next (takeTrap { cause := .translation, val := v, aux := 1#64 } s)) ∧
      (v.toNat % n = 0 → globalOf v ≠ .none → ∀ bs excess,
        let own := ∃ la, globalOf v = .vault p.core la
        ∀ u : State, ((own ∧ u = portDone p.tid p.core s) ∨ (¬own ∧ u = s)) → hldBytes u p.tid p.core v n = .ok bs →
        let q := leNat bs
        let r : Word := [(BitVec.ofNat 8 q).signExtend 64, (BitVec.ofNat 16 q).signExtend 64,
          (BitVec.ofNat 32 q).signExtend 64].getD sz.toNat (BitVec.ofNat 64 q)
        ∃ t, Run [.xhld d a sz, .hbmAccessComplete p.tid p.core p.slot excess] s t ∧ OnlySlot u t ∧
          (∀ g, t.reg g = if g = d ∧ d ≠ 0#5 then r else s.reg g) ∧ t.slotHere.latcnt = s.slotHere.latcnt + excess ∧
          t.thr.status = .ready ∧ (s.thr.frame = none → t.thr.pc = s.thr.wordAddr + 4#20))) ∧
    (Issues (.xbar d a) s →
      let r : BitVec 24 := v.extractLsb' 0 24
      let x0 := (r.extractLsb' 0 6).toNat
      let y0 := (r.extractLsb' 6 6).toNat
      let x1 := (r.extractLsb' 12 6).toNat
      let y1 := (r.extractLsb' 18 6).toNat
      let good := x0 ≤ p.core % 64 ∧ p.core % 64 ≤ x1 ∧ y0 ≤ p.core / 64 ∧ p.core / 64 ≤ y1 ∧ y1 < 48 ∧
        ∀ i j, x0 ≤ i → i ≤ x1 → y0 ≤ j → j ≤ y1 → j * 64 + i ∈ s.myLaunch.cores
      let k := ((s.slotHere.bars.find? (fun q => q.1 == r)).map (·.2)).getD 0
      (¬good → exec (.xbar d a) s = .next (takeTrap { cause := .translation, val := v } s)) ∧
      (good → ∃ t, exec (.xbar d a) s = .next t ∧ OnlySlot s t ∧ t.slotHere =
        { s.slotHere.setTop { s.thr.advance with status := .barrier r k d.toNat } with
          bars := (r, k + 1) :: s.slotHere.bars.filter (fun q => q.1 != r) }))

/-- What ends a wait (R160, R180, R201, R300): WAIT_EXPIRED raises its trap where the condition does not hold and is nothing
where it does; XBAR_RELEASE releases the threads that wait at an instance once every core of the rectangle has reached it;
an access that returns lowers the count of open ones and adds to LATCNT; a walk puts a translation into the share of the
TLB, in place of the oldest where it is full.
The model's choices here: log entry 161 (held and stopped slots count at a barrier). -/
def Obligations.WaitEnds : Prop :=
  ∀ (s : State) (t c n : Nat),
    let p : Party := { tid := t, core := c, slot := n }
    let u := { s with actor := p }
    let expires (holds : Prop) (val : Word) (aux : Nat) : Prop :=
      (holds → exec (.waitExpired t c n) s = .next s) ∧
      (¬holds → exec (.waitExpired t c n) s = .next
        { takeTrap { cause := .waitExpired, val := val, aux := BitVec.ofNat 64 aux } u with actor := s.actor })
    (u.mayIssue = true →
      (∀ d a m e, u.thr.status = .waiting (.semwait d a m e) →
        let want := ((u.reg d).extractLsb' 0 32).toNat + m.toNat
        expires (want ≤ (u.sem a.toNat).toNat) (BitVec.ofNat 32 (min want (2 ^ 32 - 1)) ++ u.sem a.toNat) a.toNat) ∧
      (∀ d r m e, (u.thr.status = .waiting (.ringwait d r m e) ∨ u.thr.status = .waiting (.ringrsv d r m e)) →
        let h := u.ring r.toNat
        let occ := (h.extractLsb' 48 16 - h.extractLsb' 32 16).toNat
        let val : Word := m.setWidth 32 ++ h.extractLsb' 48 16 ++ h.extractLsb' 32 16
        (u.thr.status = .waiting (.ringwait d r m e) → expires (m.toNat ≤ occ) val (r.toNat + 32)) ∧
        (u.thr.status = .waiting (.ringrsv d r m e) →
          expires ((m.toNat : Int) ≤ max 0 ((2 ^ (h.extractLsb' 14 4).toNat : Int) - occ)) val (r.toNat + 64))) ∧
      (∀ d a m e head tail, u.thr.status = .waiting (.mbxrecv d a m e) →
        let sid := ((u.reg a).extractLsb' 0 18).toNat
        let x := (s.old t).streams.get sid {}
        x.state = 1#2 → x.home.toNat = c → boxLine u t x = .ok (head, tail) →
        expires (m.toNat ≤ (tail + 65536 - head) % 65536 ∧ m.toNat ≤ 2 ^ x.mbxlogn.toNat)
          (BitVec.ofNat 64 (head + tail * 2 ^ 16 + m.toNat * 2 ^ 32)) (96 + sid * 256))) ∧
    (∀ (r : BitVec 24) (k : Nat), (s.tenant t).phase.issues = true →
      let reached (c : Nat) : Prop := ∀ j ∈ liveSlots (s.coreOf t c), let x := (s.coreOf t c).slot j
        (x.top.status = .arrived ∨ (∃ m, x.top.status = .idle m) ∨ (∃ m, x.top.status = .held m) ∨
          (∃ m, x.top.status = .stopped m) ∨ ∃ m, x.bars.find? (fun q => q.1 == r) = some (r, m) ∧ k < m) ∧
        (∀ th ∈ x.thread :: x.handlers, ∀ m d, th.status = .barrier r m d → k ≤ m) ∧
        (∀ o ∈ (s.coreOf t c).xq, o.slot ≠ j) ∧ (∀ o ∈ (s.coreOf t c).cq, o.slot ≠ j) ∧
        (∀ o ∈ (s.coreOf t c).links, o.slot ≠ j) ∧ ∀ o ∈ (s.coreOf t c).port, o.slot ≠ j
      let go (th : Thread) : Thread := match th.status with
        | .barrier r' k' d => if r' = r ∧ k' = k then
            { th.setReg (BitVec.ofNat 5 d) (BitVec.ofNat 64 k) with status := .ready } else th
        | _ => th
      ((∃ c ∈ rectCores r, ¬reached c) → exec (.xbarRelease t r k) s = .next s) ∧
      ((∀ c ∈ rectCores r, reached c) → ∃ w, exec (.xbarRelease t r k) s = .next w ∧ { w with cur := s.cur } = s ∧
        (∀ j, j ≠ t → w.dev j = s.dev j) ∧ ∀ c m, let x := (s.coreOf t c).slot m
          (w.coreOf t c).slot m =
            if inRect r c then { x with thread := go x.thread, handlers := x.handlers.map go } else x)) ∧
    (∀ excess, (s.tenant t).phase.issues = true → (∀ q, u.thr.status ≠ .asking q) → u.slotHere.hbmOpen ≠ 0 →
      ∃ w, exec (.hbmAccessComplete t c n excess) s = .next w ∧ OnlySlot u { w with actor := p } ∧ w.slotOf p =
        { u.slotHere with hbmOpen := u.slotHere.hbmOpen - 1, latcnt := u.slotHere.latcnt + excess }) ∧
    (∀ va l, s.walk t va.toNat = .ok l →
      let e : TlbEntry := { page := va.toNat / pageBytes l.size, size := l.size, pfn := l.pfn, key := l.key }
      let k := s.coreOf t c
      let rest := k.tlb.filter (fun x => !(x.page == e.page && x.size == e.size))
      k.share.tlb ≠ 0 → exec (.pageWalkComplete t c va) s =
        .next (s.setCoreOf t c { k with tlb := rest.drop (rest.length + 1 - k.share.tlb) ++ [e] })) ∧
    (∀ va, (∀ l, s.walk t va.toNat ≠ .ok l) → exec (.pageWalkComplete t c va) s = .next s)

/-- The units of a transfer and its end (R164, R169, R174, R189, R190, R193): a unit leaves the copy queue with its source's
bytes as they stand, once no operation of the core that issued earlier has units to inject; XMCAST sends each piece as first
read; units land in their order; after a core's last unit its RSEM goes up, or, where the tenant has no such semaphore there,
the transfer stops with TRANSLATION; one that cannot be read or land stops it with a deferred fault; one whose destination an
earlier transfer has still to write waits; one to the issuing core's own vault lands behind the writes in the loop-back port.
With the last unit the slot has the flags of all, before RSEM goes up; at the end SEM goes up and the entry is free; with LEN 0
the cores that it names or selects have their RSEM first. `landFrame`: the checks of R189 in their order.
The model's choices here: the units (log entry 60); a piece of XMCAST read once for all members (log entry 61); a blocked unit
waits (log entry 63); LEN 0 with RSIG (log entry 127); an exchange write to a frame shared by copy-on-write takes a shadow
(log entry 67); a deferred ALLOWANCE sets TRAPAUX bit 2 only (log entry 68). -/
def Obligations.TransferSteps : Prop :=
  (∀ (s : State) (t c id : Nat) (o : XferOp), (s.coreOf t c).xq.find? (fun x => x.id == id) = some o →
    (s.tenant t).phase.issues = true →
    let us := unitsOf s t c o
    let w := o.b
    let rsem := (w.extractLsb' 27 5).toNat
    let e := Instr.exchangeUnitLanding t c id
    let put (x : XferOp) (v : State) : State :=
      v.modCoreOf t c (fun k => { k with xq := k.xq.map (fun y => if y.id = x.id then x else y) })
    let stops (cause : Cause) (aux : Word) (u : XUnit) (rank : Nat) (v : State) : Out :=
      .next (deferFault t o.ctx.launch { cause := cause, core := c, slot := o.slot, value := faultAddr o u, aux := aux } rank
        (v.modCoreOf t c (fun k => { k with xq := k.xq.filter (fun x => x.id != id) })))
    (∀ u bs rest, us[o.next]? = some u → o.flight = bs :: rest →
      (unitBlocked s t c o u = true → exec e s = .next s) ∧
      (unitBlocked s t c o u = false → ∀ z : State,
        ((u.core = some c ∧ z = portDone t c s) ∨ (u.core ≠ some c ∧ z = s)) →
        (∀ tr, landUnit z t c o u bs = .trap tr → exec e s = stops tr.cause tr.aux u 2 z) ∧
        (∀ x, landUnit z t c o u bs = .lost x → exec e s = stops .memLost 0#64 u 1 z) ∧
        (∀ v fl, landUnit z t c o u bs = .ok (v, fl) →
          let done := o.next + 1 = us.length
          let v' := put { o with next := o.next + 1, flight := rest, flags := if done then 0#6 else o.flags ||| fl } v
          let v' := if done then raiseFlagsOf { tid := t, core := c, slot := o.slot } (o.flags ||| fl) v' else v'
          let last := ∃ dc, u.core = some dc ∧ ∀ x ∈ us.drop (o.next + 1), x.core ≠ some dc
          (¬last ∨ w.getLsbD 32 = false → exec e s = .next v') ∧
          (∀ dc, last → u.core = some dc → w.getLsbD 32 = true →
            ((v'.coreOf t dc).share.sem.getLsbD rsem = true → exec e s = .next (bumpSem v' t dc rsem)) ∧
            ((v'.coreOf t dc).share.sem.getLsbD rsem = false → exec e s = stops .translation 8#64 u 2 v'))))) ∧
    (o.flight = [] →
      let mayRead := o.injected = false ∧ ∀ d ∈ s.cur, (∀ x ∈ (d.2.core c).cq, o.order ≤ x.order) ∧
        ∀ x ∈ (d.2.core c).xq, x.injected = true ∨ o.order ≤ x.order
      let own := (∃ d a b, o.instr = .xget d a b) ∧ ∃ la, globalOf o.a = .vault c la
      (¬mayRead → exec e s = .next s) ∧
      (mayRead → ∀ v : State, ((own ∧ v = portDone t c s) ∨ (¬own ∧ v = s)) →
        (us[o.next]? = none → exec e s = .next (put { o with injected := true } v)) ∧
        (∀ u, us[o.next]? = some u →
          let again (bs : List Byte) : Prop := (∃ d a b g, o.instr = .xmcast d a b g) ∧ o.piece = some (u.off, bs)
          ∀ src, ((∃ bs, again bs ∧ src = .ok bs) ∨
              ((∀ bs, ¬again bs) ∧ src = sourceOf v t c { o with piece := none } u.off u.len)) →
          (∀ tr, src = .trap tr → exec e s = stops tr.cause tr.aux u 2 v) ∧
          (∀ x, src = .lost x → exec e s = stops .memLost 0#64 u 1 v) ∧
          (∀ bs, src = .ok bs → exec e s = exec e (put { o with
            flight := [bs], piece := some (u.off, bs), injected := decide (o.next + 1 = us.length) } v))))) ∧
    (us ≠ [] ∨ w.getLsbD 32 = false → o.injected = true → us.length ≤ o.next →
      let p : Party := { tid := t, core := c, slot := o.slot }
      let v := (raiseFlagsOf p o.flags s).modCoreOf t c (fun k => { k with xq := k.xq.filter (fun x => x.id != id) })
      exec (.transferComplete t c id) s =
        .next (if w.getLsbD 26 then bumpSem v t c (w.extractLsb' 21 5).toNat else v)) ∧
    (us = [] → w.getLsbD 32 = true → o.injected = true →
      let dcs : List Nat := match o.instr with
        | .xput _ _ _ | .xred _ _ _ _ => (match globalOf o.d with
          | .vault k _ => [k]
          | _ => [])
        | .xmcast _ _ _ _ => maskMembers ((s.dev t).groups.get (o.c.extractLsb' 0 8).toNat []) (o.c.extractLsb' 8 16).toNat
        | .xdeal _ _ _ _ | .xhspill _ _ _ => []
        | _ => [c]
      let owns (dc : Nat) : Prop := (s.coreOf t dc).share.sem.getLsbD rsem = true
      ((∃ dc ∈ dcs, ¬owns dc) → exec (.transferComplete t c id) s =
        stops .translation 8#64 { core := none, dst := o.d.toNat, off := 0, len := 0 } 2 s) ∧
      ((∀ dc ∈ dcs, owns dc) →
        let v := (raiseFlagsOf { tid := t, core := c, slot := o.slot } o.flags
          (dcs.foldl (fun u dc => bumpSem u t dc rsem) s)).modCoreOf t c (fun k => { k with xq := k.xq.filter (fun x => x.id != id) })
        exec (.transferComplete t c id) s =
          .next (if w.getLsbD 26 then bumpSem v t c (w.extractLsb' 21 5).toNat else v)))) ∧
  (∀ (s : State) (t issuer dc f : Nat), (dc, f) ∉ s.lostFrames →
    let k := s.coreOf t dc
    let e := k.frame f
    let held := e.getLsbD 30 = true ∧ (e.extractLsb' 18 12).toNat = issuer ∧ gaveFrame s t issuer dc f = false
    let dirty := f ∈ k.copied ∨ (k.shadows.find f).isSome = true
    (e.getLsbD 9 = false → landFrame s t issuer dc f = .trap { cause := .writeProtect }) ∧
    (e.getLsbD 9 = true →
      (¬held → landFrame s t issuer dc f = .trap { cause := .capability }) ∧
      (held → dirty → landFrame s t issuer dc f = .ok s) ∧
      (held → ¬dirty →
        (reserveOf s t dc = [] → landFrame s t issuer dc f = .trap { cause := .allowance }) ∧
        (reserveOf s t dc ≠ [] → ∃ r ∈ reserveOf s t dc, landFrame s t issuer dc f =
          .ok ((s.modCoreOf t dc (fun k => { k with shadows := k.shadows.set f r })).drawn)))))

/-- The events of link transfers (R169, R170, R197, R198, R384, R385): a far end's issue, on a channel where both ends name
each other, meets the oldest local one of its tag and the other direction, or waits; a matched transfer ends with the number
of bytes in g[d] and SEM for a sender; a receiver's pieces enter the loop-back port, and with the last of them to land it ends:
the sender's LEN in g[d], SEM and RSEM, its slot goes on. A piece that cannot land ends it with a deferred fault. A time-out
or the partner's stop ends a transfer with EXCH_TIMEOUT deferred, the slot counting as arrived. How many bytes had moved at a
time-out is left open, up to what could move.
The model's choices here: an XLRECV's pieces in the loop-back port, SEM and RSEM after the last (log entry 71); what a far end
must show (log entry 112). -/
def Obligations.LinkEvents : Prop :=
  (∀ (s : State) (port len : Nat) (far : FarEnd) (sends : Bool) (tag : BitVec 16) (data : List Byte) (ch : Channel),
    let u := s.flitGood port
    let y := u.ports.get port {}
    let e := Instr.linkPartnerIssue port far sends tag len data
    let named := ch.ftid = far.tid ∧ ch.fser = far.serial ∧ ch.ltid = far.ftid ∧ far.here = true
    y.chans.find far.chan = some ch →
    (¬named ∨ y.up = false → exec e s = .next u) ∧
    (named → y.up = true →
      let fits (l : LinkOp) : Prop := l.far = none ∧ l.stopped = false ∧ l.sends = !sends ∧
        (l.link.extractLsb' 0 4).toNat = port ∧ l.link.extractLsb' 4 16 = tag
      ((∀ q ∈ (u.dev ch.ltid).cores, ∀ l ∈ q.2.links, ¬fits l) → exec e s = .next
        { u with ports := u.ports.set port { y with waiting := y.waiting ++ [(far.chan, sends, tag, len, data)] } }) ∧
      (∀ q l, q ∈ (u.dev ch.ltid).cores → l ∈ q.2.links → fits l →
        (∀ q' l', q' ∈ (u.dev ch.ltid).cores → l' ∈ q'.2.links → fits l' → (q'.1 = q.1 ∧ l' = l) ∨ l.order < l'.order) →
        exec e s = .next (u.modCoreOf ch.ltid q.1 (fun k => { k with
          links := k.links.map (fun x => if x.id = l.id then { x with far := some (len, data) } else x) }))))) ∧
  (∀ (s : State) (t c n : Nat) (l : LinkOp),
    (s.coreOf t c).links.find? (fun x => x.slot == n) = some l → (s.tenant t).phase.issues = true →
    let p : Party := { tid := t, core := c, slot := n }
    let most := (l.far.map (fun far => min (l.ctl.extractLsb' 0 21).toNat far.1)).getD 0
    let off (u : State) : State := u.modCoreOf t c (fun k => { k with
      links := k.links.filter (fun x => x.id != l.id), port := k.port.filter (fun x => x.id != l.id) })
    let stop (by' bytes : Nat) (u : State) : Out := .next (onThread p l.level (fun z =>
      (deferFault t z.thr.launch
        { cause := .exchTimeout, core := c, slot := n, value := l.link,
          aux := BitVec.ofNat 64 (4 + by' + (if l.sends then 16 else 32) + bytes % 2 ^ 21 * 2 ^ 24) } 3 z).modThr
        (fun th => { th with status := .arrived })) (off u))
    (∃ bytes ≤ most, exec (.linkTimeout t c n) s = stop 0 bytes s.drawn) ∧
    (∀ far, l.far = some far →
      let crossing := l.stopped = false ∧ l.landing = false
      let good := s.flitGood (l.link.extractLsb' 0 4).toNat
      (crossing → exec (.linkTransferComplete t c n) s = .next (onThread p l.level
        (fun u => if l.sends then linkSent l far.1 (off u) else linkReceived l far.1 far.2 u) good)) ∧
      (¬crossing → exec (.linkTransferComplete t c n) s = .next s) ∧
      ∀ moved, let crosses := crossing ∧ (s.ports.get (l.link.extractLsb' 0 4).toNat {}).up = true
        (crosses → exec (.linkPartnerStop t c n moved) s = stop 8 (min moved most) good) ∧
        (¬crosses → exec (.linkPartnerStop t c n moved) s = .next s))) ∧
  (∀ (s : State) (l : LinkOp) (n : Nat) (bs : List Byte),
    let port := (l.link.extractLsb' 0 4).toNat
    let y := s.ports.get port {}
    let room := min (l.ctl.extractLsb' 0 21).toNat n
    let base : LAddr := l.addr.setWidth 20
    let ends (r : Nat) (u : State) : State :=
      let v := retire (u.setReg (BitVec.ofNat 5 l.d) (BitVec.ofNat 64 r))
      if l.ctl.getLsbD 26 then bumpSem v v.actor.tid v.actor.core (l.ctl.extractLsb' 21 5).toNat else v
    (localBytes s s.actor.tid s.actor.core (ctxOf s.thr) base room = .ok bs → linkSent l n s = ends room
      { s with ports := s.ports.set port { y with sent := bs :: y.sent } }) ∧
    let signals (ctl : Word) (p : Party) (u : State) : State :=
      let v := if ctl.getLsbD 26 then bumpSem u p.tid p.core (ctl.extractLsb' 21 5).toNat else u
      if ctl.getLsbD 32 then bumpSem v p.tid p.core (ctl.extractLsb' 27 5).toNat else v
    let done (r : Nat) (u : State) : State :=
      signals l.ctl u.actor (retire (u.setReg (BitVec.ofNat 5 l.d) (BitVec.ofNat 64 r)))
    let off (t c : Nat) (u : State) : State := u.modCoreOf t c (fun k => { k with
      links := k.links.filter (fun x => x.id != l.id), port := k.port.filter (fun x => x.id != l.id) })
    (room ≤ bs.length →
      let ps := piecesOf base.toNat room
      (room = 0 → linkReceived l n bs s = done n (off s.actor.tid s.actor.core s)) ∧
      (room ≠ 0 → linkReceived l n bs s = s.modHere (fun k => { k with
        port := k.port ++ (List.range ps.length).map (fun i =>
          { id := l.id, slot := l.slot, ctx := ctxOf s.thr, addr := base + BitVec.ofNat 20 (ps.getD i (0, 0)).1,
            data := (bs.drop (ps.getD i (0, 0)).1).take (ps.getD i (0, 0)).2, last := decide (i + 1 = ps.length) })
        links := k.links.map (fun x => if x.id = l.id then { x with landing := true } else x) }))) ∧
    ∀ (t c : Nat) (x : PortWrite), x ∈ (s.coreOf t c).port → l.id = x.id →
      let r := landVault s t c c x.ctx true x.addr x.data.length (fun _ => x.data)
      let ends (f : State → State) (u : State) : State :=
        onThread { tid := t, core := c, slot := l.slot } l.level f (off t c u)
      let fault (cause : Cause) (rank : Nat) : State := deferFault t x.ctx.launch
        { cause := cause, core := c, slot := x.slot, value := x.addr.setWidth 64 } rank (ends retire s)
      (∀ v, r = .ok v → x.last = false → landPort t c x s =
        v.modCoreOf t c (fun k => { k with port := k.port.filter (fun y => y != x) })) ∧
      (∀ v far, r = .ok v → x.last = true → (v.coreOf t c).links.find? (fun y => y.id == l.id) = some l →
        l.far = some far → landPort t c x s = ends (done far.1) v) ∧
      ((s.coreOf t c).links.find? (fun y => y.id == l.id) = some l →
        (∀ e, r = .trap e → landPort t c x s = fault e.cause 2) ∧ (∀ e, r = .lost e → landPort t c x s = fault .memLost 1)))

/-! ### The phase beat -/

/-- PHASE_BOUNDARY (R18, R208, R211 to R213, R271, R376): where every participant has arrived, its Finial work done, it
commits or voids every tenant, counts the phase, and takes the commands fetched before it but PREEMPT and HOLD, by queue and
in ring order; with none the next phase opens at once. A running tenant without a replica commits, its lines in its digest; a
voided one is as it was committed, but for LATCNT and the boundary that its IDLE counts, and sits out, or is held where a hold
was asked for (R41, R165, R213, R312, R323, R354). On the way: shadows (R161), DIGEST in any order of the lines (R313),
registers lost at a commit (R41, R200), regions given and taken (R329), what a void restores (R42), the first failing check of
a launch (R297), tenants that sit out, and the start of a compute phase: launch threads (R377, R100), allowance (R45), packets
and arrivals (R221), batches (R225). BUDGET_EXPIRY makes a tenant that has not arrived a straggler (R210, R214, R366): its
operations are abandoned, its phase voided, and, unless it drains, on every core of it STRAGGLER or EXCH_TIMEOUT with PHASE
is to follow, which the lowest slot that had not arrived, else the lowest live one, takes when it leaves SITOUT. LAUNCH_COMPLETE writes
the completion record of the lowest-numbered launch that has nothing more to do, or frees its task entry (R248, R379).
CONTEXT_SAVE_COMPLETE leaves a pre-empted tenant's frames at level 0, nothing at level 1, and completes its PREEMPT (R348,
R379). REPLICA_FLIT brings the partner's contribution, on the channel of the pair (R364, R384).
The model's choices here: log entries 13 (alignment of CREC), 18 (the parts of a void), 19 (exchange commits), 21 (a silent
partner), 22 (what opens a boundary), 25 (draining), 28 (launch numbers), 32 (bad descriptors), 54 (PC bits), 59 (a packet
task's entry), 102 (shadows), 107 (the next stream), 110 (IDLE over a void), 151 (the order of packets), 152 (continuations),
162 (migrating streams). -/
def Obligations.PhaseEvents : Prop :=
  ((∀ s : State,
    (s.opening = false → boundaryDue s = false → exec .phaseBoundary s = .next s) ∧
    (s.opening = false → boundaryDue s = true → ∃ t, exec .phaseBoundary s = .next t ∧ t.phase = s.phase + 1#64 ∧
      t.cycle = s.cycle ∧
      let due := s.host.cmds.filter (fun c => c.op != 1#8 && c.op != 3#8)
      (due = [] → t.opening = false) ∧
      (due ≠ [] → t.opening = true ∧ t.host.due.Pairwise (fun a b => a.queue ≤ b.queue) ∧
        (∀ q, t.host.due.filter (fun c => c.queue == q) = due.filter (fun c => c.queue == q)) ∧
        t.host.cmds = s.host.cmds.filter (fun c => c.op == 1#8 || c.op == 3#8))) ∧
    (s.opening = true → s.host.due = [] → ∃ t, exec .phaseBoundary s = .next t ∧ t.phase = s.phase ∧ t.opening = false) ∧
    (s.opening = true → s.host.due ≠ [] → exec .phaseBoundary s = .next s)) ∧
  (∀ s : State,
    let arrives (t c : Nat) : Prop := let k := s.coreOf t c
      k.mq = [] ∧ k.cq = [] ∧ k.xq = [] ∧ k.links = [] ∧ k.port = [] ∧ ∀ n < 16, k.share.slots.getLsbD n = true →
        let x := k.slot n
        (x.thread.live = false ∧ x.handlers = []) ∨ x.top.status = .arrived ∨ (∃ m, x.top.status = .idle m) ∨
          (∃ m, x.top.status = .held m) ∨ ∃ m, x.top.status = .stopped m
    let arrived (t : Nat) : Prop := ∀ q ∈ s.launches, q.2.live = true → q.2.tid = t → ∀ c ∈ (s.launchOf q.1).cores, arrives t c
    let judged (t : Nat) : Prop := s.exchange = true → (s.dev t).finSubs = [] ∧ (s.dev t).joinSubs = []
    let counts (t : Nat) : Prop := match (s.tenant t).phase with
      | .run => arrived t ∧ judged t ∧ ∀ r, (s.tenant t).replica = some r → (∃ q ∈ r.partner, q.1 = r.ordinal) ∧ r.sent = true
      | .voiding false => arrived t ∧ judged t
      | _ => True
    let takesPart (t : Nat) : Prop := (∃ q ∈ s.launches, q.2.live = true ∧ q.2.tid = t) ∧
      (∀ e, (s.tenant t).phase ≠ .held e) ∧ (s.tenant t).phase ≠ .away
    (boundaryDue s = true ↔ s.powered = true ∧ s.started = true ∧ (∀ p ∈ s.tenants, exchangeOver s p.1 = true) ∧
      (∀ p ∈ s.tenants, takesPart p.1 → counts p.1) ∧ ((∀ p ∈ s.tenants, ¬takesPart p.1) → boundaryWanted s = true)) ∧
    (s.opening = false → boundaryDue s = true →
      let closed := { completeLaunches (releaseShares (endedShares s)
        (applyPrivileged (s.tenants.foldl (fun u p => endPhaseOf p.1 u) s))) with phase := s.phase + 1#64, rot := [] }
      let opens (v : State) : State :=
        let a := admissions v
        { a.tenants.foldl (fun u p => startPhaseOf p.1 u) a with opening := false }
      exec .phaseBoundary s = .next (if (takeDue closed).host.due = [] then opens (takeDue closed) else takeDue closed)) ∧
    (∀ t, (s.tenant t).phase = .run → startPhaseOf t s = if s.exchange then startExchange t s else startCompute t s)) ∧
  (∀ (s : State) (t : Nat),
    let tn := s.tenant t
    let u := endPhaseOf t s
    (tn.phase = .run → tn.replica = none → u.old t = u.dev t ∧ (u.tenant t).committed = s.phase ∧
      (u.dev t).digest = (s.dev t).digest + phaseDigest (settleLater t s) t ∧ (u.dev t).later = [] ∧
      (u.tenant t).phase = if tn.thermal ∨ (tn.draining = true ∧ s.exchange = true) then .held (!s.exchange) else .run) ∧
    (∀ b, tn.phase = .voiding b → tn.halted = [] →
      let o := s.old t
      u.old t = u.dev t ∧ { u.dev t with cores := o.cores, appends := o.appends } = o ∧
      (u.dev t).appends = (if s.exchange then [] else o.appends) ∧
      (∀ c, { u.coreOf t c with slots := (o.core c).slots } = o.core c ∧
        ∀ n, let x := (o.core c).slot n
          let y := (u.coreOf t c).slot n
          { y with latcnt := x.latcnt, thread := x.thread, handlers := x.handlers } = x ∧
          { y.thread with status := x.thread.status } = x.thread ∧ y.handlers.length = x.handlers.length ∧
          (y.thread.status = match x.thread.status with
            | .idle m => if m ≤ 1 then .ready else .idle (m - 1)
            | .held m => .held (m - 1)
            | st => st) ∧
          y.latcnt = (if (o.cores.find c).isSome ∧ ((s.coreOf t c).slots.find n).isSome
            then ((s.coreOf t c).slot n).latcnt else x.latcnt)) ∧
      (u.tenant t).phase = if tn.draining ∨ tn.thermal then .held s.exchange else .sitout s.exchange))) ∧
  (∀ s : State,
    (∀ t, participates s t = true → (s.tenant t).phase.issues = true → tenantArrived s t = false → s.opening = false →
      let silent := (s.tenant t).replica.any (fun r => r.partner.all (fun q => q.1 != r.ordinal))
      let aux (c : Nat) : Nat := 4 + (if (s.coreOf t c).hasArrived then 64 else 0) + (if silent then 128 else 0) +
        (lateSlots (s.coreOf t c)).foldl (fun v n => v + 2 ^ (16 + n)) 0
      ∃ u, exec (.budgetExpiry t) s = .next u ∧ (u.tenant t).phase = .voiding true ∧
        (u.tenant t).traps = (s.tenant t).traps ++ (if (s.tenant t).draining then [] else tenantCores s t).map (fun c =>
          { core := c, slot := 0, cause := if s.exchange then .exchTimeout else .straggler, val := s.phase,
            aux := BitVec.ofNat 64 (aux c), rank := 4 }) ∧
        ∀ c, u.coreOf t c = { s.coreOf t c with mq := [], cq := [], xq := [], links := [], port := [] }) ∧
    (∀ t q n, (s.tenant t).traps = [q] →
      let K := s.coreOf t q.core
      let x := K.slot n
      (if q.rank = 4 then (liveSlots K).find? (fun j => q.aux.toNat.testBit (16 + j)) = some n ∨
          ((∀ j ∈ liveSlots K, q.aux.toNat.testBit (16 + j) = false) ∧ (liveSlots K).head? = some n)
        else n = q.slot ∧ n ∈ liveSlots K) →
      x.handlers = [] → x.thread.level = 0 → x.thread.frame = none → x.h = false → x.trapvec.extractLsb' 0 20 ≠ 0#20 →
      let y := ((takePending t s).coreOf t q.core).slot n
      y.h = true ∧ y.cause = BitVec.ofNat 64 q.cause.code ∧ y.trapval = q.val ∧ y.trapaux = q.aux ∧
        y.trappc = x.thread.pc.setWidth 64 ∧ y.thread.pc = x.trapvec.extractLsb' 0 20 ∧ y.thread.status = .ready) ∧
    (∀ n l before after,
      let done (q : Nat × Launch) : Prop := q.2.live = true ∧ q.2.waiting = false ∧
        (s.dev q.2.tid).doneWith q.1 = true ∧ (s.old q.2.tid).doneWith q.1 = true
      s.launches = before ++ (n, l) :: after → (∀ q ∈ before, ¬done q) → done (n, l) → s.launches.find n = some l →
      let failed := l.failed = true ∨ l.written ≠ 0#32 ∨ l.dropped ≠ 0#32
      let q := s.host.queues.get l.queue {}
      ∃ u, exec .launchComplete s = .next u ∧ u.launches.find n = some { l with live := false } ∧
        (∀ i, l.task = some i → (u.dev l.tid).tasks.find i = none ∧ (u.old l.tid).tasks.find i = none) ∧
        (l.task = none → u.host.msix = (q.owner, q.vec.toNat) :: s.host.msix ∧
          u.hostMem = s.hostMem.writeBytes (l.crec.toNat / 32 * 32) (natLe 8 ((if failed then 1 else 0) + n * 2 ^ 32) ++
            natLe 8 s.phase.toNat ++ natLe 8 (l.written.toNat + l.dropped.toNat * 2 ^ 32) ++ natLe 8 0))) ∧
    (∀ k v before after, s.saves = before ++ (k, v) :: after → (∀ q ∈ before, q.2.complete = true) → v.complete = false →
      ∃ u, exec .contextSaveComplete s = .next u ∧
        u.saves.find v.tid = some { v with complete := true, image := contextImage s v } ∧
        u.images = { v with complete := true, image := contextImage s v } :: s.images ∧
        (u.tenant v.tid).phase = .run ∧ (∀ q ∈ v.launches, ∀ l, u.launches.find q.1 = some l → l.live = false) ∧
        (u.dev v.tid).ctl = [] ∧
        (v.level = 0 → (u.dev v.tid).vault = (s.dev v.tid).vault ∧
          ∀ c, u.coreOf v.tid c = { fm := (s.coreOf v.tid c).fm, tframes := (s.coreOf v.tid c).tframes }) ∧
        (v.level ≠ 0 → (u.dev v.tid).vault = [] ∧ (u.dev v.tid).cores = []) ∧
        (v.cmd = none → u.hostMem = s.hostMem ∧ u.host = s.host) ∧
        ∀ c, v.cmd = some c → let q := s.host.queues.get c.queue {}
          u.host.msix = (q.owner, q.vec.toNat) :: s.host.msix ∧ u.hostMem = s.hostMem.writeBytes (c.crec.toNat / 32 * 32)
            (natLe 8 0 ++ natLe 8 s.phase.toNat ++ natLe 8 0 ++ natLe 8 0)) ∧
    (∀ t far ordinal exchange sum r ch, (s.tenant t).replica = some r → (s.ports.get r.port {}).up = true →
      (s.ports.get r.port {}).chans.find far.chan = some ch → ch.repl = true → ch.ltid = t → ch.ftid = far.tid →
      ch.fser = far.serial → t = far.ftid → far.here = true →
      ∃ u, exec (.replicaFlit far ordinal exchange sum) s = .next u ∧
        (u.tenant t).replica = some { r with partner :=
          if ordinal.toNat < r.ordinal.toNat then r.partner else r.partner ++ [(ordinal, exchange, sum)] })) ∧
  ((∀ (s : State) (t c f r i : Nat), (s.dev t).vault.wf = true → (s.old t).vault.wf = true →
    let trio (x : Nat × Nat × Nat) : Prop := ∃ k, (x.1, k) ∈ (s.dev t).cores ∧ (x.2.1, x.2.2) ∈ k.shadows
    trio (c, f, r) → i < 4096 → f < 256 →
    (∀ x, trio x → x.2.1 < 256 ∧ x.2.2 < 256 ∧ (x = (c, f, r) ∨ (x.1, x.2.2) ≠ (c, r)) ∧ (x.1, x.2.2) ≠ (c, f)) →
    ((swapShadows t s).dev t).vault.read (vaultAddr c r i) = (s.old t).vault.read (vaultAddr c f i) ∧
      ((swapShadows t s).dev t).vault.read (vaultAddr c f i) = (s.dev t).vault.read (vaultAddr c f i)) ∧
  (∀ (s : State) (t a : Nat), (s.dev t).vault.wf = true → ((s.dev t).later.map (·.1)).Nodup →
    ((settleLater t s).dev t).vault.read a = (s.dev t).later.get a ((s.dev t).vault.read a)) ∧
  (∀ (s : State) (t : Nat) (ls : List (Nat × Bool × Nat)), ls.Perm (s.dev t).lines →
    let step (h w : Word) : Word :=
      let x := (h ^^^ w) * 0xD6E8FEB86659FD93#64
      (x ^^^ (x >>> 32)) + 0x9E3779B97F4A7C15#64
    let hash (a : Word) (ws : List Word) : Word :=
      let h := ws.foldl step (a ^^^ 0x6A09E667F3BCC908#64) * 0xD6E8FEB86659FD93#64
      h ^^^ (h >>> 29)
    phaseDigest s t = ls.foldr (fun l v => hash (BitVec.ofNat 64 l.1)
      (wordsOf (if l.2.1 then s.hbm.readBytes l.2.2 64 else
        ((s.dev t).vault.readBytes l.2.2 64).zipIdx.map (fun p => (s.dev t).later.get (l.2.2 + p.2) p.1))) + v) 0#64) ∧
  (∀ (s : State) (t c n : Nat), (s.tenant t).phase = .run → (s.tenant t).replica = none → (s.tenant t).debugWrites = [] →
    let K := s.coreOf t c
    let k := (endPhaseOf t s).coreOf t c
    let x := K.slot n
    let y := k.slot n
    k.queues = [] ∧ k.accs = [] ∧ k.shadows = [] ∧ k.copied = [] ∧ k.sems = K.sems ∧ k.rings = K.rings ∧
      k.deque = K.deque ∧ y.v = [] ∧ y.vm = [] ∧
      { y with v := x.v, vm := x.vm, hbmOpen := x.hbmOpen, bars := x.bars, thread := x.thread, handlers := x.handlers } = x ∧
      { y.thread with status := x.thread.status } = x.thread ∧
      (x.thread.status = .arrived ∨ x.thread.status = .idle 1 → y.thread.status = .ready) ∧
      (∀ m, x.thread.status = .idle (m + 2) → y.thread.status = .idle (m + 1)) ∧
      (x.thread.status = .ready → y.thread.status = .ready)) ∧
  (∀ (s : State) (t c f : Nat) (m : CapMsg) (rest : List CapMsg), s.exchange = true → (s.dev t).capMsgs = m :: rest →
    (∀ x ∈ m :: rest, x.done = true ∧ capKey s t x = some (.frame c f)) →
    let e := (s.coreOf t c).frame f
    let e' := ((commitCaps t s).coreOf t c).frame f
    let takers := (m :: rest).filter (fun x => !x.give)
    ((commitCaps t s).dev t).capMsgs = [] ∧
    (∀ g, (m :: rest).find? (fun x => x.give && x.valid) = some g → e'.getLsbD 30 = g.target.isSome ∧
      ∀ k, g.target = some k → e'.extractLsb' 18 12 = BitVec.ofNat 12 k) ∧
    ((∀ x ∈ m :: rest, x.give = true → x.valid = false) →
      ((((s.old t).core c).frame f).getLsbD 30 = true ∨ takers = [] → e' = e) ∧
      (∀ x ∈ takers, (((s.old t).core c).frame f).getLsbD 30 = false → (∀ y ∈ takers, x.src ≤ y.src) →
        e'.getLsbD 30 = true ∧ e'.extractLsb' 18 12 = BitVec.ofNat 12 x.src))) ∧
  (∀ s : State, (admissions s).com = (admissions s).cur ∧ ∀ x ∈ (admissions s).presented, x ∈ s.presented) ∧
  (∀ (s : State) (phase : Word) (rank : Nat) (h : HostCmd) (t : Option Nat),
    let told (status check : Nat) : State := complete h.crec h.queue status check 0 0#64 0#64 s
    (t = none → admitHost phase rank h t s = told 2 8) ∧
    (∀ i, t = some i → let r := readPlan s i (h.args.getD 0 0#64).toNat
      (r = .malformed → admitHost phase rank h t s = told 3 0) ∧
      (∀ k, r = .fails k → admitHost phase rank h t s = told 2 k) ∧
      ∀ p, r = .plan p →
        let tn := s.tenant p.tid
        let first : Option Nat :=
          if p.image.recs.all (recordOk s p.tid p.cores) = false ∨ (p.starts &&& p.slots) ≠ p.starts then some 7
          else if BitVec.ofNat 32 p.feats &&& ~~~(tn.permit &&& 0xFFFFF#32) ≠ 0#32 then some 1
          else if p.priv = true ∧ tn.system = false then some 2
          else if ∃ q ∈ s.launches, q.2.live = true ∧ (∃ c ∈ q.2.cores, c ∈ p.cores) ∧ q.2.tmode ≠ p.tmode then some 3
          else if p.share.inRange = false ∨ (∃ c ∈ p.cores, shareFits s p.tid c p.share = false) ∨
            walkersFit s p.tid p.cores p.share.walk = false then some 4
          else if lanesOk s p = false then some 5
          else if tn.replica ≠ none ∧ p.det = false then some 6
          else if p.entries < 16 ∨ 65536 < p.entries ∨ s.hbmWritable p.tid p.frec (64 + 32 * p.entries) = false then some 9
          else none
        (∀ k, first = some k → admitHost phase rank h t s = told 2 k) ∧
        (first = none →
          (freeLaunch s i = none → admitHost phase rank h t s = { s with presented := s.presented ++ [(h, t)] }) ∧
          (∀ n, freeLaunch s i = some n → admitHost phase rank h t s =
            admitPlan n p (launchOfPlan p (h.args.getD 0 0#64).toNat rank phase h.crec h.queue none) s)))) ∧
  (∀ (s : State) (t n : Nat), freeLaunch s t = some n → 64 * t ≤ n ∧ n < 64 * t + 64 ∧
    ∀ l, s.launches.find n = some l → l.live = false) ∧
  (∀ (s : State) (t : Nat),
    (((s.tenant t).phase = .sitout (!s.exchange) ∨ (s.tenant t).phase = .away) → startPhaseOf t s = s) ∧
    ((s.tenant t).phase = .sitout s.exchange →
      ((startPhaseOf t s).tenant t).phase = .run ∧ ((startPhaseOf t s).tenant t).traps = [])) ∧
  (∀ (s : State) (t n c i : Nat), (s.dev t).toStart = [n] → let l := s.launchOf n
    l.tid = t → c ∈ l.cores → i < 16 → l.starts.getLsbD i = true → l.slots.getLsbD i = true →
    let y := ((startLaunchThreads t s).coreOf t c).slot i
    ((startLaunchThreads t s).dev t).toStart = [] ∧ y.rngctr = 0#64 ∧ y.epoch = 0#48 ∧ y.sh = regsFrom 0 l.sh ∧
      y.trapvec = l.trapvec &&& 0xFFFFC#64 ∧ y.v = [] ∧ y.vm = [] ∧ y.lane = (if l.det then l.lanes.getD i i else i) ∧
      y.thread = { live := true, launch := n, pc := l.entry &&& 0xFFFFC#20, birth := s.tick }) ∧
  (∀ (s : State) (t c n : Nat) (free : List Nat), (∀ lv, 1 ≤ lv → lv ≤ 3 → arrivalsOf s t c lv = []) →
    freeSlots s t c = n :: free →
    let u := startCore t c s
    let y := (u.coreOf t c).slot n
    let starts (l : Launch) (th : Thread) (sh : List Word) : Prop := y.sh = regsFrom 0 sh ∧
      y.trapvec = l.trapvec &&& 0xFFFFC#64 ∧ y.v = [] ∧ y.vm = [] ∧
      y.thread = { th with live := true, status := .ready, pc := th.pc &&& 0xFFFFC#20, birth := s.tick }
    (u.coreOf t c).used = 0 ∧ (u.coreOf t c).allow = min (s.coreOf t c).limit (reserveOf s t c).length ∧
    (∀ i q rest, waitingPackets s t c = (i, q) :: rest → let l := s.launchOf q.launch
      starts l { launch := q.launch, origin := 1, pc := l.entry, packet := i } (packetShadows s t c i)) ∧
    (∀ m rest, waitingPackets s t c = [] → arrivalsOf s t c 0 = m :: rest → arrivalValid s t c m = true →
      starts (s.launchOf m.launch) (arrivalThread s t c 0 m) (s.launchOf m.launch).sh)) ∧
  (∀ (s : State) (t model g : Nat) (m : Model),
    let l := s.launchOf m.launch
    let cores := groupCores s t model g
    let can (p : Nat × Desc) : Prop := streamWaits (s.dev t) model g p = true ∧ ∀ j < 32, p.2.features.getLsbD j = true →
      l.feats.getLsbD j = true
    let all := (s.dev t).streams.filter (streamWaits (s.dev t) model g)
    let due : Prop := l.live = true ∧ (∀ c ∈ cores, ∃ i < 4, (s.coreOf t c).packets.find i = none) ∧
      (m.bmin ≤ all.length ∨ ∃ p ∈ all, m.a ≤ p.2.age.toNat)
    let before (x y : Nat × Desc) : Prop :=
      if tenantDet s t then (m.a ≤ x.2.age.toNat ∧ y.2.age.toNat < m.a) ∨
        ((m.a ≤ x.2.age.toNat ↔ m.a ≤ y.2.age.toNat) ∧ x.1 ≤ y.1)
      else y.2.age.toNat < x.2.age.toNat ∨ (x.2.age = y.2.age ∧ (x.2.born.toNat < y.2.born.toNat ∨
        (x.2.born = y.2.born ∧ x.1 ≤ y.1)))
    let u := batchGroup t model m g s
    ∃ waiting : List (Nat × Desc), ∃ taken : List Nat,
      (∀ p, p ∈ waiting ↔ p ∈ (s.dev t).streams ∧ can p) ∧ waiting.Pairwise before ∧
      taken.Sublist (waiting.map (·.1)) ∧ taken.length ≤ m.b ∧ (¬due → taken = []) ∧
      (taken = [] → ∀ c, (u.coreOf t c).packets = (s.coreOf t c).packets) ∧
      (taken ≠ [] → ∀ c ∈ cores, ∃ i < 4, (s.coreOf t c).packets.find i = none ∧ (u.coreOf t c).packets.find i =
        some { launch := m.launch, model := model, group := g, sids := taken, issued := s.phase,
               seq := (s.coreOf t c).packSeq })))

/-! ### Messages in an exchange phase -/

/-- MESSAGE_ACCEPT and SPILL_FULL_RECORD (R213, R219, R242, R255, R256): the sender's next message is accepted into its
destination's arrival queue, its spill ring, where its 80 bytes and 48 of zero stand in a reserve frame for every 32, or, a
remote update, into its list; else, or behind an earlier message to the same core that waits, it stays and is retried in the
next exchange phase; after 256 such phases the fault record says so once. A tenant that sits the phase out or is held receives
what starts a thread; what would write its memory waits.
What follows an arrival (R222, R235, R236, R243): in throughput mode the first valid arrival of the highest level starts
its handler in the slot that `handlerSlot` names, with PC from the dispatch table and g1 to g8 from the payload: a free one
has the launch's sh0 to sh7 and TRAPVEC, else what runs there stands below, its bounded wait abandoned; the lowest free
throughput slot takes the oldest continuation, unless its launch is deterministic, where no arrival waits for it, and the thread
issues first in the slot's first turn after the take (R216, R217).
The model's choices here: a handler's registers (log entry 48) and a thread's (log entry 49), dropped low PC bits (log entry
54), where a spilled entry stands (log entry 91), what a tenant that sits out receives (log entry 125), over which slots a
handler runs (log entries 129 and 139), the share of an only tenant (log entry 145), the entry SPILL_FULL (log entry 146),
which continuations a slot takes and when a tenant or a free slot is deterministic (log entry 78). -/
def Obligations.MessageArrival : Prop :=
  ((∀ (s : State) (t src : Nat) (m : Message), s.exchange = true →
    let out := (∃ e, (s.tenant t).phase = .sitout e) ∨ ∃ e, (s.tenant t).phase = .held e
    ((s.tenant t).phase.issues = true ∨ out) →
    (s.coreOf t src).sendq.find? (fun m => m.tried != some s.phase) = some m →
    let K := s.coreOf t m.dest
    let e := Instr.messageAccept t src
    let drop (u : State) : State :=
      u.modCoreOf t src (fun k => { k with sendq := k.sendq.filter (fun x => decide (x.seq ≠ m.seq)) })
    let accepted (u : State) : Prop := exec e s = .next (startAtOnce t m.dest (drop u))
    let stays (f : Message → Message) : Prop := exec e s = .next (s.modCoreOf t src (fun k =>
      { k with sendq := k.sendq.map (fun x => if x.seq = m.seq then f x else x) }))
    let refused : Prop := stays (fun x =>
      { x with tried := some s.phase
               retries := if x.tried.isNone || 256 ≤ x.retries then x.retries else x.retries + 1 })
    let spilled (f : Nat) (u : State) : State :=
      (u.modDev t (fun d => { d with
        vault := d.vault.writeBytes (vaultAddr m.dest f (128 * (K.spillTail % 32))) (m.bytes t ++ List.replicate 48 0#8)
      })).modCoreOf t m.dest (fun k =>
          { k with spill := k.spill ++ [m], spillTail := K.spillTail + 1 })
    let waits := ∃ x ∈ (s.coreOf t src).sendq, x.seq ≠ m.seq ∧ x.tried = some s.phase ∧ msgCore s t x = some m.dest
    (out → m.kind = .rupd ∨ m.kind = .mbxsend → stays (fun x => { x with tried := some s.phase })) ∧
    (m.kind ≠ .mbxsend → (out → m.kind ≠ .rupd) →
      (waits → refused) ∧
      (¬waits →
        (m.kind = .rupd → accepted (s.setCoreOf t m.dest { K with updates := K.updates ++ [m] })) ∧
        (m.kind ≠ .rupd →
          (K.arrq.length < K.share.arrq → accepted (s.setCoreOf t m.dest { K with arrq := K.arrq ++ [m] })) ∧
          (K.share.arrq ≤ K.arrq.length →
            (K.share.spill ≤ K.spill.length → refused) ∧
            (K.spill.length < K.share.spill →
              (K.spillTail % 32 ≠ 0 → accepted (spilled (K.spillFrames.getLastD 0) s)) ∧
              (K.spillTail % 32 = 0 →
                (reserveOf s t m.dest = [] → refused) ∧
                (reserveOf s t m.dest ≠ [] → ∃ f ∈ reserveOf s t m.dest, accepted
                  (spilled f (s.setCoreOf t m.dest { K with spillFrames := K.spillFrames ++ [f] })).drawn)))))))) ∧
  (∀ (s : State) (t c : Nat), tenantDet s t = true ∨ (∃ e, (s.tenant t).phase = .sitout e) ∨
    (∃ e, (s.tenant t).phase = .held e) ∨ freeSlots s t c = [] → startAtOnce t c s = s) ∧
  (∀ (s : State) (t src : Nat) (m : Message), (s.coreOf t src).sendq.find? (fun m => m.retries == 256) = some m →
    exec (.spillFullRecord t src) s = .next (record m.launch
      { cause := .spillFull, core := src, slot := m.slot,
        value := BitVec.ofNat 64 ((msgCore s t m).getD 0 + m.typ.toNat * 2 ^ 12) }
      (modBoth t (fun d => d.modCore src (fun k => { k with
        sendq := k.sendq.map (fun x => if x.seq = m.seq then { x with retries := 257 } else x) })) s)))) ∧
  ((∀ (s : State) (t c lv n : Nat) (m : Message) (rest : List Message), (s.tenant t).phase.issues = true →
    tenantDet s t = false → 1 ≤ lv → lv ≤ 3 → (∀ j, lv < j → j ≤ 3 → arrivalsOf s t c j = []) →
    arrivalsOf s t c lv = m :: rest → arrivalValid s t c m = true → handlerSlot s t c lv = some n →
    let l := s.launchOf m.launch
    let handler : Thread :=
      { launch := m.launch, origin := 2, level := lv, live := true, status := .ready, birth := s.tick,
        pc := BitVec.ofNat 20 (dispatchEntry s t c m.typ.toNat) &&& 0xFFFFC#20, g := regsFrom 1 m.payload,
        sh := regsFrom 0 l.sh, trapvec := l.trapvec &&& 0xFFFFC#64 }
    let x := (s.coreOf t c).slot n
    let below : Thread := { x.top with status := match x.top.status with
      | .waiting (.semwait _ _ _ _) | .waiting (.ringwait _ _ _ _) | .waiting (.ringrsv _ _ _ _)
      | .waiting (.mbxrecv _ _ _ _) | .waiting (.join _) => .ready
      | st => st }
    ∃ u, exec (.handlerPreemption t c) s = .next u ∧
      (x.thread.live = false ∧ x.handlers = [] → (u.coreOf t c).slot n =
        { sh := regsFrom 0 l.sh, trapvec := l.trapvec &&& 0xFFFFC#64, lane := if l.det then l.lanes.getD n n else n
          ptenant := BitVec.ofNat 64 t, rngctr := x.rngctr, epoch := x.epoch, bars := x.bars, handlers := [handler] }) ∧
      (¬(x.thread.live = false ∧ x.handlers = []) →
        (u.coreOf t c).slot n = { x.setTop below with handlers := handler :: (x.setTop below).handlers })) ∧
  (∀ (s : State) (t c lv n : Nat), handlerSlot s t c lv = some n →
    (n ∈ freeSlots s t c ∧ ∀ j ∈ freeSlots s t c, n ≤ j) ∨
      (freeSlots s t c = [] ∧ ((s.coreOf t c).slot n).top.pfx = none ∧ ((s.coreOf t c).slot n).top.level < lv ∧
        (∀ e, ((s.coreOf t c).slot n).top.status ≠ .stopped e) ∧
        ∀ j ∈ liveSlots (s.coreOf t c), (∀ e, ((s.coreOf t c).slot j).top.status ≠ .stopped e) →
          ((s.coreOf t c).slot n).top.level ≤ ((s.coreOf t c).slot j).top.level)) ∧
  (∀ (s : State) (t c n N : Nat) (x : Cont) (rest : List Cont), (s.tenant t).phase.issues = true →
    noArrivalWaits s t c = true → (s.coreOf t c).deque = x :: rest → n ∈ freeSlots s t c →
    let always (j : Nat) : Prop := (∃ q ∈ s.launches, q.2.live = true ∧ q.2.tid = t ∧ c ∈ (s.launchOf q.1).cores ∧
        (s.launchOf q.1).slots.getLsbD j = true) ∧
      ∀ q ∈ s.launches, q.2.live = true → q.2.tid = t → c ∈ (s.launchOf q.1).cores →
        (s.launchOf q.1).slots.getLsbD j = true → (s.launchOf q.1).det = true
    ¬always n → (∀ j ∈ freeSlots s t c, j < n → always j) → x.launch ∉ (s.tenant t).halted →
    let l := s.launchOf x.launch
    (l.det = true → exec (.continuationTake t c) s = .next s) ∧
    (l.det = false → slotCount s c = N → n < N → ∃ u, exec (.continuationTake t c) s = .next u ∧ (u.coreOf t c).deque = rest ∧
      ((u.coreOf t c).slot n).thread =
        { launch := x.launch, origin := 3, pc := x.pc &&& 0xFFFFC#20, g := regsFrom 1 x.g, stream := x.stream,
          join := x.join, live := true, status := .ready, birth := s.tick } ∧
      ((u.coreOf t c).slot n).trapvec = x.trapvec &&& 0xFFFFC#64 ∧ ((u.coreOf t c).slot n).sh = regsFrom 0 l.sh ∧
      ((u.coreOf t c).slot n).flags = 0#64 ∧ ((u.coreOf t c).slot n).rngctr = ((s.coreOf t c).slot n).rngctr ∧
      let now := (s.rot.get c {}).turn
      let times := ((u.rot.get c {}).slots.get n {})
      times.birth = s.tick ∧ now < times.next ∧ times.next % N = n ∧ times.next ≤ now + N)))

/-- Remote updates, mailbox entries, and the messages for capabilities, forks and prunes (R175, R246, R247, R250, R262,
R267, R327): each is delivered as its rule says, or recorded where it cannot be. The bytes of an update and of an entry are the
holder's at the commit and nobody's before (R171); an FADD is the sum of VFADD in f32, rounded to nearest even.
The model's choices here: DEFERRED_UPDATE over a lost frame (log entry 89); a second gift fails at its delivery (log entry
96); what lands is kept to the commit (log entry 132). -/
def Obligations.MessageDelivery : Prop :=
  ∀ (s : State) (t : Nat), s.exchange = true → (s.tenant t).phase.issues = true →
    (∀ c idx m, (s.coreOf t c).updates[idx]? = some m → updateDue s t m = true →
      let v := s.modCoreOf t c (fun k => { k with updates := k.updates.eraseIdx idx })
      let n := m.updBytes
      let lands := landHeld v t m.dest (m.target.setWidth 20) n (fun old => natLe n (updateResult m.updOp n (leNat old) m.operand))
      let entry (cause : Cause) : FaultEvent :=
        { cause := .deferredUpdate, under := cause.code, core := m.src, slot := m.slot, value := m.target
          aux := BitVec.ofNat 64 cause.code }
      let fails (cause : Cause) : Prop :=
        exec (.remoteUpdateApply t c idx) s = .next (record m.launch (entry cause) v)
      (∀ u, lands = .ok u → exec (.remoteUpdateApply t c idx) s = .next u) ∧ (∀ tr, lands = .trap tr → fails tr.cause) ∧
        (∀ x, lands = .lost x → fails .memLost)) ∧
    (∀ n old v, n ∈ [4, 8] → old < 2 ^ (8 * n) →
      let w := 8 * n
      let x := v % 2 ^ w
      let i (a : Nat) : Int := (BitVec.ofNat w a).toInt
      ∀ ov ∈ [(0, (old + x) % 2 ^ w), (1, if i x < i old then x else old), (2, if i old < i x then x else old),
        (3, old ||| x), (4, old &&& x), (5, old ^^^ x)], updateResult ov.1 n old v = ov.2) ∧
    (∀ old v, updateResult 6 4 old v = (fAdd 12 0 0 false old (v % 2 ^ 32)).code) ∧
    (∀ home a n new f off u, globalPlace s t home home a = some (.vault f off) → landHeld s t home a n new = .ok u →
      let v := vaultAddr home f off
      let bs : List Byte := new (((s.dev t).vault.readBytes v n).zipIdx.map (fun p => (s.dev t).later.get (v + p.2) p.1))
      (u.dev t).vault = (s.dev t).vault ∧ u.com = s.com ∧ ∀ k,
        (u.dev t).later.find k = if v ≤ k ∧ k < v + bs.length then bs[k - v]? else (s.dev t).later.find k) ∧
    (∀ src m, (s.coreOf t src).sendq.find? (fun m => m.tried != some s.phase) = some m → m.kind = .mbxsend →
      boxTurn s t m = true →
      let x := (s.old t).streams.get m.dest {}
      let home := x.home.toNat
      let size := 2 ^ x.mbxlogn.toNat
      let e := Instr.mailboxDelivery t src
      let drop (u : State) : State :=
        u.modCoreOf t src (fun k => { k with sendq := k.sendq.filter (fun y => decide (y.seq ≠ m.seq)) })
      let fits := x.state = 1#2 ∧ x.mbx.toNat + 64 + 64 * size ≤ 0x7C000
      let fails (cause : Cause) (at' rank : Nat) : Prop := exec e s = .next (deferFault t m.launch
        { cause := cause, core := src, slot := m.slot, value := BitVec.ofNat 64 at' } rank (drop s))
      (¬fits → exec e s = .next (record m.launch
        { cause := .translation, core := src, slot := m.slot, value := BitVec.ofNat 64 m.dest } (drop s))) ∧
      (fits → heldBehind s t src m = true → exec e s = .next (refuseMessage t src m s)) ∧
      (fits → heldBehind s t src m = false → (∀ tr, boxLine s t x = .trap tr → fails .translation (x.mbx.toNat + 64) 2) ∧
        ∀ a, boxLine s t x = .lost a → fails .memLost (x.mbx.toNat + 64) 1) ∧
      (fits → heldBehind s t src m = false → ∀ head tail, boxLine s t x = .ok (head, tail) →
        let at' := x.mbx.toNat + 64 + tail % size * 64
        ((tail + 65536 - head) % 65536 = size → exec e s = .next (refuseMessage t src m s)) ∧
        ((tail + 65536 - head) % 65536 ≠ size →
          (∀ u v, landSpan t home at' m.boxEntry s = .ok u →
            landSpan t home (x.mbx.toNat + 2) (natLe 2 ((tail + 1) % 65536)) u = .ok v → exec e s = .next (drop v)) ∧
          (∀ tr, landSpan t home at' m.boxEntry s = .trap tr →
            fails (if tr.cause = .localUnmapped then .translation else tr.cause) at' 2) ∧
          (∀ a, landSpan t home at' m.boxEntry s = .lost a → fails .memLost at' 1)))) ∧
    (∀ home a bs, bs ≠ [] → a % 64 + bs.length ≤ 64 →
      landSpan t home a bs s = landHeld s t home (BitVec.ofNat 20 a) bs.length (fun _ => bs)) ∧
    (∀ m before after, (s.dev t).capMsgs = before ++ m :: after → (∀ x ∈ before, x.done = true) → m.done = false →
      let set (valid : Bool) : State := s.modDev t (fun d => { d with
        capMsgs := before ++ { m with done := true, valid := valid } :: after })
      let again := ∃ x ∈ before ++ m :: after, x.done = true ∧ x.valid = true ∧ x.give = true ∧ x.src = m.src ∧
        x.frame = none ∧ capKey s t x = capKey s t m
      let good := m.give = false ∨ m.frame ≠ none ∨ (capHeld s t m = true ∧ ¬again)
      (good → exec (.capabilityMessageDelivery t) s = .next (set true)) ∧
      (¬good → exec (.capabilityMessageDelivery t) s = .next (deferFault t m.launch
        { cause := .capability, core := m.src, slot := m.slot, value := m.region } 2 (set false)))) ∧
    (∀ child parent, (s.dev t).raises = [(child, parent)] → ∃ u, exec (.sharingCountRaise t) s = .next u ∧
      (u.dev t).raises = [] ∧ (u.dev t).streams.get child {} = { (s.dev t).streams.get child {} with parked := false } ∧
      ∀ k, (u.dev t).counts.get k 0 =
        (s.dev t).counts.get k 0 + (tableKeys s t ((s.dev t).streams.get parent {})).count k) ∧
    (∀ sid, (s.dev t).releases = [sid] → ∃ u, exec (.referenceRelease t) s = .next u ∧ (u.dev t).releases = [] ∧
      (u.dev t).released = (s.dev t).released ++ [sid] ∧
      ∀ k, (u.dev t).counts.get k 0 =
        (s.dev t).counts.get k 0 - (tableKeys s t ((s.dev t).streams.get sid {})).count k)

/-! ### Rounds and migration -/

/-- FINIAL_ROUND, OCULUS_ROUND, SMIGRATE_REPLY and MIGRATED_STREAM_ADMISSION (R25, R268, R271 to R274, R278, R279, R308,
R384, R385). A round takes all the submissions there are; a mixed Finial round has CONFLICT and no items, an agreeing selection
the first k candidates by key, index, core and submission, an agreeing reduction at each index the value of the tree's root over
the cores that submitted that many elements; a join takes J and the pruned siblings by their ranks, the parent's RETURN takes J
at the commit. An Oculus round commits the masked positions that are forced, then those of the greatest keys, as many as S and M
give; it clears their mask bits, nothing else of the mask, counts, and sets the bits of the dirty map that R279 names. A
migration over a port that is or has been down ends with result 3.
The model's choices here: log entries 15 (the answer's layout), 82 (the notice's sender), 83 (result 2, the arriving stream's
die and pages), 112 (the far end's binding, a reply over a pair that does not work), 130 (result 1 for an unregistered model),
134 (forced submissions first, in increasing position), 154 (BORN of an admitted stream), 156 (a child submitted twice). -/
def Obligations.RoundsAndMigration : Prop :=
  ∀ (s : State) (t : Nat),
    (s.exchange = true → (s.tenant t).phase.issues = true →
      let d := s.dev t
      let parent (x : JoinSub) : Nat := ((s.old t).streams.get x.child {}).parent.toNat
      (∃ u, exec (.finialRound t) s = .next u ∧ (u.dev t).finSubs = [] ∧ (u.dev t).joinSubs = [] ∧
        (∀ id, ((∃ x ∈ d.finSubs, x.id = id) → ∃ free,
            (u.dev t).finRes.find id = some (finRound free (d.finSubs.filter (fun x => x.id == id)))) ∧
          ((∀ x ∈ d.finSubs, x.id ≠ id) → (u.dev t).finRes.find id = d.finRes.find id)) ∧
        ∃ ps : List Nat, ps.Pairwise (· < ·) ∧ (∀ p, p ∈ ps ↔ ∃ x ∈ d.joinSubs, parent x = p) ∧
          (u.dev t).joinRes = d.joinRes ++ ps.map (fun p => (p, joinOf (siblingsOf s t p d.joinSubs))) ∧
          ∀ p ∈ ps, (siblingsOf s t p d.joinSubs).Pairwise (fun a b => a.child < b.child) ∧
            (∀ i, (∃ x ∈ siblingsOf s t p d.joinSubs, x.child = i) ↔ ∃ x ∈ d.joinSubs, x.child = i ∧ parent x = p) ∧
            ∀ x ∈ siblingsOf s t p d.joinSubs, x ∈ d.joinSubs) ∧
      (∀ seq q, d.seqs.find seq = some q → q.subs ≠ [] →
        let k := seqConf q.recs
        ∃ u q', exec (.oculusRound t seq) s = .next u ∧ (u.dev t).seqs.find seq = some q' ∧ q'.round = q.round + 1#32 ∧
          q'.subs = [] ∧ q'.recs = q.recs ∧
          (∀ i, q'.mask.testBit i = (q.mask.testBit i && !(roundCommits q).any (fun x => x.pos == i))) ∧
          (∀ l b, let held (b' : Nat) : Prop := ∃ x ∈ roundCommits q, x.pos / 32 = b'
            (l < k.g → ((q'.dirty.get l 0).testBit b = true ↔ (q.dirty.get l 0).testBit b = true ∨ held b ∨
              (b < (k.n + 31) / 32 ∧ ((k.lmin ≤ l ∧ ∃ b', held b' ∧ b ≤ b' + k.wr ∧ b' ≤ b + k.wr) ∨
                (k.f ≠ 0 ∧ (q.round + 1#32).toNat % k.f = 0))))) ∧
            (k.g ≤ l → q'.dirty.find l = q.dirty.find l)) ∧
          (∀ v, writeTokens t k (roundCommits q) (s.modDev t (fun d => { d with seqs := d.seqs.set seq q' })) = (v, none) →
            u = v)) ∧
      (∀ port given newId m, (s.dev t).moves.find? (fun m => m.port == port) = some m →
        let failed := m.failed = true ∨ (s.ports.get port {}).up = false
        let works := ∃ q ∈ (s.ports.get port {}).chans, q.2.ltid = t ∧ q.2.met = true
        let result := if failed then 3 else given
        (¬failed → ¬works → exec (.smigrateReply t port given newId) s = .next (s.flitGood port)) ∧
        (failed ∨ works → ∃ u, exec (.smigrateReply t port given newId) s = .next u ∧
          (u.dev t).moves = d.moves.erase m ∧
          (u.dev t).reqs = d.reqs ++ (if result = 0 then [.prune m.sid] else []) ∧
          ((u.dev t).streams.get m.sid {}).migrating = false ∧
          (u.coreOf t m.core).seq = (s.coreOf t m.core).seq + 1#32 ∧
          (u.coreOf t m.core).sendq = (s.coreOf t m.core).sendq ++ [{ noticeOf m result newId with
            seq := (s.coreOf t m.core).seq }]))) ∧
    (∀ free subs x rest, subs = x :: rest →
      let r := finRound free subs
      ((∃ y ∈ rest, y.reduce ≠ x.reduce ∨ y.mode ≠ x.mode ∨ y.k ≠ x.k) → r.conflict = true ∧ r.items = []) ∧
      ((∀ y ∈ rest, y.reduce = x.reduce ∧ y.mode = x.mode ∧ y.k = x.k) → r.conflict = false ∧ r.reduce = x.reduce ∧
        (x.reduce = false →
          let before (a b : Word × Nat × Nat) : Prop :=
            let ka := a.1.toNat % 2 ^ 32
            let kb := b.1.toNat % 2 ^ 32
            let ia := a.1.toNat / 2 ^ 32
            let ib := b.1.toNat / 2 ^ 32
            (if x.mode = 1 then ka < kb else kb < ka) ∨ (ka = kb ∧ (ia < ib ∨ (ia = ib ∧
              (a.2.1 < b.2.1 ∨ (a.2.1 = b.2.1 ∧ a.2.2 ≤ b.2.2)))))
          ∃ all : List (Word × Nat × Nat), all.Perm (subs.flatMap (fun y => y.items.map (fun w => (w, y.core, y.order)))) ∧
            all.Pairwise before ∧ r.items = (all.take x.k).map (·.1)) ∧
        (x.reduce = true → (∀ y ∈ subs, y.core < 3072) → ∀ (i : Nat) (leaves : List (Nat × Nat)),
          let leaf (y : FinSub) : Nat := (y.core % 64 / 32 + 2 * (y.core / 64 / 24)) * 768 + y.core / 64 % 24 * 32 + y.core % 32
          leaves.Perm (subs.filterMap (fun y => (y.items[i]?).map (fun v => (leaf y, v.toNat)))) →
          leaves.Pairwise (fun a b => a.1 < b.1) →
          r.items[i]? = (nodeValue (finCombine x.mode) (fun n => (leaves.find? (fun q => q.1 == n)).map (·.2))
            [4, 3, 4, 4, 4, 4] 0).map (BitVec.ofNat 64)))) ∧
    (∀ a b : Word, ∀ ov ∈ [(0, a + b), (1, BitVec.ofNat 64 (f32Add a.toNat b.toNat).code),
        (2, if b.toInt < a.toInt then b else a), (3, if a.toInt < b.toInt then b else a),
        (4, if b.toNat < a.toNat then b else a), (5, if a.toNat < b.toNat then b else a),
        (6, if orderKey 12 a.toNat < orderKey 12 b.toNat then b else a),
        (7, if orderKey 12 b.toNat < orderKey 12 a.toNat then b else a)],
      BitVec.ofNat 64 (finCombine ov.1 a.toNat b.toNat) = ov.2) ∧
    (∀ (x : JoinSub) (rest : List JoinSub),
      let before (a b : JoinSub) : Prop := orderKey 12 b.ret.toNat < orderKey 12 a.ret.toNat ∨
        (orderKey 12 a.ret.toNat = orderKey 12 b.ret.toNat ∧ a.child ≤ b.child)
      let sum := rest.foldl (fun a y => addF32 a y.ret) x.ret
      ∃ first ranked, (first :: ranked).Perm (x :: rest) ∧ (first :: ranked).Pairwise before ∧
        joinOf (x :: rest) = (if x.op = 0 then first.ret else if x.op = 1 then sum
            else BitVec.ofNat 32 (f32DivNat sum.toNat (rest.length + 1)),
          if x.keep = 0 then [] else ((first :: ranked).drop x.keep).map (·.child))) ∧
    (∀ p j ids, (s.dev t).joinRes = [(p, j, ids)] →
      let x := (s.dev t).streams.get p {}
      let u := (commitJoins t s).dev t
      u.joinRes = [] ∧ u.reqs = (s.dev t).reqs ++ ids.map (fun c => .prune c) ∧
      (x.state = 1#2 ∨ x.state = 2#2 → u.streams.get p {} = { x with ret := addF32 x.ret j }) ∧
      (x.state ≠ 1#2 → x.state ≠ 2#2 → u.streams = (s.dev t).streams)) ∧
    (∀ q : Sequence,
      let k := seqConf q.recs
      let open' := q.subs.filter (fun x => q.mask.testBit x.pos)
      ∃ forced ranked : List SeqSub, forced.Perm (open'.filter (·.forced)) ∧
        forced.Pairwise (fun a b => a.pos ≤ b.pos) ∧
        ranked.Perm (open'.filter (fun x => !x.forced)) ∧
        ranked.Pairwise (fun a b => b.key < a.key ∨ (a.key = b.key ∧ a.pos ≤ b.pos)) ∧
        let masked := (List.range (q.mask.log2 + 1)).countP (fun i => q.mask.testBit i) - forced.length
        roundCommits q = forced ++ ranked.take (min (max k.m (masked * k.s / 65536)) (min masked ranked.length))) ∧
    (∀ (port : Nat) (x : StreamArrival) (ch : Channel),
      let v := s.flitGood port
      let y := v.ports.get port {}
      let d := Desc.ofWords x.desc
      ((s.ports.get port {}).up = false → exec (.migratedStreamAdmission port x) s = .next s) ∧
      let responds (result sid : Nat) (u : State) : Prop := exec (.migratedStreamAdmission port x) s =
        .next { u with ports := u.ports.set port { (u.ports.get port {} : Port) with
          sent := (natLe 1 x.far.chan ++ natLe 1 result ++ natLe 4 sid) :: (u.ports.get port {}).sent } }
      (y.up = true → y.chans.find x.far.chan = some ch → ch.ltid = t → ch.ftid = x.far.tid → ch.fser = x.far.serial →
      t = x.far.ftid → x.far.here = true → s.exchange = true → (s.tenant t).phase.issues = true →
      let may := (s.tenant t).permit &&& 0xFFFFF#32 &&& d.features = d.features ∧ modelOf v t d.model.toNat ≠ none
      (¬may → responds 1 0 v) ∧
      (may →
        (arrivalSid v x.desc = none → responds 2 0 v) ∧
        (∀ sid, arrivalSid v x.desc = some sid →
          let e := { d with state := 1#2, vused := 0#16, hused := 0#32, age := 0#16, born := s.phase + 1#64, parked := true }
          let r := x.memory.foldl (fun o m => o.bind (admitMemory t m)) ((List.range (groupsOf v t e)).foldl
            (fun o g => o.bind (admitGroup t e.model.toNat g e x.segments)) (some v))
          (r = none → responds 2 0 v) ∧
          (∀ u, r = some u → responds 0 sid
            (u.modDev t (fun z => { z with streams := z.streams.set sid { e with parked := false } })))))))

/-! ### What no thread can touch -/

/-- No instruction of a thread, its trap included, touches anything committed, PHASE, CYCLE, another tenant, a key, a count
of pages, a saved context, the host or the dies. Outside its own tenant's phase it changes at most: the fault records of its
launch and of those whose loop-back writes it waits for, with their bytes in HBM and the launches' own counts, by entries and by
nothing else; its tenant's place in the phase beat; the waiting far ends of a port; the counter of free values (R156, R295,
R343). An entry reaches no line of HBM but those where the record's own pages stand, where no page table of the tenant does. -/
def Obligations.ThreadIsolation : Prop :=
  (∀ (s t : State) (i : Instr), i.hasWord = true → exec i s = .next t →
    let x := s.tenant s.actor.tid
    let mine (n : Nat) : Prop := n = s.thr.launch ∨ ∃ w ∈ s.here.port, w.ctx.launch = n
    { t with cur := s.cur, tenants := s.tenants, launches := s.launches, hbm := s.hbm, hbmKey := s.hbmKey,
             ports := s.ports, draw := s.draw } = s ∧
    (∀ k, k ≠ s.actor.tid → t.dev k = s.dev k ∧ t.tenant k = s.tenant k) ∧
    (∀ n, ¬mine n → t.launches.find n = s.launches.find n) ∧
    (∃ es : List (Nat × FaultEvent), (∀ e ∈ es, mine e.1) ∧ let u := es.foldl (fun v e => record e.1 e.2 v) s
      t.hbm = u.hbm ∧ t.hbmKey = u.hbmKey ∧ t.launches = u.launches) ∧
    (∀ n l l', s.launches.find n = some l → t.launches.find n = some l' →
      { l' with written := l.written, dropped := l.dropped, failed := l.failed } = l) ∧
    { t.tenant s.actor.tid with phase := x.phase, traps := x.traps, trapped := x.trapped, halted := x.halted,
                                draining := x.draining } = x ∧
    ∀ k, { t.ports.get k {} with waiting := (s.ports.get k {}).waiting } = s.ports.get k {} ∧
      (t.ports.get k {}).waiting.Sublist (s.ports.get k {}).waiting) ∧
  ∀ (s : State) (n : Nat) (e : FaultEvent) (l : Launch), s.launches.find n = some l →
    let spot (pa : Nat) : Prop := ∃ va x, l.frec.toNat ≤ va ∧ va < l.frec.toNat + 64 + 32 * l.entries ∧
      s.walk l.tid va = .ok x ∧ x.phys va / 64 = pa / 64
    (∀ u : State, { u with hbm := s.hbm, hbmKey := s.hbmKey, launches := s.launches } = s →
      (∀ pa, ¬spot pa → u.hbm.read pa = s.hbm.read pa ∧ u.hbmKey.find (pa / 64) = s.hbmKey.find (pa / 64)) →
      ∀ va, u.walk l.tid va = s.walk l.tid va) →
    ∀ pa, ¬spot pa → (record n e s).hbm.read pa = s.hbm.read pa ∧
      (record n e s).hbmKey.find (pa / 64) = s.hbmKey.find (pa / 64)

/-! ### The host -/

/-- The commands of a boundary (R259, R295, R297, R315, R373, R376, R379, R384): the first one due is acted on by its own
event and by no other; each writes its completion record of 32 bytes, status 0 where it is done, 2 where it is refused, 3
where it is malformed, and signals its queue's vector; WARM's is written when the warm start has run.
The model's choices here: log entries 13 (alignment of CREC), 26 (DESTROY refuses pending DEBUG writes), 37 (PREEMPT's
refusals), 45 (WARM's completion), 99 (REGISTER's refusals), 112 (a binding over another), 147 (what UNREGISTER releases
first), 148 (status 3 of REGISTER, BINDVF and BINDLINK). -/
def Obligations.HostCommands : Prop :=
  (∀ (s : State) (c : HostCmd) (rest : List HostCmd), s.opening = true → s.host.due = c :: rest →
    let u := { s with host := { s.host with due := rest } }
    let ends (e : Instr) (status : Nat) (v : State) : Prop := exec e s = .next (answer c status v)
    let mine (f : Nat → Prop) : Prop := ∀ t, cmdTenant u c = some t → (u.tenants.find t).isSome → f t
    let foreign (e : Instr) : Prop := (cmdTenant u c = none ∨ ∃ t, cmdTenant u c = some t ∧ u.tenants.find t = none) → ends e 2 u
    (∀ oe ∈ ([(0, .launch), (2, .restore), (4, .release), (5, .attest), (6, .register), (7, .unregister), (8, .debug),
        (9, .create), (10, .destroy), (11, .bindvf), (12, .bindlink), (13, .importkey), (14, .warm)] : List (BitVec 8 × Instr)),
      (c.op ≠ oe.1 → exec oe.2 s = .next s) ∧
      (c.op = oe.1 → oe.1 ∈ ([2, 4, 5, 6, 7, 8, 10, 13] : List (BitVec 8)) → foreign oe.2)) ∧
    (c.op = 0#8 → ∀ t : Option Nat, (∀ i, t = some i ↔ cmdTenant s c = some i ∧ (s.tenants.find i).isSome) →
      exec .launch s = .next { u with presented := s.presented ++ [(c, t)] }) ∧
    (c.op = 9#8 →
      (s.tenants.find c.tid = none → ends .create 0
        { u with tenants := s.tenants.set c.tid {}, cur := s.cur.set c.tid {}, com := s.com.set c.tid {} }) ∧
      (s.tenants.find c.tid ≠ none → ends .create 2 u)) ∧
    (c.op = 10#8 → mine (fun t =>
      let free := hasLaunch s t = false ∧ (∀ x ∈ s.presented, x.2 ≠ some t) ∧
        (∀ p ∈ (s.old t).streams, p.2.state = 0#2) ∧ (s.old t).seqs = [] ∧ (s.old t).tasks = []
      let pages : List Nat := (((s.tenant t).root.toList.flatMap (fun r => leavesOf u t 3 r 0)).filter
        (fun (p : Nat × Nat) => p.2.testBit 5)).map (fun p => p.2 / 2 ^ 12 % 2 ^ 29)
      let v := (s.tenant t).debugWrites.foldl (fun v w => answer w.1 2 v)
        ((s.tenant t).holdCmds.foldl (fun v x => answer x 2 v) u)
      (free → ends .destroy 0 { v with tenants := s.tenants.del t, cur := s.cur.del t, com := s.com.del t
                                       saves := s.saves.del t, images := s.images.filter (fun x => x.tid != t)
                                       keys := s.keys.filter (fun k => k.2.owner != some t)
                                       pageCnt := s.pageCnt.filter (fun (p : Nat × Nat) => !pages.contains p.1) }) ∧
      (¬free → ends .destroy 2 u))) ∧
    (c.op = 11#8 →
      let vf := c.arg 0 % 128
      let t := c.arg 0 / 256 % 64
      let unbind := c.arg 0 / 32768 % 2 = 1
      (vf = 0 ∨ 64 < vf → ends .bindvf 3 u) ∧
      (0 < vf → vf ≤ 64 →
        (unbind → ends .bindvf 0 { u with host := { u.host with vf := s.host.vf.del vf } }) ∧
        (¬unbind → (s.tenants.find t).isSome → ends .bindvf 0 { u with host := { u.host with vf := s.host.vf.set vf t } }) ∧
        (¬unbind → s.tenants.find t = none → ends .bindvf 2 u))) ∧
    (c.op = 12#8 →
      let a := c.arg 0
      let port := a % 16
      let chan := a / 256 % 16
      let x : Channel := { ltid := a / 2 ^ 16 % 64, ftid := a / 2 ^ 24 % 64, repl := a / 2 ^ 32 % 2 == 1, fser := c.args.getD 1 0#64 }
      let y := s.ports.get port {}
      let other := ∃ p ∈ y.chans, p.1 ≠ chan ∧ p.2.ltid = x.ltid
      (12 ≤ port → ends .bindlink 3 u) ∧
      (port < 12 →
        (a / 2 ^ 33 % 2 = 1 → y.chans.find chan = none → ends .bindlink 0 u) ∧
        (∀ z, a / 2 ^ 33 % 2 = 1 → y.chans.find chan = some z → ∃ v, ends .bindlink 0 v ∧
          (v.ports.get port {}).chans.find chan = none ∧ (∀ w ∈ (v.ports.get port {}).waiting, w.1 ≠ chan) ∧
          (z.repl = true → (v.tenant z.ltid).replica = none)) ∧
        (a / 2 ^ 33 % 2 = 0 → (s.tenants.find x.ltid = none ∨ other) → ends .bindlink 2 u) ∧
        (a / 2 ^ 33 % 2 = 0 → (s.tenants.find x.ltid).isSome → ¬other → ∃ v, ends .bindlink 0 v ∧
          (v.ports.get port {}).chans.find chan = some x ∧
          (∀ z, y.chans.find chan = some z → z.repl = true → z.ltid ≠ x.ltid → (v.tenant z.ltid).replica = none) ∧
          (x.repl = true → (v.tenant x.ltid).replica = some { port := port })))) ∧
    (c.op = 13#8 → mine (fun t => (Config.ideProtected s.tick = false → ends .importkey 2 u) ∧
      (Config.ideProtected s.tick = true → ends .importkey 0 (u.modTenant t (fun x => { x with
        importKey := some (ofBytes256 ((c.args.take 4).flatMap (fun w => natLe 8 w.toNat))) }))))) ∧
    (c.op = 6#8 → mine (fun t =>
      (u.hbmRead t (c.arg 0) 512 = none → ends .register 3 u) ∧
      (∀ bs, u.hbmRead t (c.arg 0) 512 = some bs → modelOfRecord u t (wordsOf bs) = none → ends .register 2 u) ∧
      (∀ bs m x, u.hbmRead t (c.arg 0) 512 = some bs → modelOfRecord u t (wordsOf bs) = some (m, x) →
        ends .register 0 (u.modTenant t (fun y => { y with models := y.models.set m x }))))) ∧
    (c.op = 7#8 → mine (fun t =>
      let m := c.arg 0 % 256
      let used := ∃ p ∈ (s.old t).streams, p.2.state = 1#2 ∧ p.2.model.toNat = m
      ((s.tenant t).models.find m = none ∨ used → ends .unregister 2 u) ∧
      ((s.tenant t).models.find m ≠ none → ¬used → ∃ v, ends .unregister 0 v ∧
        v.tenants = (u.modTenant t (fun y => { y with models := y.models.del m })).tenants ∧ v.host = u.host ∧
        v.hostMem = s.hostMem ∧ v.hbm = s.hbm ∧ (∀ k, k ≠ t → v.dev k = s.dev k) ∧
        (∀ p ∈ (s.dev t).streams, (p.2.state = 2#2 ∨ p.2.state = 3#2) → p.2.model.toNat = m → p.1 ∉ (s.dev t).released →
          ∀ x, (v.dev t).streams.find p.1 = some x → x.freed = true) ∧
        ((s.dev t).lowered = [] → (∀ p ∈ (s.dev t).streams, p.2.model.toNat = m → p.2.state = 0#2 ∨ p.2.freed = true) →
          (v.dev t).vault = (s.dev t).vault ∧ ∀ i, v.coreOf t i = s.coreOf t i)))) ∧
    (c.op = 5#8 → mine (fun _ => ∃ x : Attest, x.cmd = c ∧ x.report.length = 256 ∧
      (x.report.drop 112).take 32 = s.hostMem.readBytes (c.arg 0) 32 ∧
      exec .attest s = .next { u with host := { u.host with attests := s.host.attests ++ [x] } })) ∧
    (c.op = 14#8 → let q := s.host.queues.get c.queue {}
      ∃ t, exec .warm s = .next t ∧ t.started = false ∧ t.tenants = [] ∧ t.launches = [] ∧ t.keys = [] ∧
        t.hbm = s.hbm ∧ t.lostFrames = s.lostFrames ∧ t.lostList = s.lostList ∧ t.hostMem = s.hostMem ∧
        t.host.warming = some (c, q.owner, q.vec.toNat))) ∧
  (∀ (c : HostCmd) (status : Nat) (v : State),
    let q := v.host.queues.get c.queue {}
    answer c status v = { v with
      hostMem := v.hostMem.writeBytes (c.crec.toNat / 32 * 32)
        (natLe 8 status ++ natLe 8 v.phase.toNat ++ natLe 8 0 ++ natLe 8 0)
      host := { v.host with msix := (q.owner, q.vec.toNat) :: v.host.msix } }) ∧
  (∀ (s : State) (x : Attest) (rest : List Attest), s.host.attests = x :: rest → ∃ t sig,
    exec .attestationReportDone s = .next t ∧ sig.length = 7856 ∧ slhVerify identityKey.public x.report sig = true ∧
    t.host.attests = rest ∧
    t.hostMem = (s.hostMem.writeBytes (x.cmd.arg 1) (x.report ++ sig)).writeBytes (x.cmd.crec.toNat / 32 * 32)
      (natLe 8 0 ++ natLe 8 s.phase.toNat ++ natLe 8 0 ++ natLe 8 8112))

/-- Pre-emption, restore, debug hold, release and DEBUG (R345 to R347, R350, R354, R357, R365, R381). PREEMPT and HOLD are taken
as they are fetched. A pre-empted tenant stands as committed, out of the phase machine, its committed state to be saved; a
restored one has it back and runs in the first phase of its kind, both with the captures of a debug hold; a save area in the
reserved region or in use is refused; DEBUG reads and writes only a tenant in hold, a write becoming current at a commit,
which completes its command.
The model's choices here: when HOLD completes (log entry 25), DEBUG's statuses (log entry 26), what RESTORE and PREEMPT answer
and the counts that a launch keeps (log entry 37), the end of a halt (log entry 39), a write of registers that the commit
clears (log entry 158). -/
def Obligations.TenantCommands : Prop :=
  ∀ (s : State) (c : HostCmd) (t : Nat),
    (∀ e op, (e, op) ∈ ([(.preempt, 1#8), (.hold, 3#8)] : List (Instr × BitVec 8)) →
      s.host.cmds.find? (fun x => x.op == op) = some c → cmdTenant s c = some t → (s.tenants.find t).isSome →
      let u := { s with host := { s.host with cmds := s.host.cmds.erase c } }
      (op = 1#8 →
        let away := ((s.saves.find t).isSome = true ∧ hasLaunch s t = false) ∨ (s.tenant t).phase = .away
        (away → exec e s = .next (answer c 0 u)) ∧
        let refused := areaRefused u (c.arg 0) (imageSize u t (c.arg 1 % 2))
        (¬away → refused = true → exec e s = .next (answer c 2 u)) ∧
        (¬away → refused = false → ∃ w v, exec e s = .next w ∧ (w.tenant t).phase = .away ∧ w.saves.find t = some v ∧
          v.dev = w.old t ∧ v.cmd = some c ∧ v.area = c.arg 0 ∧ v.level = c.arg 1 % 2 ∧ v.complete = false ∧
          v.captures = (s.tenant t).captures ∧ (w.tenant t).captures = [] ∧ (w.old t).vault = (s.old t).vault ∧
          (w.old t).ctl = (s.old t).ctl ∧ (w.old t).streams = (s.old t).streams ∧
          (isHeld s t = false → w.dev t = w.old t))) ∧
      (op = 3#8 →
        let n := c.arg 0 % 4096
        let bad := (∀ l, s.launches.find n = some l → l.live = false ∨ l.tid ≠ t) ∨ (s.tenant t).phase = .away
        (bad → exec e s = .next (answer c 2 u)) ∧
        (∀ l, ¬bad → s.launches.find n = some l → ∃ w, exec e s = .next w ∧ (w.tenant t).draining = true ∧
          w.launches.find n = some { l with debugger := true } ∧ w.cur = s.cur ∧ w.com = s.com ∧
          (w.tenant t).phase = (s.tenant t).phase ∧
          (isHeld s t = false → n ∈ (w.tenant t).stopping ∧ (w.tenant t).holdCmds = (s.tenant t).holdCmds ++ [c]) ∧
          (isHeld s t = true → (w.tenant t).holdCmds = [])))) ∧
    (∀ rest, s.opening = true → s.host.due = c :: rest → cmdTenant s c = some t → (s.tenants.find t).isSome →
      let u := { s with host := { s.host with due := rest } }
      let tn := s.tenant t
      (c.op = 2#8 →
        let stands (v : Saved) : Prop := v.tid = t ∧ s.hbmBytes (s.material tn.tableKey) (c.arg 0) v.image.length = v.image
        ((∀ v ∈ s.images, ¬stands v) → exec .restore s = .next (answer c 3 u)) ∧
        (∀ before v after, s.images = before ++ v :: after → (∀ x ∈ before, ¬stands x) → stands v →
          (mayRestore u v = false → exec .restore s = .next (answer c 2 u)) ∧
          (mayRestore u v = true →
            let cs := v.dev.cores.map (fun k => (k.1, { k.2 with slots := k.2.slots.map (fun x => (x.1, { x.2 with banks := [] })) }))
            ∃ w, exec .restore s = .next w ∧ w.saves = s.saves.del t ∧ w.images = s.images ∧
            (w.tenant t).phase = .sitout v.exchange ∧
            (w.tenant t).captures = v.captures ∧ (w.tenant t).committed = v.phase ∧ (w.dev t).digest = v.dev.digest ∧
            (w.old t).digest = v.dev.digest ∧ (w.dev t).cores = cs ∧ (w.old t).cores = cs ∧
            (w.dev t).vault = (if v.level = 0 then (s.dev t).vault else v.dev.vault) ∧
            (w.old t).vault = (if v.level = 0 then (s.old t).vault else v.dev.vault) ∧ (w.dev t).ctl = v.dev.ctl ∧
            ((v.launches.map (·.1)).Nodup → ∀ q ∈ v.launches,
              (s.launches.find q.1 = none → w.launches.find q.1 = some { q.2 with live := true }) ∧
              ∀ l, s.launches.find q.1 = some l → w.launches.find q.1 = some (if l.tid = q.2.tid ∧ l.frec = q.2.frec then
                { q.2 with live := true, written := l.written, dropped := l.dropped, failed := l.failed }
                else { q.2 with live := true }))))) ∧
      (c.op = 4#8 →
        let held := tn.draining = true ∨ ∃ r, tn.replica = some r ∧ r.halted = true
        (held → exec .release s = .next (answer c 0 (u.modTenant t (fun x => { x with release := true })))) ∧
        (¬held → exec .release s = .next (answer c 2 u))) ∧
      (c.op = 8#8 →
        let w := c.args.getD 1 0#64
        let len := c.arg 2 / 2 ^ 32 % 2 ^ 16
        let bs := s.hostMem.readBytes (c.arg 0) len
        (isHeld u t = false → exec .debug s = .next (answer c 2 u)) ∧
        (isHeld u t = true →
          (targetOk w len = false → exec .debug s = .next (answer c 3 u)) ∧
          (targetOk w len = true → targetOwned u t (targetOf w) = false → exec .debug s = .next (answer c 2 u)) ∧
          (targetOk w len = true → targetOwned u t (targetOf w) = true →
            (c.arg 2 % 2 = 0 → exec .debug s = .next (answer c 0
              { u with hostMem := s.hostMem.writeBytes (c.arg 0) (debugRead u t w len) })) ∧
            (c.arg 2 % 2 = 1 → debugRefused u (targetOf w) bs = true → exec .debug s = .next (answer c 2 u)) ∧
            (c.arg 2 % 2 = 1 → debugRefused u (targetOf w) bs = false → exec .debug s = .next
              (u.modTenant t (fun x => { x with debugWrites := x.debugWrites ++ [(c, bs)] }))))))) ∧
    (∀ bs, (s.tenant t).debugWrites = [(c, bs)] → applyDebug t s =
      answer c 0 (debugWrite t (c.args.getD 1 0#64) bs (s.modTenant t (fun x => { x with debugWrites := [] }))))

/-- The host's registers and window (R374 to R376, R382, R388). Only its owner moves a queue's tail; a fetch takes the entry at
HEAD while EN is set and HEAD differs from TAIL, and what may not be issued completes as malformed; a block of another owner
reads as zero but for OWNER; a window reads committed
bytes, or nothing where a page is unmapped; a write to a tenant that takes part in the phase waits for its commit, one to
another is applied at once, one to an unmapped page is dropped and counted; a write across lines of 64 bytes goes line by line,
what of it is unmapped being dropped and counted once. (The offsets of WINBASE, WINTENANT, WINERR and EVENTS
are the model's, log entry 12.)
The model's choices here: the PF may write OWNER of any block (log entry 14); low bits of CREC are ignored (log entry 13); a
window write across lines of 64 bytes (log entry 47) and to a shared page (log entry 166). -/
def Obligations.HostRegisters : Prop :=
  ∀ (s : State) (fn q : Nat), s.started = true → s.powered = true →
    let x := s.host.queues.get q {}
    let sets (y : LQueue) : State := { s with host := { s.host with queues := s.host.queues.set q y } }
    let host (h : HostPort) : State := { s with host := h }
    (∀ tail, exec (.qtailDoorbell fn q tail) s = .next (if q < 64 ∧ x.owner = fn then sets { x with tail := tail } else s)) ∧
    (s.host.queues.find q = some x →
      (x.en = false ∨ x.head = x.tail → exec (.queueEntryFetch q) s = .next s) ∧
      (x.en = true → x.head ≠ x.tail →
        let ws := wordsOf (s.hostMem.readBytes (x.base.toNat * 4096 + x.head.toNat % 2 ^ x.logn * 64) 64)
        let w := ws.getD 0 0#64
        let c : HostCmd := { op := w.extractLsb' 0 8, fn := x.owner, queue := q, tid := (w.extractLsb' 8 6).toNat
                             crec := ws.getD 1 0#64, args := ws.drop 2 }
        let u := sets { x with head := x.head + 1#16 }
        let bad := 15 ≤ c.op.toNat ∨ (x.owner ≠ 0 ∧ 9 ≤ c.op.toNat)
        (bad → exec (.queueEntryFetch q) s = .next (answer c 3 u)) ∧
        (¬bad → exec (.queueEntryFetch q) s = .next { u with host := { u.host with cmds := s.host.cmds ++ [c] } }))) ∧
    (∀ v : BitVec 64, q < 64 →
      let logn := (v.extractLsb' 0 4).toNat
      let owner := if fn = 0 then (v.extractLsb' 16 7).toNat else x.owner
      exec (.bar0RegisterWrite fn (BitVec.ofNat 24 (0x1000 + 64 * q)) v) s =
        .next (if x.owner = fn then sets { x with base := v.extractLsb' 12 52 } else s) ∧
      exec (.bar0RegisterWrite fn (BitVec.ofNat 24 (0x1008 + 64 * q)) v) s =
        .next (if x.owner = fn then sets { x with logn := if logn < 4 ∨ 12 < logn then 4 else logn, en := v.getLsbD 8
                                                  owner := owner, vec := v.extractLsb' 32 11 }
          else if fn = 0 then sets { x with owner := owner } else s) ∧
      exec (.bar0RegisterWrite fn 0x100 v) s =
        .next (host { s.host with winBase := s.host.winBase.set fn (v.extractLsb' 32 16) }) ∧
      exec (.bar0RegisterWrite fn 0x108 v) s =
        .next (if fn = 0 then host { s.host with winTenant := v.extractLsb' 0 6 } else s) ∧
      exec (.bar0RegisterWrite fn 0x110 v) s = .next (host { s.host with
        winErr := s.host.winErr.set fn (s.host.winErr.get fn 0#32 &&& ~~~(v.extractLsb' 0 32)) }) ∧
      exec (.bar0RegisterWrite fn 0x118 v) s =
        .next (if fn = 0 then host { s.host with events := s.host.events &&& ~~~(v.extractLsb' 0 4) } else s)) ∧
    (q < 64 →
      let reads (off : Nat) : Option Word := bar0Read s fn (BitVec.ofNat 24 (0x1000 + 64 * q + off))
      (x.owner = fn → reads 0 = some (BitVec.ofNat 64 (x.base.toNat * 4096)) ∧ reads 16 = some (x.tail.setWidth 64) ∧
        reads 24 = some (x.head.setWidth 64) ∧
        ∀ v, reads 8 = some v → (v.extractLsb' 0 4).toNat = x.logn % 16 ∨ 16 ≤ x.logn) ∧
      (x.owner ≠ fn → reads 0 = some 0#64 ∧ reads 16 = some 0#64 ∧ reads 24 = some 0#64 ∧
        reads 8 = some (BitVec.ofNat 64 (x.owner % 128 * 2 ^ 16)))) ∧
    (∀ (off : BitVec 32) (data : List Byte) (len : Nat),
      let target := if fn = 0 then some s.host.winTenant.toNat else s.host.vf.find fn
      let va := (s.host.winBase.get fn 0#16).toNat * 2 ^ 32 + off.toNat
      let dropped := host { s.host with winErr := s.host.winErr.set fn (if s.host.winErr.get fn 0#32 = BitVec.allOnes 32 then
        BitVec.allOnes 32 else s.host.winErr.get fn 0#32 + 1#32) }
      exec (.windowRead fn off len) s = .next (host { s.host with
        readData := match target with
          | none => none
          | some t => s.hbmRead t va len }) ∧
      (target = none → exec (.windowWrite fn off data) s = .next dropped) ∧
      (∀ t, target = some t → data ≠ [] → va % 64 + data.length ≤ 64 →
        let full := 2 ^ 24 ≤ buffered s fn ∨ (participates s t = true ∧ 2 ^ 24 < buffered s fn + data.length)
        (full → exec (.windowWrite fn off data) s = .next s) ∧
        (¬full →
          (s.hbmRead t va data.length = none → exec (.windowWrite fn off data) s = .next dropped) ∧
          (∀ bs, s.hbmRead t va data.length = some bs →
            (participates s t = true → exec (.windowWrite fn off data) s = .next (host { s.host with
              winBuf := s.host.winBuf ++ [{ fn := fn, tid := t, va := va, data := data }] })) ∧
            (participates s t = false → exec (.windowWrite fn off data) s = .next (s.hbmWrite t va data))))) ∧
      (∀ t, target = some t →
        ¬(2 ^ 24 ≤ buffered s fn ∨ (participates s t = true ∧ 2 ^ 24 < buffered s fn + data.length)) →
        let lo (i : Nat) := if i = 0 then 0 else i * 64 - va % 64
        let hi (i : Nat) := min data.length ((i + 1) * 64 - va % 64)
        let piece (i : Nat) : List Byte := (data.drop (lo i)).take (hi i - lo i)
        let mapped (i : Nat) : Bool := (s.hbmRead t (va + lo i) (hi i - lo i)).isSome
        let lines := List.range (if data.length = 0 then 0 else (data.length + va % 64 + 63) / 64)
        let good := lines.filter mapped
        let u := if lines.all mapped then s else dropped
        (participates s t = true → exec (.windowWrite fn off data) s = .next { u with host := { u.host with
          winBuf := s.host.winBuf ++ good.map (fun i => { fn := fn, tid := t, va := va + lo i, data := piece i }) } }) ∧
        (participates s t = false → exec (.windowWrite fn off data) s =
          .next (good.foldl (fun v i => v.hbmWrite t (va + lo i) (piece i)) u))))

/-! ### The device's own agents -/

/-- Refresh, ceilings, temperature and wear (R29, R30, R157, R158, R367, R390): a bank's refresh is postponed at most eight times
before the whole group is refreshed; a die's ceiling stays within 12 to 16 and is 16 while the current is at most 6,000 A; THETA
falls above 95 degrees to no less than 4 and rises below 92; ten intervals at 105 degrees hold every tenant; 115 degrees
remove power.
The patrol, the ports and start-up (R314, R359 to R362, R383, R385 to R388): a corrected error is counted; one in
uncommitted data voids its tenant's phase; one in a committed frame or page revokes it and touches no current state; one in
the shadow bank ends the tenant's launches; one in a descriptor, task entry or sequence clears it. A port goes down after 64
failed replays in a row, its link transfers stopped and its migrations failed, and comes up with its bindings. A start leaves
nothing of the old state but HBM, host memory and the Keep's list, and completes the WARM that asked for it; where a step
fails (the third at a cold start only), or an image's signature does not verify, the device does not start and says which.
The model's choices here: log entries 13 (alignment of CREC), 38 (an error in the shadow bank voids the phase first and leaves
the tenant in RUN without a launch), 42 (lost pages, what a start measures), 43 (PORT_DOWN), 44 (what a trip leaves), 45
(WARM), 126 (a refresh in a busy group), 166 (a window write to a shared page). -/
def Obligations.DeviceAgents : Prop :=
  (∀ (s : State) (stack group bank : Nat) (queued postpone : Bool),
    let key := stack * 65536 + group
    let g := s.banks.get key {}
    let n := g.postponed.get bank 0
    let sets (x : BankGroup) : Out := .next { s with banks := s.banks.set key x }
    let busy := g.busyBank ≠ none ∨ g.forced = true
    let due := exec (.refreshDue stack group bank queued postpone) s
    (8 ≤ n → due = sets { g with postponed := [], forced := true }) ∧
    (n < 8 → ((queued = true ∧ postpone = true) ∨ busy) → due = sets { g with postponed := g.postponed.set bank (n + 1) }) ∧
    (n < 8 → ¬(queued = true ∧ postpone = true) → ¬busy → due = sets { g with busyBank := some bank }) ∧
    (0 < n → ¬busy → exec (.postponedRefreshIssue stack group bank) s =
      sets { g with postponed := g.postponed.set bank (n - 1), busyBank := some bank }) ∧
    (g.forced = true → exec (.refreshComplete stack group bank) s = sets { g with forced := false, busyBank := none }) ∧
    (g.forced = false → g.busyBank = some bank → exec (.refreshComplete stack group bank) s = sets { g with busyBank := none }) ∧
    (∀ c0 c1 c2 c3 amps, ∃ t, exec (.arbiterInterval amps c0 c1 c2 c3) s = .next t ∧ { t with dies := s.dies } = s ∧
      ∀ d c, (d, c) ∈ [(0, c0), (1, c1), (2, c2), (3, c3)] → t.dies.get d {} = { (s.dies.get d {} : Die) with
        arbiter := if amps ≤ 6000 then 16 else if c < 12 then 12 else if 16 < c then 16 else c }) ∧
    (∀ t0 t1 t2 t3, ∃ t, exec (.thermalInterval t0 t1 t2 t3) s = .next t ∧ { t with dies := s.dies } = s ∧
      ∀ d c, (d, c) ∈ [(0, t0), (1, t1), (2, t2), (3, t3)] →
        let x : Die := s.dies.get d {}
        t.dies.get d {} = { x with
          temp := c
          theta := if 95 < c then (if x.theta - 1 < 4 then 4 else x.theta - 1)
            else if c < 92 then (if 16 < x.theta + 1 then 16 else x.theta + 1) else x.theta
          hot := if 105 ≤ c then x.hot + 1 else 0 }) ∧
    (∀ die,
      let x : Die := s.dies.get die {}
      (x.hot < 10 → exec (.thermalHold die) s = .next s) ∧
      (10 ≤ x.hot → (∃ p ∈ s.tenants, p.2.thermal = false) → ∃ t, exec (.thermalHold die) s = .next t ∧
        (∀ p ∈ t.tenants, p.2.thermal = true) ∧ t.host.events = s.host.events ||| 2#4 ∧ t.cur = s.cur) ∧
      (x.temp < 115 → exec (.thermalTrip die) s = .next s) ∧
      (115 ≤ x.temp → ∃ t, exec (.thermalTrip die) s = .next t ∧ t.powered = false ∧ t.started = false ∧ t.tenants = [] ∧
        t.cur = [] ∧ t.com = [] ∧ t.keys = [] ∧ t.hbm = s.hbm ∧ t.lostList = s.lostList)) ∧
    (∀ m0 m1 m2 m3, ∃ t, exec (.wearSample m0 m1 m2 m3) s = .next t ∧
      (∀ d m, (d, m) ∈ [(0, m0), (1, m1), (2, m2), (3, m3)] →
        t.dies.get d {} = { (s.dies.get d {} : Die) with wear := if 65535 < m then 65535 else m }) ∧
      (m0 < 6 ∨ m1 < 6 ∨ m2 < 6 ∨ m3 < 6 → s.host.wearLow = false → t.host.wearLow = true ∧
        t.host.events = s.host.events ||| 1#4) ∧
      (6 ≤ m0 → 6 ≤ m1 → 6 ≤ m2 → 6 ≤ m3 → t.host = s.host))) ∧
  (∀ s : State,
    let up (x : BitVec 32) : BitVec 32 := if x = 0xFFFFFFFF#32 then x else x + 1#32
    let scrub (f : ScrubFinding) (t : State) : Prop := exec (.patrolScrub f) s = .next t
    (∀ i, scrub (.corrected false i)
        { s with host := { s.host with cupolaErrs := s.host.cupolaErrs.set i (up (s.host.cupolaErrs.get i 0#32)) } } ∧
      scrub (.corrected true i) { s with host := { s.host with hbmErrs := s.host.hbmErrs.set i (up (s.host.hbmErrs.get i 0#32)) } }) ∧
    (∀ t addr, ∃ u, scrub (.uncommitted t addr) u ∧ u.cur = s.cur ∧ u.com = s.com ∧
      ((s.tenant t).phase = .run → (u.tenant t).phase = .voiding false)) ∧
    (∀ t, ∃ u, scrub (.shadowBank t) u ∧ (u.tenant t).phase = .run ∧ (u.dev t).vault = (s.old t).vault ∧
      (u.old t).vault = (s.old t).vault ∧ (u.dev t).ctl = (s.old t).ctl) ∧
    (∀ c f, let owned := ∃ d ∈ s.com, ((d.2.core c).frame f).getLsbD 8 = true
      (∃ u, scrub (.vaultFrame c f) u ∧ (c, f) ∈ u.lostFrames ∧ u.cur = s.cur ∧ u.com = s.com) ∧
      (owned → ∃ u, scrub (.frameMapEntry c f) u ∧ (c, f) ∈ u.lostFrames ∧ u.cur = s.cur ∧ u.com = s.com) ∧
      (¬owned → ∃ u, scrub (.frameMapEntry c f) u ∧ u.lostFrames = s.lostFrames ∧ { u with cur := s.cur, com := s.com } = s ∧
        ∀ t, (u.coreOf t c).frame f = 0#64 ∧ ∀ g, g ≠ f → (u.coreOf t c).frame g = (s.coreOf t c).frame g)) ∧
    (∀ p, ∃ u, scrub (.hbmPage p) u ∧ p ∈ u.lostPages ∧ u.cur = s.cur ∧ u.com = s.com) ∧
    (∀ t d before after, s.com = before ++ (t, d) :: after → s.com.find t = some d →
      (∀ sid, (d.streams.find sid).isSome → (∀ q ∈ before, q.2.streams.find sid = none) → ∃ u, scrub (.descriptor sid) u ∧
        (u.dev t).streams.find sid = none ∧ (u.old t).streams.find sid = none) ∧
      (∀ i, (d.tasks.find i).isSome → (∀ q ∈ before, q.2.tasks.find i = none) → ∃ u, scrub (.taskEntry i) u ∧
        (u.dev t).tasks.find i = none ∧ (u.old t).tasks.find i = none) ∧
      (∀ i, (d.seqs.find i).isSome → (∀ q ∈ before, q.2.seqs.find i = none) → ∃ u, scrub (.sequence i) u ∧
        (u.dev t).seqs.find i = none ∧ (u.old t).seqs.find i = none)) ∧
    (∀ port,
      let y : Port := s.ports.get port {}
      (port < 12 → y.up = true → exec (.flitCrcReplay port) s =
        .next { s with ports := s.ports.set port { y with fails := y.fails + 1 } }) ∧
      (y.up = false ∨ y.fails < 64 → exec (.portDown port) s = .next s) ∧
      (y.up = true → 64 ≤ y.fails → ∃ t, exec (.portDown port) s = .next t ∧
        t.ports.get port {} = { y with up := false, fails := 0, waiting := [] } ∧
        (∀ k, (t.dev k).moves = (s.dev k).moves.map (fun m => if m.port = port then { m with failed := true } else m)) ∧
        ∀ k c, (t.coreOf k c).links = (s.coreOf k c).links.map (fun l =>
          if (l.link.extractLsb' 0 4).toNat = port then { l with stopped := true } else l)) ∧
      (y.up = false → ∃ t, exec (.portUp port) s = .next t ∧ t.ports.get port {} = { y with up := true } ∧
        t.host.events = s.host.events ||| 8#4)) ∧
    (∀ (e : Instr) (env : StartEnv), (e = .coldStart env ∨ (e = .warmStart env ∧ s.powered = true ∧ s.host.startCode = 0#8)) →
      let own := if 1 ≤ env.failStep ∧ env.failStep ≤ 6 ∧ (e = .coldStart env ∨ env.failStep ≠ 3) then env.failStep else 0
      let verified := ∀ x ∈ env.images, slhVerify imageKey x.image x.sig = true
      ∃ t, exec e s = .next t ∧ t.cycle = 0#64 ∧ t.phase = 0#64 ∧ t.tenants = [] ∧ t.launches = [] ∧ t.cur = [] ∧
        t.com = [] ∧ t.hbm = s.hbm ∧ t.host.queues = [] ∧ t.ports = [] ∧ t.host.warming = none ∧
        (e = .coldStart env ∨ s.host.warming = none → t.hostMem = s.hostMem) ∧
        (∀ c fn vec, e ≠ .coldStart env → s.host.warming = some (c, fn, vec) → t.host.msix = [(fn, vec)] ∧
          t.hostMem = s.hostMem.writeBytes (c.crec.toNat / 32 * 32)
            (natLe 8 (if t.started then 0 else 3) ++ natLe 8 0 ++ natLe 8 0 ++ natLe 8 0)) ∧
        (own = 0 → verified → t.started = true ∧ t.host.startStep = 6#8 ∧ t.host.startCode = 0#8 ∧
          t.fwChain = env.images.foldl (fun m x => ofBytes256 (sha256 (bytes256 m ++ sha256 x.image))) 0#256 ∧
          t.lostPages = t.lostList ∧ (∃ x, t.keys = [(0, { owner := none, material := x })]) ∧
          (e = .coldStart env → t.lostFrames = [] ∧ t.lostList = s.lostList.filter (fun p => !env.lostPassed.contains p)) ∧
          (e ≠ .coldStart env → t.lostFrames = s.lostFrames ∧ t.lostList = s.lostList)) ∧
        (¬(own = 0 ∧ verified) → t.started = false ∧ t.host.startCode ≠ 0#8 ∧
          (own ≠ 1 ∧ ¬verified → t.host.startStep = 2#8) ∧ (own = 1 ∨ verified → t.host.startStep = BitVec.ofNat 8 own))))
end

