-- ==== Sys2Proof/Laws/Data.lean ====
section
/-! SUPPORT. Tables by key and canonical memory: reading after writing, and what keeps the canonical form. -/

namespace Sys2Proof.Machine

/-! ### Tables -/

@[simp] theorem TMap.get_set_self {α : Type} (m : TMap α) (k : Nat) (v d : α) : (m.set k v).get k d = v := by
  induction m with
  | nil => simp [TMap.set, TMap.get]
  | cons p t ih =>
    obtain ⟨k', v'⟩ := p
    by_cases h : k < k'
    · simp [TMap.set, TMap.get, h]
    · by_cases h2 : k = k'
      · simp [TMap.set, TMap.get, h2]
      · simp [TMap.set, TMap.get, h, h2, ih]

theorem TMap.get_set_ne {α : Type} (m : TMap α) {k j : Nat} (v d : α) (h : j ≠ k) :
    (m.set k v).get j d = m.get j d := by
  induction m with
  | nil => simp [TMap.set, TMap.get, h]
  | cons p t ih =>
    obtain ⟨k', v'⟩ := p
    by_cases h1 : k < k'
    · simp [TMap.set, TMap.get, h1, h]
    · by_cases h2 : k = k'
      · subst h2
        simp [TMap.set, TMap.get, h]
      · simp [TMap.set, TMap.get, h1, h2, ih]

theorem TMap.get_set {α : Type} (m : TMap α) (k j : Nat) (v d : α) :
    (m.set k v).get j d = if j = k then v else m.get j d := by
  by_cases h : j = k
  · simp [h]
  · simp [h, TMap.get_set_ne m v d h]

@[simp] theorem TMap.set_set {α : Type} (m : TMap α) (k : Nat) (a b : α) : (m.set k a).set k b = m.set k b := by
  induction m with
  | nil => simp [TMap.set]
  | cons p t ih =>
    obtain ⟨k', v'⟩ := p
    by_cases h : k < k'
    · simp [TMap.set, h]
    · by_cases h2 : k = k'
      · simp [TMap.set, h2]
      · simp [TMap.set, h, h2, ih]

@[simp] theorem TMap.find_set_self {α : Type} (m : TMap α) (k : Nat) (v : α) : (m.set k v).find k = some v := by
  induction m with
  | nil => simp [TMap.set, TMap.find]
  | cons p t ih =>
    obtain ⟨k', v'⟩ := p
    by_cases h : k < k'
    · simp [TMap.set, TMap.find, h]
    · by_cases h2 : k = k'
      · simp [TMap.set, TMap.find, h2]
      · simp [TMap.set, TMap.find, h, h2, ih]

theorem TMap.find_set_ne {α : Type} (m : TMap α) {k j : Nat} (v : α) (h : j ≠ k) : (m.set k v).find j = m.find j := by
  induction m with
  | nil => simp [TMap.set, TMap.find, h]
  | cons p t ih =>
    obtain ⟨k', v'⟩ := p
    by_cases h1 : k < k'
    · simp [TMap.set, TMap.find, h1, h]
    · by_cases h2 : k = k'
      · subst h2
        simp [TMap.set, TMap.find, h]
      · simp [TMap.set, TMap.find, h1, h2, ih]

/-- A property of all values of a table is kept by a write of a value that has it. -/
theorem TMap.all_set {α : Type} (p : α → Bool) (m : TMap α) (k : Nat) (v : α) (hm : m.all (fun e => p e.2) = true)
    (hv : p v = true) : (m.set k v).all (fun e => p e.2) = true := by
  induction m with
  | nil => simp [TMap.set, hv]
  | cons q t ih =>
    obtain ⟨k', v'⟩ := q
    simp only [List.all_cons, Bool.and_eq_true] at hm
    by_cases h : k < k'
    · simp [TMap.set, h, hv, hm.1]; simpa using hm.2
    · by_cases h2 : k = k'
      · simp [TMap.set, h2, hv]; simpa using hm.2
      · simp [TMap.set, h, h2, hm.1]; simpa using ih hm.2

/-- The value under a key has what all values of the table and the default have. -/
theorem TMap.get_all {α : Type} (p : α → Bool) (m : TMap α) (k : Nat) (d : α) (hm : m.all (fun e => p e.2) = true)
    (hd : p d = true) : p (m.get k d) = true := by
  induction m with
  | nil => simpa [TMap.get] using hd
  | cons q t ih =>
    obtain ⟨k', v'⟩ := q
    simp only [List.all_cons, Bool.and_eq_true] at hm
    by_cases h : k = k'
    · simpa [TMap.get, h] using hm.1
    · simpa [TMap.get, h] using ih hm.2

/-- A table without a key keeps a property of all its values. -/
theorem TMap.all_del {α : Type} (p : α → Bool) (m : TMap α) (k : Nat) (hm : m.all (fun e => p e.2) = true) :
    (m.del k).all (fun e => p e.2) = true := by
  simp only [TMap.del, List.all_eq_true, List.mem_filter] at *
  exact fun x hx => hm x hx.1

/-! ### Memory: reading after writing -/

/-- A write leaves every other address alone. -/
theorem Memory.read_write_ne (m : Memory) {a x : Nat} (b : Byte) (h : x ≠ a) : (m.write a b).read x = m.read x := by
  induction m with
  | nil => by_cases hb : b = Memory.empty <;> simp [Memory.write, Memory.read, hb, h]
  | cons c t ih =>
    obtain ⟨a', b'⟩ := c
    simp only [Memory.write]
    by_cases h1 : a < a'
    · by_cases hb : b = Memory.empty <;> simp [h1, hb, Memory.read, h]
    · by_cases h2 : a = a'
      · subst h2
        by_cases hb : b = Memory.empty <;> simp [hb, Memory.read, h]
      · simp [h1, h2, Memory.read, ih]

/-- Below the first address that a canonical list may hold, everything reads as unlisted. -/
theorem Memory.read_below (m : Memory) {lo a : Nat} (hw : m.wfFrom lo = true) (h : a < lo) :
    m.read a = Memory.empty := by
  induction m generalizing lo with
  | nil => rfl
  | cons c t ih =>
    obtain ⟨a', b'⟩ := c
    simp only [Memory.wfFrom, Bool.and_eq_true, decide_eq_true_eq] at hw
    have hne : a ≠ a' := by omega
    simp [Memory.read, hne]
    exact ih hw.2 (by omega)

theorem Memory.read_write_self' (m : Memory) {lo a : Nat} (b : Byte) (hw : m.wfFrom lo = true) :
    (m.write a b).read a = b := by
  induction m generalizing lo with
  | nil => by_cases hb : b = Memory.empty <;> simp [Memory.write, Memory.read, hb]
  | cons c t ih =>
    obtain ⟨a', b'⟩ := c
    simp only [Memory.wfFrom, Bool.and_eq_true, decide_eq_true_eq] at hw
    simp only [Memory.write]
    by_cases h1 : a < a'
    · by_cases hb : b = Memory.empty
      · have hne : a ≠ a' := by omega
        simp [h1, hb, Memory.read, hne]
        exact Memory.read_below t hw.2 (by omega)
      · simp [h1, hb, Memory.read]
    · by_cases h2 : a = a'
      · subst h2
        by_cases hb : b = Memory.empty
        · simp [hb]
          exact Memory.read_below t hw.2 (by omega)
        · simp [hb, Memory.read]
      · simp [h1, h2, Memory.read]
        exact ih hw.2

/-- In a canonical memory a write is read back. -/
theorem Memory.read_write_self (m : Memory) (a : Nat) (b : Byte) (hw : m.wf = true) : (m.write a b).read a = b :=
  Memory.read_write_self' m b hw

/-! ### Memory: the canonical form is kept -/

theorem Memory.wfFrom_mono (m : Memory) {lo lo' : Nat} (h : lo' ≤ lo) (hw : m.wfFrom lo = true) :
    m.wfFrom lo' = true := by
  cases m with
  | nil => rfl
  | cons c t =>
    obtain ⟨a', b'⟩ := c
    simp only [Memory.wfFrom, Bool.and_eq_true, decide_eq_true_eq] at hw ⊢
    exact ⟨⟨by omega, hw.1.2⟩, hw.2⟩

theorem Memory.wfFrom_write (m : Memory) {lo a : Nat} (b : Byte) (hl : lo ≤ a) (hw : m.wfFrom lo = true) :
    (m.write a b).wfFrom lo = true := by
  induction m generalizing lo with
  | nil => by_cases hb : b = Memory.empty <;> simp [Memory.write, Memory.wfFrom, hb, hl]
  | cons c t ih =>
    obtain ⟨a', b'⟩ := c
    have hw0 := hw
    simp only [Memory.wfFrom, Bool.and_eq_true, decide_eq_true_eq] at hw
    simp only [Memory.write]
    by_cases h1 : a < a'
    · by_cases hb : b = Memory.empty
      · simpa [h1, hb] using hw0
      · simp only [h1, hb, if_true, if_false, Memory.wfFrom, Bool.and_eq_true, decide_eq_true_eq]
        exact ⟨⟨hl, by simpa using hb⟩, ⟨by omega, hw.1.2⟩, hw.2⟩
    · by_cases h2 : a = a'
      · subst h2
        by_cases hb : b = Memory.empty
        · simp [hb]
          exact Memory.wfFrom_mono t (by omega) hw.2
        · simp only [hb, if_false, lt_irrefl, if_true, Memory.wfFrom, Bool.and_eq_true, decide_eq_true_eq]
          exact ⟨⟨hl, by simpa using hb⟩, hw.2⟩
      · simp only [h1, h2, if_false, Memory.wfFrom, Bool.and_eq_true, decide_eq_true_eq]
        exact ⟨⟨hw.1.1, hw.1.2⟩, ih (by omega) hw.2⟩

theorem Memory.wf_write (m : Memory) (a : Nat) (b : Byte) (hw : m.wf = true) : (m.write a b).wf = true :=
  Memory.wfFrom_write m b (Nat.zero_le a) hw

theorem Memory.wf_writeBytes (m : Memory) (a : Nat) (bs : List Byte) (hw : m.wf = true) :
    (m.writeBytes a bs).wf = true := by
  induction bs generalizing m a with
  | nil => exact hw
  | cons b t ih => exact ih _ _ (Memory.wf_write m a b hw)

theorem Memory.wfFrom_filter (m : Memory) (p : Nat × Byte → Bool) {lo : Nat} (hw : m.wfFrom lo = true) :
    Memory.wfFrom lo (m.filter p) = true := by
  induction m generalizing lo with
  | nil => rfl
  | cons c t ih =>
    obtain ⟨a', b'⟩ := c
    simp only [Memory.wfFrom, Bool.and_eq_true, decide_eq_true_eq] at hw
    by_cases hp : p (a', b') = true
    · simp only [List.filter_cons_of_pos hp, Memory.wfFrom, Bool.and_eq_true, decide_eq_true_eq]
      exact ⟨hw.1, ih hw.2⟩
    · rw [List.filter_cons_of_neg hp]
      exact Memory.wfFrom_mono _ (by omega) (ih hw.2)

theorem Memory.wf_filter (m : Memory) (p : Nat × Byte → Bool) (hw : m.wf = true) : Memory.wf (m.filter p) = true :=
  Memory.wfFrom_filter m p hw

theorem Memory.wf_slice (m : Memory) (lo hi : Nat) (hw : m.wf = true) : (m.slice lo hi).wf = true :=
  Memory.wf_filter m _ hw

theorem Memory.wf_clear (m : Memory) (lo hi : Nat) (hw : m.wf = true) : (m.clear lo hi).wf = true :=
  Memory.wf_filter m _ hw

theorem Memory.wf_foldl_write (l : List (Nat × Byte)) (m : Memory) (hw : m.wf = true) :
    Memory.wf (l.foldl (fun m c => Memory.write m c.1 c.2) m) = true := by
  induction l generalizing m with
  | nil => exact hw
  | cons c t ih => exact ih _ (Memory.wf_write m c.1 c.2 hw)

theorem Memory.wf_copyRange (dst src : Memory) (d s n : Nat) (hw : dst.wf = true) :
    (dst.copyRange src d s n).wf = true :=
  Memory.wf_foldl_write _ _ (Memory.wf_clear dst _ _ hw)

/-! ### Runs of bytes -/

/-- Bytes written from `a` on leave every address outside them alone. -/
theorem Memory.read_writeBytes_out (m : Memory) (a x : Nat) (bs : List Byte) (h : x < a ∨ a + bs.length ≤ x) :
    (m.writeBytes a bs).read x = m.read x := by
  induction bs generalizing m a with
  | nil => rfl
  | cons b t ih =>
    simp only [List.length_cons] at h
    simp only [Memory.writeBytes]
    rw [ih _ _ (by omega), Memory.read_write_ne m b (by omega)]

/-- Bytes written from `a` on are read back, in a canonical memory. -/
theorem Memory.read_writeBytes_in (m : Memory) (a j : Nat) (bs : List Byte) (hw : m.wf = true) (h : j < bs.length) :
    (m.writeBytes a bs).read (a + j) = bs.getD j 0#8 := by
  induction bs generalizing m a j with
  | nil => simp at h
  | cons b t ih =>
    simp only [Memory.writeBytes]
    cases j with
    | zero =>
      simp only [Nat.add_zero, List.getD_cons_zero]
      rw [Memory.read_writeBytes_out _ _ _ _ (by omega), Memory.read_write_self m a b hw]
    | succ j =>
      have := ih (m.write a b) (a + 1) j (Memory.wf_write m a b hw) (by simpa using h)
      rw [show a + (j + 1) = a + 1 + j by omega, this]
      simp

@[simp] theorem Memory.length_readBytes (m : Memory) (a n : Nat) : (m.readBytes a n).length = n := by
  induction n generalizing a with
  | zero => rfl
  | succ n ih => simp [Memory.readBytes, ih]

@[simp] theorem natLe_length (n v : Nat) : (natLe n v).length = n := by
  induction n generalizing v with
  | zero => rfl
  | succ n ih => simp [natLe, ih]

theorem leNat_natLe (n v : Nat) : leNat (natLe n v) = v % 256 ^ n := by
  induction n generalizing v with
  | zero => simp [natLe, leNat, Nat.mod_one]
  | succ n ih =>
    have h : (BitVec.ofNat 8 v).toNat = v % 256 := by simp
    simp only [natLe, leNat, ih, h]
    rw [pow_succ', Nat.mod_mul]

end Sys2Proof.Machine
end

