-- ==== Sys2Proof/Laws/Fields.lean ====
section
/-! SUPPORT. The fields of a word that a layout has laid out (spec/03_encoding.md R55): each `fld` of a `pack` is the field
put there, and a word is the `pack` of its fields. -/

namespace Sys2Proof

@[simp] theorem fld_packAlu_op (op : BitVec 6) (d : BitVec 5) (a : BitVec 5) (b : BitVec 5) (p : BitVec 1) (s : BitVec 1) (r : BitVec 1) (fn : BitVec 8) :
    fld (packAlu op d a b p s r fn) 26 6 = op := by
  unfold fld packAlu
  rw [BitVec.extractLsb'_append_eq_of_le (by decide), BitVec.extractLsb'_append_eq_of_le (by decide), BitVec.extractLsb'_append_eq_of_le (by decide), BitVec.extractLsb'_append_eq_of_le (by decide), BitVec.extractLsb'_append_eq_of_le (by decide), BitVec.extractLsb'_append_eq_of_le (by decide), BitVec.extractLsb'_append_eq_of_le (by decide)]
  exact BitVec.extractLsb'_eq_self

@[simp] theorem fld_packAlu_d (op : BitVec 6) (d : BitVec 5) (a : BitVec 5) (b : BitVec 5) (p : BitVec 1) (s : BitVec 1) (r : BitVec 1) (fn : BitVec 8) :
    fld (packAlu op d a b p s r fn) 21 5 = d := by
  unfold fld packAlu
  rw [BitVec.extractLsb'_append_eq_of_le (by decide), BitVec.extractLsb'_append_eq_of_le (by decide), BitVec.extractLsb'_append_eq_of_le (by decide), BitVec.extractLsb'_append_eq_of_le (by decide), BitVec.extractLsb'_append_eq_of_le (by decide), BitVec.extractLsb'_append_eq_of_le (by decide), BitVec.extractLsb'_append_eq_of_add_le (by decide)]
  exact BitVec.extractLsb'_eq_self

@[simp] theorem fld_packAlu_a (op : BitVec 6) (d : BitVec 5) (a : BitVec 5) (b : BitVec 5) (p : BitVec 1) (s : BitVec 1) (r : BitVec 1) (fn : BitVec 8) :
    fld (packAlu op d a b p s r fn) 16 5 = a := by
  unfold fld packAlu
  rw [BitVec.extractLsb'_append_eq_of_le (by decide), BitVec.extractLsb'_append_eq_of_le (by decide), BitVec.extractLsb'_append_eq_of_le (by decide), BitVec.extractLsb'_append_eq_of_le (by decide), BitVec.extractLsb'_append_eq_of_le (by decide), BitVec.extractLsb'_append_eq_of_add_le (by decide)]
  exact BitVec.extractLsb'_eq_self

@[simp] theorem fld_packAlu_b (op : BitVec 6) (d : BitVec 5) (a : BitVec 5) (b : BitVec 5) (p : BitVec 1) (s : BitVec 1) (r : BitVec 1) (fn : BitVec 8) :
    fld (packAlu op d a b p s r fn) 11 5 = b := by
  unfold fld packAlu
  rw [BitVec.extractLsb'_append_eq_of_le (by decide), BitVec.extractLsb'_append_eq_of_le (by decide), BitVec.extractLsb'_append_eq_of_le (by decide), BitVec.extractLsb'_append_eq_of_le (by decide), BitVec.extractLsb'_append_eq_of_add_le (by decide)]
  exact BitVec.extractLsb'_eq_self

@[simp] theorem fld_packAlu_p (op : BitVec 6) (d : BitVec 5) (a : BitVec 5) (b : BitVec 5) (p : BitVec 1) (s : BitVec 1) (r : BitVec 1) (fn : BitVec 8) :
    fld (packAlu op d a b p s r fn) 10 1 = p := by
  unfold fld packAlu
  rw [BitVec.extractLsb'_append_eq_of_le (by decide), BitVec.extractLsb'_append_eq_of_le (by decide), BitVec.extractLsb'_append_eq_of_le (by decide), BitVec.extractLsb'_append_eq_of_add_le (by decide)]
  exact BitVec.extractLsb'_eq_self

@[simp] theorem fld_packAlu_s (op : BitVec 6) (d : BitVec 5) (a : BitVec 5) (b : BitVec 5) (p : BitVec 1) (s : BitVec 1) (r : BitVec 1) (fn : BitVec 8) :
    fld (packAlu op d a b p s r fn) 9 1 = s := by
  unfold fld packAlu
  rw [BitVec.extractLsb'_append_eq_of_le (by decide), BitVec.extractLsb'_append_eq_of_le (by decide), BitVec.extractLsb'_append_eq_of_add_le (by decide)]
  exact BitVec.extractLsb'_eq_self

@[simp] theorem fld_packAlu_r (op : BitVec 6) (d : BitVec 5) (a : BitVec 5) (b : BitVec 5) (p : BitVec 1) (s : BitVec 1) (r : BitVec 1) (fn : BitVec 8) :
    fld (packAlu op d a b p s r fn) 8 1 = r := by
  unfold fld packAlu
  rw [BitVec.extractLsb'_append_eq_of_le (by decide), BitVec.extractLsb'_append_eq_of_add_le (by decide)]
  exact BitVec.extractLsb'_eq_self

@[simp] theorem fld_packAlu_fn (op : BitVec 6) (d : BitVec 5) (a : BitVec 5) (b : BitVec 5) (p : BitVec 1) (s : BitVec 1) (r : BitVec 1) (fn : BitVec 8) :
    fld (packAlu op d a b p s r fn) 0 8 = fn := by
  unfold fld packAlu
  rw [BitVec.extractLsb'_append_eq_of_add_le (by decide)]
  exact BitVec.extractLsb'_eq_self

theorem packAlu_fld (w : IWord) :
    packAlu (fld w 26 6) (fld w 21 5) (fld w 16 5) (fld w 11 5) (fld w 10 1) (fld w 9 1) (fld w 8 1) (fld w 0 8) = w := by
  unfold packAlu fld
  rw [BitVec.extractLsb'_append_extractLsb'_eq_extractLsb' (by decide), BitVec.extractLsb'_append_extractLsb'_eq_extractLsb' (by decide), BitVec.extractLsb'_append_extractLsb'_eq_extractLsb' (by decide), BitVec.extractLsb'_append_extractLsb'_eq_extractLsb' (by decide), BitVec.extractLsb'_append_extractLsb'_eq_extractLsb' (by decide), BitVec.extractLsb'_append_extractLsb'_eq_extractLsb' (by decide), BitVec.extractLsb'_append_extractLsb'_eq_extractLsb' (by decide)]
  exact BitVec.extractLsb'_eq_self

@[simp] theorem fld_packI_op (op : BitVec 6) (d : BitVec 5) (a : BitVec 5) (i : BitVec 16) :
    fld (packI op d a i) 26 6 = op := by
  unfold fld packI
  rw [BitVec.extractLsb'_append_eq_of_le (by decide), BitVec.extractLsb'_append_eq_of_le (by decide), BitVec.extractLsb'_append_eq_of_le (by decide)]
  exact BitVec.extractLsb'_eq_self

@[simp] theorem fld_packI_d (op : BitVec 6) (d : BitVec 5) (a : BitVec 5) (i : BitVec 16) :
    fld (packI op d a i) 21 5 = d := by
  unfold fld packI
  rw [BitVec.extractLsb'_append_eq_of_le (by decide), BitVec.extractLsb'_append_eq_of_le (by decide), BitVec.extractLsb'_append_eq_of_add_le (by decide)]
  exact BitVec.extractLsb'_eq_self

@[simp] theorem fld_packI_a (op : BitVec 6) (d : BitVec 5) (a : BitVec 5) (i : BitVec 16) :
    fld (packI op d a i) 16 5 = a := by
  unfold fld packI
  rw [BitVec.extractLsb'_append_eq_of_le (by decide), BitVec.extractLsb'_append_eq_of_add_le (by decide)]
  exact BitVec.extractLsb'_eq_self

@[simp] theorem fld_packI_i (op : BitVec 6) (d : BitVec 5) (a : BitVec 5) (i : BitVec 16) :
    fld (packI op d a i) 0 16 = i := by
  unfold fld packI
  rw [BitVec.extractLsb'_append_eq_of_add_le (by decide)]
  exact BitVec.extractLsb'_eq_self

theorem packI_fld (w : IWord) :
    packI (fld w 26 6) (fld w 21 5) (fld w 16 5) (fld w 0 16) = w := by
  unfold packI fld
  rw [BitVec.extractLsb'_append_extractLsb'_eq_extractLsb' (by decide), BitVec.extractLsb'_append_extractLsb'_eq_extractLsb' (by decide), BitVec.extractLsb'_append_extractLsb'_eq_extractLsb' (by decide)]
  exact BitVec.extractLsb'_eq_self

@[simp] theorem fld_packShift_op (op : BitVec 6) (d : BitVec 5) (a : BitVec 5) (z : BitVec 8) (k : BitVec 2) (n : BitVec 6) :
    fld (packShift op d a z k n) 26 6 = op := by
  unfold fld packShift
  rw [BitVec.extractLsb'_append_eq_of_le (by decide), BitVec.extractLsb'_append_eq_of_le (by decide), BitVec.extractLsb'_append_eq_of_le (by decide), BitVec.extractLsb'_append_eq_of_le (by decide), BitVec.extractLsb'_append_eq_of_le (by decide)]
  exact BitVec.extractLsb'_eq_self

@[simp] theorem fld_packShift_d (op : BitVec 6) (d : BitVec 5) (a : BitVec 5) (z : BitVec 8) (k : BitVec 2) (n : BitVec 6) :
    fld (packShift op d a z k n) 21 5 = d := by
  unfold fld packShift
  rw [BitVec.extractLsb'_append_eq_of_le (by decide), BitVec.extractLsb'_append_eq_of_le (by decide), BitVec.extractLsb'_append_eq_of_le (by decide), BitVec.extractLsb'_append_eq_of_le (by decide), BitVec.extractLsb'_append_eq_of_add_le (by decide)]
  exact BitVec.extractLsb'_eq_self

@[simp] theorem fld_packShift_a (op : BitVec 6) (d : BitVec 5) (a : BitVec 5) (z : BitVec 8) (k : BitVec 2) (n : BitVec 6) :
    fld (packShift op d a z k n) 16 5 = a := by
  unfold fld packShift
  rw [BitVec.extractLsb'_append_eq_of_le (by decide), BitVec.extractLsb'_append_eq_of_le (by decide), BitVec.extractLsb'_append_eq_of_le (by decide), BitVec.extractLsb'_append_eq_of_add_le (by decide)]
  exact BitVec.extractLsb'_eq_self

@[simp] theorem fld_packShift_z (op : BitVec 6) (d : BitVec 5) (a : BitVec 5) (z : BitVec 8) (k : BitVec 2) (n : BitVec 6) :
    fld (packShift op d a z k n) 8 8 = z := by
  unfold fld packShift
  rw [BitVec.extractLsb'_append_eq_of_le (by decide), BitVec.extractLsb'_append_eq_of_le (by decide), BitVec.extractLsb'_append_eq_of_add_le (by decide)]
  exact BitVec.extractLsb'_eq_self

@[simp] theorem fld_packShift_k (op : BitVec 6) (d : BitVec 5) (a : BitVec 5) (z : BitVec 8) (k : BitVec 2) (n : BitVec 6) :
    fld (packShift op d a z k n) 6 2 = k := by
  unfold fld packShift
  rw [BitVec.extractLsb'_append_eq_of_le (by decide), BitVec.extractLsb'_append_eq_of_add_le (by decide)]
  exact BitVec.extractLsb'_eq_self

@[simp] theorem fld_packShift_n (op : BitVec 6) (d : BitVec 5) (a : BitVec 5) (z : BitVec 8) (k : BitVec 2) (n : BitVec 6) :
    fld (packShift op d a z k n) 0 6 = n := by
  unfold fld packShift
  rw [BitVec.extractLsb'_append_eq_of_add_le (by decide)]
  exact BitVec.extractLsb'_eq_self

theorem packShift_fld (w : IWord) :
    packShift (fld w 26 6) (fld w 21 5) (fld w 16 5) (fld w 8 8) (fld w 6 2) (fld w 0 6) = w := by
  unfold packShift fld
  rw [BitVec.extractLsb'_append_extractLsb'_eq_extractLsb' (by decide), BitVec.extractLsb'_append_extractLsb'_eq_extractLsb' (by decide), BitVec.extractLsb'_append_extractLsb'_eq_extractLsb' (by decide), BitVec.extractLsb'_append_extractLsb'_eq_extractLsb' (by decide), BitVec.extractLsb'_append_extractLsb'_eq_extractLsb' (by decide)]
  exact BitVec.extractLsb'_eq_self

@[simp] theorem fld_packRep_op (op : BitVec 6) (u : BitVec 2) (z : BitVec 1) (y : BitVec 1) (x : BitVec 1) (a : BitVec 5) (s : BitVec 2) (v : BitVec 2) (c : BitVec 8) (l : BitVec 4) :
    fld (packRep op u z y x a s v c l) 26 6 = op := by
  unfold fld packRep
  rw [BitVec.extractLsb'_append_eq_of_le (by decide), BitVec.extractLsb'_append_eq_of_le (by decide), BitVec.extractLsb'_append_eq_of_le (by decide), BitVec.extractLsb'_append_eq_of_le (by decide), BitVec.extractLsb'_append_eq_of_le (by decide), BitVec.extractLsb'_append_eq_of_le (by decide), BitVec.extractLsb'_append_eq_of_le (by decide), BitVec.extractLsb'_append_eq_of_le (by decide), BitVec.extractLsb'_append_eq_of_le (by decide)]
  exact BitVec.extractLsb'_eq_self

@[simp] theorem fld_packRep_u (op : BitVec 6) (u : BitVec 2) (z : BitVec 1) (y : BitVec 1) (x : BitVec 1) (a : BitVec 5) (s : BitVec 2) (v : BitVec 2) (c : BitVec 8) (l : BitVec 4) :
    fld (packRep op u z y x a s v c l) 24 2 = u := by
  unfold fld packRep
  rw [BitVec.extractLsb'_append_eq_of_le (by decide), BitVec.extractLsb'_append_eq_of_le (by decide), BitVec.extractLsb'_append_eq_of_le (by decide), BitVec.extractLsb'_append_eq_of_le (by decide), BitVec.extractLsb'_append_eq_of_le (by decide), BitVec.extractLsb'_append_eq_of_le (by decide), BitVec.extractLsb'_append_eq_of_le (by decide), BitVec.extractLsb'_append_eq_of_le (by decide), BitVec.extractLsb'_append_eq_of_add_le (by decide)]
  exact BitVec.extractLsb'_eq_self

@[simp] theorem fld_packRep_z (op : BitVec 6) (u : BitVec 2) (z : BitVec 1) (y : BitVec 1) (x : BitVec 1) (a : BitVec 5) (s : BitVec 2) (v : BitVec 2) (c : BitVec 8) (l : BitVec 4) :
    fld (packRep op u z y x a s v c l) 23 1 = z := by
  unfold fld packRep
  rw [BitVec.extractLsb'_append_eq_of_le (by decide), BitVec.extractLsb'_append_eq_of_le (by decide), BitVec.extractLsb'_append_eq_of_le (by decide), BitVec.extractLsb'_append_eq_of_le (by decide), BitVec.extractLsb'_append_eq_of_le (by decide), BitVec.extractLsb'_append_eq_of_le (by decide), BitVec.extractLsb'_append_eq_of_le (by decide), BitVec.extractLsb'_append_eq_of_add_le (by decide)]
  exact BitVec.extractLsb'_eq_self

@[simp] theorem fld_packRep_y (op : BitVec 6) (u : BitVec 2) (z : BitVec 1) (y : BitVec 1) (x : BitVec 1) (a : BitVec 5) (s : BitVec 2) (v : BitVec 2) (c : BitVec 8) (l : BitVec 4) :
    fld (packRep op u z y x a s v c l) 22 1 = y := by
  unfold fld packRep
  rw [BitVec.extractLsb'_append_eq_of_le (by decide), BitVec.extractLsb'_append_eq_of_le (by decide), BitVec.extractLsb'_append_eq_of_le (by decide), BitVec.extractLsb'_append_eq_of_le (by decide), BitVec.extractLsb'_append_eq_of_le (by decide), BitVec.extractLsb'_append_eq_of_le (by decide), BitVec.extractLsb'_append_eq_of_add_le (by decide)]
  exact BitVec.extractLsb'_eq_self

@[simp] theorem fld_packRep_x (op : BitVec 6) (u : BitVec 2) (z : BitVec 1) (y : BitVec 1) (x : BitVec 1) (a : BitVec 5) (s : BitVec 2) (v : BitVec 2) (c : BitVec 8) (l : BitVec 4) :
    fld (packRep op u z y x a s v c l) 21 1 = x := by
  unfold fld packRep
  rw [BitVec.extractLsb'_append_eq_of_le (by decide), BitVec.extractLsb'_append_eq_of_le (by decide), BitVec.extractLsb'_append_eq_of_le (by decide), BitVec.extractLsb'_append_eq_of_le (by decide), BitVec.extractLsb'_append_eq_of_le (by decide), BitVec.extractLsb'_append_eq_of_add_le (by decide)]
  exact BitVec.extractLsb'_eq_self

@[simp] theorem fld_packRep_a (op : BitVec 6) (u : BitVec 2) (z : BitVec 1) (y : BitVec 1) (x : BitVec 1) (a : BitVec 5) (s : BitVec 2) (v : BitVec 2) (c : BitVec 8) (l : BitVec 4) :
    fld (packRep op u z y x a s v c l) 16 5 = a := by
  unfold fld packRep
  rw [BitVec.extractLsb'_append_eq_of_le (by decide), BitVec.extractLsb'_append_eq_of_le (by decide), BitVec.extractLsb'_append_eq_of_le (by decide), BitVec.extractLsb'_append_eq_of_le (by decide), BitVec.extractLsb'_append_eq_of_add_le (by decide)]
  exact BitVec.extractLsb'_eq_self

@[simp] theorem fld_packRep_s (op : BitVec 6) (u : BitVec 2) (z : BitVec 1) (y : BitVec 1) (x : BitVec 1) (a : BitVec 5) (s : BitVec 2) (v : BitVec 2) (c : BitVec 8) (l : BitVec 4) :
    fld (packRep op u z y x a s v c l) 14 2 = s := by
  unfold fld packRep
  rw [BitVec.extractLsb'_append_eq_of_le (by decide), BitVec.extractLsb'_append_eq_of_le (by decide), BitVec.extractLsb'_append_eq_of_le (by decide), BitVec.extractLsb'_append_eq_of_add_le (by decide)]
  exact BitVec.extractLsb'_eq_self

@[simp] theorem fld_packRep_v (op : BitVec 6) (u : BitVec 2) (z : BitVec 1) (y : BitVec 1) (x : BitVec 1) (a : BitVec 5) (s : BitVec 2) (v : BitVec 2) (c : BitVec 8) (l : BitVec 4) :
    fld (packRep op u z y x a s v c l) 12 2 = v := by
  unfold fld packRep
  rw [BitVec.extractLsb'_append_eq_of_le (by decide), BitVec.extractLsb'_append_eq_of_le (by decide), BitVec.extractLsb'_append_eq_of_add_le (by decide)]
  exact BitVec.extractLsb'_eq_self

@[simp] theorem fld_packRep_c (op : BitVec 6) (u : BitVec 2) (z : BitVec 1) (y : BitVec 1) (x : BitVec 1) (a : BitVec 5) (s : BitVec 2) (v : BitVec 2) (c : BitVec 8) (l : BitVec 4) :
    fld (packRep op u z y x a s v c l) 4 8 = c := by
  unfold fld packRep
  rw [BitVec.extractLsb'_append_eq_of_le (by decide), BitVec.extractLsb'_append_eq_of_add_le (by decide)]
  exact BitVec.extractLsb'_eq_self

@[simp] theorem fld_packRep_l (op : BitVec 6) (u : BitVec 2) (z : BitVec 1) (y : BitVec 1) (x : BitVec 1) (a : BitVec 5) (s : BitVec 2) (v : BitVec 2) (c : BitVec 8) (l : BitVec 4) :
    fld (packRep op u z y x a s v c l) 0 4 = l := by
  unfold fld packRep
  rw [BitVec.extractLsb'_append_eq_of_add_le (by decide)]
  exact BitVec.extractLsb'_eq_self

theorem packRep_fld (w : IWord) :
    packRep (fld w 26 6) (fld w 24 2) (fld w 23 1) (fld w 22 1) (fld w 21 1) (fld w 16 5) (fld w 14 2) (fld w 12 2) (fld w 4 8) (fld w 0 4) = w := by
  unfold packRep fld
  rw [BitVec.extractLsb'_append_extractLsb'_eq_extractLsb' (by decide), BitVec.extractLsb'_append_extractLsb'_eq_extractLsb' (by decide), BitVec.extractLsb'_append_extractLsb'_eq_extractLsb' (by decide), BitVec.extractLsb'_append_extractLsb'_eq_extractLsb' (by decide), BitVec.extractLsb'_append_extractLsb'_eq_extractLsb' (by decide), BitVec.extractLsb'_append_extractLsb'_eq_extractLsb' (by decide), BitVec.extractLsb'_append_extractLsb'_eq_extractLsb' (by decide), BitVec.extractLsb'_append_extractLsb'_eq_extractLsb' (by decide), BitVec.extractLsb'_append_extractLsb'_eq_extractLsb' (by decide)]
  exact BitVec.extractLsb'_eq_self

@[simp] theorem fld_packL_op (op : BitVec 6) (d : BitVec 5) (a : BitVec 5) (s : BitVec 3) (o : BitVec 13) :
    fld (packL op d a s o) 26 6 = op := by
  unfold fld packL
  rw [BitVec.extractLsb'_append_eq_of_le (by decide), BitVec.extractLsb'_append_eq_of_le (by decide), BitVec.extractLsb'_append_eq_of_le (by decide), BitVec.extractLsb'_append_eq_of_le (by decide)]
  exact BitVec.extractLsb'_eq_self

@[simp] theorem fld_packL_d (op : BitVec 6) (d : BitVec 5) (a : BitVec 5) (s : BitVec 3) (o : BitVec 13) :
    fld (packL op d a s o) 21 5 = d := by
  unfold fld packL
  rw [BitVec.extractLsb'_append_eq_of_le (by decide), BitVec.extractLsb'_append_eq_of_le (by decide), BitVec.extractLsb'_append_eq_of_le (by decide), BitVec.extractLsb'_append_eq_of_add_le (by decide)]
  exact BitVec.extractLsb'_eq_self

@[simp] theorem fld_packL_a (op : BitVec 6) (d : BitVec 5) (a : BitVec 5) (s : BitVec 3) (o : BitVec 13) :
    fld (packL op d a s o) 16 5 = a := by
  unfold fld packL
  rw [BitVec.extractLsb'_append_eq_of_le (by decide), BitVec.extractLsb'_append_eq_of_le (by decide), BitVec.extractLsb'_append_eq_of_add_le (by decide)]
  exact BitVec.extractLsb'_eq_self

@[simp] theorem fld_packL_s (op : BitVec 6) (d : BitVec 5) (a : BitVec 5) (s : BitVec 3) (o : BitVec 13) :
    fld (packL op d a s o) 13 3 = s := by
  unfold fld packL
  rw [BitVec.extractLsb'_append_eq_of_le (by decide), BitVec.extractLsb'_append_eq_of_add_le (by decide)]
  exact BitVec.extractLsb'_eq_self

@[simp] theorem fld_packL_o (op : BitVec 6) (d : BitVec 5) (a : BitVec 5) (s : BitVec 3) (o : BitVec 13) :
    fld (packL op d a s o) 0 13 = o := by
  unfold fld packL
  rw [BitVec.extractLsb'_append_eq_of_add_le (by decide)]
  exact BitVec.extractLsb'_eq_self

theorem packL_fld (w : IWord) :
    packL (fld w 26 6) (fld w 21 5) (fld w 16 5) (fld w 13 3) (fld w 0 13) = w := by
  unfold packL fld
  rw [BitVec.extractLsb'_append_extractLsb'_eq_extractLsb' (by decide), BitVec.extractLsb'_append_extractLsb'_eq_extractLsb' (by decide), BitVec.extractLsb'_append_extractLsb'_eq_extractLsb' (by decide), BitVec.extractLsb'_append_extractLsb'_eq_extractLsb' (by decide)]
  exact BitVec.extractLsb'_eq_self

@[simp] theorem fld_packLs_op (op : BitVec 6) (d : BitVec 5) (a : BitVec 5) (z : BitVec 1) (s : BitVec 2) (o : BitVec 13) :
    fld (packLs op d a z s o) 26 6 = op := by
  unfold fld packLs
  rw [BitVec.extractLsb'_append_eq_of_le (by decide), BitVec.extractLsb'_append_eq_of_le (by decide), BitVec.extractLsb'_append_eq_of_le (by decide), BitVec.extractLsb'_append_eq_of_le (by decide), BitVec.extractLsb'_append_eq_of_le (by decide)]
  exact BitVec.extractLsb'_eq_self

@[simp] theorem fld_packLs_d (op : BitVec 6) (d : BitVec 5) (a : BitVec 5) (z : BitVec 1) (s : BitVec 2) (o : BitVec 13) :
    fld (packLs op d a z s o) 21 5 = d := by
  unfold fld packLs
  rw [BitVec.extractLsb'_append_eq_of_le (by decide), BitVec.extractLsb'_append_eq_of_le (by decide), BitVec.extractLsb'_append_eq_of_le (by decide), BitVec.extractLsb'_append_eq_of_le (by decide), BitVec.extractLsb'_append_eq_of_add_le (by decide)]
  exact BitVec.extractLsb'_eq_self

@[simp] theorem fld_packLs_a (op : BitVec 6) (d : BitVec 5) (a : BitVec 5) (z : BitVec 1) (s : BitVec 2) (o : BitVec 13) :
    fld (packLs op d a z s o) 16 5 = a := by
  unfold fld packLs
  rw [BitVec.extractLsb'_append_eq_of_le (by decide), BitVec.extractLsb'_append_eq_of_le (by decide), BitVec.extractLsb'_append_eq_of_le (by decide), BitVec.extractLsb'_append_eq_of_add_le (by decide)]
  exact BitVec.extractLsb'_eq_self

@[simp] theorem fld_packLs_z (op : BitVec 6) (d : BitVec 5) (a : BitVec 5) (z : BitVec 1) (s : BitVec 2) (o : BitVec 13) :
    fld (packLs op d a z s o) 15 1 = z := by
  unfold fld packLs
  rw [BitVec.extractLsb'_append_eq_of_le (by decide), BitVec.extractLsb'_append_eq_of_le (by decide), BitVec.extractLsb'_append_eq_of_add_le (by decide)]
  exact BitVec.extractLsb'_eq_self

@[simp] theorem fld_packLs_s (op : BitVec 6) (d : BitVec 5) (a : BitVec 5) (z : BitVec 1) (s : BitVec 2) (o : BitVec 13) :
    fld (packLs op d a z s o) 13 2 = s := by
  unfold fld packLs
  rw [BitVec.extractLsb'_append_eq_of_le (by decide), BitVec.extractLsb'_append_eq_of_add_le (by decide)]
  exact BitVec.extractLsb'_eq_self

@[simp] theorem fld_packLs_o (op : BitVec 6) (d : BitVec 5) (a : BitVec 5) (z : BitVec 1) (s : BitVec 2) (o : BitVec 13) :
    fld (packLs op d a z s o) 0 13 = o := by
  unfold fld packLs
  rw [BitVec.extractLsb'_append_eq_of_add_le (by decide)]
  exact BitVec.extractLsb'_eq_self

theorem packLs_fld (w : IWord) :
    packLs (fld w 26 6) (fld w 21 5) (fld w 16 5) (fld w 15 1) (fld w 13 2) (fld w 0 13) = w := by
  unfold packLs fld
  rw [BitVec.extractLsb'_append_extractLsb'_eq_extractLsb' (by decide), BitVec.extractLsb'_append_extractLsb'_eq_extractLsb' (by decide), BitVec.extractLsb'_append_extractLsb'_eq_extractLsb' (by decide), BitVec.extractLsb'_append_extractLsb'_eq_extractLsb' (by decide), BitVec.extractLsb'_append_extractLsb'_eq_extractLsb' (by decide)]
  exact BitVec.extractLsb'_eq_self

@[simp] theorem fld_packK_op (op : BitVec 6) (c : BitVec 3) (k : BitVec 2) (a : BitVec 5) (b : BitVec 5) (i : BitVec 11) :
    fld (packK op c k a b i) 26 6 = op := by
  unfold fld packK
  rw [BitVec.extractLsb'_append_eq_of_le (by decide), BitVec.extractLsb'_append_eq_of_le (by decide), BitVec.extractLsb'_append_eq_of_le (by decide), BitVec.extractLsb'_append_eq_of_le (by decide), BitVec.extractLsb'_append_eq_of_le (by decide)]
  exact BitVec.extractLsb'_eq_self

@[simp] theorem fld_packK_c (op : BitVec 6) (c : BitVec 3) (k : BitVec 2) (a : BitVec 5) (b : BitVec 5) (i : BitVec 11) :
    fld (packK op c k a b i) 23 3 = c := by
  unfold fld packK
  rw [BitVec.extractLsb'_append_eq_of_le (by decide), BitVec.extractLsb'_append_eq_of_le (by decide), BitVec.extractLsb'_append_eq_of_le (by decide), BitVec.extractLsb'_append_eq_of_le (by decide), BitVec.extractLsb'_append_eq_of_add_le (by decide)]
  exact BitVec.extractLsb'_eq_self

@[simp] theorem fld_packK_k (op : BitVec 6) (c : BitVec 3) (k : BitVec 2) (a : BitVec 5) (b : BitVec 5) (i : BitVec 11) :
    fld (packK op c k a b i) 21 2 = k := by
  unfold fld packK
  rw [BitVec.extractLsb'_append_eq_of_le (by decide), BitVec.extractLsb'_append_eq_of_le (by decide), BitVec.extractLsb'_append_eq_of_le (by decide), BitVec.extractLsb'_append_eq_of_add_le (by decide)]
  exact BitVec.extractLsb'_eq_self

@[simp] theorem fld_packK_a (op : BitVec 6) (c : BitVec 3) (k : BitVec 2) (a : BitVec 5) (b : BitVec 5) (i : BitVec 11) :
    fld (packK op c k a b i) 16 5 = a := by
  unfold fld packK
  rw [BitVec.extractLsb'_append_eq_of_le (by decide), BitVec.extractLsb'_append_eq_of_le (by decide), BitVec.extractLsb'_append_eq_of_add_le (by decide)]
  exact BitVec.extractLsb'_eq_self

@[simp] theorem fld_packK_b (op : BitVec 6) (c : BitVec 3) (k : BitVec 2) (a : BitVec 5) (b : BitVec 5) (i : BitVec 11) :
    fld (packK op c k a b i) 11 5 = b := by
  unfold fld packK
  rw [BitVec.extractLsb'_append_eq_of_le (by decide), BitVec.extractLsb'_append_eq_of_add_le (by decide)]
  exact BitVec.extractLsb'_eq_self

@[simp] theorem fld_packK_i (op : BitVec 6) (c : BitVec 3) (k : BitVec 2) (a : BitVec 5) (b : BitVec 5) (i : BitVec 11) :
    fld (packK op c k a b i) 0 11 = i := by
  unfold fld packK
  rw [BitVec.extractLsb'_append_eq_of_add_le (by decide)]
  exact BitVec.extractLsb'_eq_self

theorem packK_fld (w : IWord) :
    packK (fld w 26 6) (fld w 23 3) (fld w 21 2) (fld w 16 5) (fld w 11 5) (fld w 0 11) = w := by
  unfold packK fld
  rw [BitVec.extractLsb'_append_extractLsb'_eq_extractLsb' (by decide), BitVec.extractLsb'_append_extractLsb'_eq_extractLsb' (by decide), BitVec.extractLsb'_append_extractLsb'_eq_extractLsb' (by decide), BitVec.extractLsb'_append_extractLsb'_eq_extractLsb' (by decide), BitVec.extractLsb'_append_extractLsb'_eq_extractLsb' (by decide)]
  exact BitVec.extractLsb'_eq_self

@[simp] theorem fld_packJ_op (op : BitVec 6) (o : BitVec 26) :
    fld (packJ op o) 26 6 = op := by
  unfold fld packJ
  rw [BitVec.extractLsb'_append_eq_of_le (by decide)]
  exact BitVec.extractLsb'_eq_self

@[simp] theorem fld_packJ_o (op : BitVec 6) (o : BitVec 26) :
    fld (packJ op o) 0 26 = o := by
  unfold fld packJ
  rw [BitVec.extractLsb'_append_eq_of_add_le (by decide)]
  exact BitVec.extractLsb'_eq_self

theorem packJ_fld (w : IWord) :
    packJ (fld w 26 6) (fld w 0 26) = w := by
  unfold packJ fld
  rw [BitVec.extractLsb'_append_extractLsb'_eq_extractLsb' (by decide)]
  exact BitVec.extractLsb'_eq_self

@[simp] theorem fld_packV_op (op : BitVec 6) (d : BitVec 7) (a : BitVec 7) (b : BitVec 7) (t : BitVec 2) (f : BitVec 3) :
    fld (packV op d a b t f) 26 6 = op := by
  unfold fld packV
  rw [BitVec.extractLsb'_append_eq_of_le (by decide), BitVec.extractLsb'_append_eq_of_le (by decide), BitVec.extractLsb'_append_eq_of_le (by decide), BitVec.extractLsb'_append_eq_of_le (by decide), BitVec.extractLsb'_append_eq_of_le (by decide)]
  exact BitVec.extractLsb'_eq_self

@[simp] theorem fld_packV_d (op : BitVec 6) (d : BitVec 7) (a : BitVec 7) (b : BitVec 7) (t : BitVec 2) (f : BitVec 3) :
    fld (packV op d a b t f) 19 7 = d := by
  unfold fld packV
  rw [BitVec.extractLsb'_append_eq_of_le (by decide), BitVec.extractLsb'_append_eq_of_le (by decide), BitVec.extractLsb'_append_eq_of_le (by decide), BitVec.extractLsb'_append_eq_of_le (by decide), BitVec.extractLsb'_append_eq_of_add_le (by decide)]
  exact BitVec.extractLsb'_eq_self

@[simp] theorem fld_packV_a (op : BitVec 6) (d : BitVec 7) (a : BitVec 7) (b : BitVec 7) (t : BitVec 2) (f : BitVec 3) :
    fld (packV op d a b t f) 12 7 = a := by
  unfold fld packV
  rw [BitVec.extractLsb'_append_eq_of_le (by decide), BitVec.extractLsb'_append_eq_of_le (by decide), BitVec.extractLsb'_append_eq_of_le (by decide), BitVec.extractLsb'_append_eq_of_add_le (by decide)]
  exact BitVec.extractLsb'_eq_self

@[simp] theorem fld_packV_b (op : BitVec 6) (d : BitVec 7) (a : BitVec 7) (b : BitVec 7) (t : BitVec 2) (f : BitVec 3) :
    fld (packV op d a b t f) 5 7 = b := by
  unfold fld packV
  rw [BitVec.extractLsb'_append_eq_of_le (by decide), BitVec.extractLsb'_append_eq_of_le (by decide), BitVec.extractLsb'_append_eq_of_add_le (by decide)]
  exact BitVec.extractLsb'_eq_self

@[simp] theorem fld_packV_t (op : BitVec 6) (d : BitVec 7) (a : BitVec 7) (b : BitVec 7) (t : BitVec 2) (f : BitVec 3) :
    fld (packV op d a b t f) 3 2 = t := by
  unfold fld packV
  rw [BitVec.extractLsb'_append_eq_of_le (by decide), BitVec.extractLsb'_append_eq_of_add_le (by decide)]
  exact BitVec.extractLsb'_eq_self

@[simp] theorem fld_packV_f (op : BitVec 6) (d : BitVec 7) (a : BitVec 7) (b : BitVec 7) (t : BitVec 2) (f : BitVec 3) :
    fld (packV op d a b t f) 0 3 = f := by
  unfold fld packV
  rw [BitVec.extractLsb'_append_eq_of_add_le (by decide)]
  exact BitVec.extractLsb'_eq_self

theorem packV_fld (w : IWord) :
    packV (fld w 26 6) (fld w 19 7) (fld w 12 7) (fld w 5 7) (fld w 3 2) (fld w 0 3) = w := by
  unfold packV fld
  rw [BitVec.extractLsb'_append_extractLsb'_eq_extractLsb' (by decide), BitVec.extractLsb'_append_extractLsb'_eq_extractLsb' (by decide), BitVec.extractLsb'_append_extractLsb'_eq_extractLsb' (by decide), BitVec.extractLsb'_append_extractLsb'_eq_extractLsb' (by decide), BitVec.extractLsb'_append_extractLsb'_eq_extractLsb' (by decide)]
  exact BitVec.extractLsb'_eq_self

@[simp] theorem fld_packVd_op (op : BitVec 6) (z : BitVec 4) (d : BitVec 3) (a : BitVec 7) (b : BitVec 7) (t : BitVec 2) (f : BitVec 3) :
    fld (packVd op z d a b t f) 26 6 = op := by
  unfold fld packVd
  rw [BitVec.extractLsb'_append_eq_of_le (by decide), BitVec.extractLsb'_append_eq_of_le (by decide), BitVec.extractLsb'_append_eq_of_le (by decide), BitVec.extractLsb'_append_eq_of_le (by decide), BitVec.extractLsb'_append_eq_of_le (by decide), BitVec.extractLsb'_append_eq_of_le (by decide)]
  exact BitVec.extractLsb'_eq_self

@[simp] theorem fld_packVd_z (op : BitVec 6) (z : BitVec 4) (d : BitVec 3) (a : BitVec 7) (b : BitVec 7) (t : BitVec 2) (f : BitVec 3) :
    fld (packVd op z d a b t f) 22 4 = z := by
  unfold fld packVd
  rw [BitVec.extractLsb'_append_eq_of_le (by decide), BitVec.extractLsb'_append_eq_of_le (by decide), BitVec.extractLsb'_append_eq_of_le (by decide), BitVec.extractLsb'_append_eq_of_le (by decide), BitVec.extractLsb'_append_eq_of_le (by decide), BitVec.extractLsb'_append_eq_of_add_le (by decide)]
  exact BitVec.extractLsb'_eq_self

@[simp] theorem fld_packVd_d (op : BitVec 6) (z : BitVec 4) (d : BitVec 3) (a : BitVec 7) (b : BitVec 7) (t : BitVec 2) (f : BitVec 3) :
    fld (packVd op z d a b t f) 19 3 = d := by
  unfold fld packVd
  rw [BitVec.extractLsb'_append_eq_of_le (by decide), BitVec.extractLsb'_append_eq_of_le (by decide), BitVec.extractLsb'_append_eq_of_le (by decide), BitVec.extractLsb'_append_eq_of_le (by decide), BitVec.extractLsb'_append_eq_of_add_le (by decide)]
  exact BitVec.extractLsb'_eq_self

@[simp] theorem fld_packVd_a (op : BitVec 6) (z : BitVec 4) (d : BitVec 3) (a : BitVec 7) (b : BitVec 7) (t : BitVec 2) (f : BitVec 3) :
    fld (packVd op z d a b t f) 12 7 = a := by
  unfold fld packVd
  rw [BitVec.extractLsb'_append_eq_of_le (by decide), BitVec.extractLsb'_append_eq_of_le (by decide), BitVec.extractLsb'_append_eq_of_le (by decide), BitVec.extractLsb'_append_eq_of_add_le (by decide)]
  exact BitVec.extractLsb'_eq_self

@[simp] theorem fld_packVd_b (op : BitVec 6) (z : BitVec 4) (d : BitVec 3) (a : BitVec 7) (b : BitVec 7) (t : BitVec 2) (f : BitVec 3) :
    fld (packVd op z d a b t f) 5 7 = b := by
  unfold fld packVd
  rw [BitVec.extractLsb'_append_eq_of_le (by decide), BitVec.extractLsb'_append_eq_of_le (by decide), BitVec.extractLsb'_append_eq_of_add_le (by decide)]
  exact BitVec.extractLsb'_eq_self

@[simp] theorem fld_packVd_t (op : BitVec 6) (z : BitVec 4) (d : BitVec 3) (a : BitVec 7) (b : BitVec 7) (t : BitVec 2) (f : BitVec 3) :
    fld (packVd op z d a b t f) 3 2 = t := by
  unfold fld packVd
  rw [BitVec.extractLsb'_append_eq_of_le (by decide), BitVec.extractLsb'_append_eq_of_add_le (by decide)]
  exact BitVec.extractLsb'_eq_self

@[simp] theorem fld_packVd_f (op : BitVec 6) (z : BitVec 4) (d : BitVec 3) (a : BitVec 7) (b : BitVec 7) (t : BitVec 2) (f : BitVec 3) :
    fld (packVd op z d a b t f) 0 3 = f := by
  unfold fld packVd
  rw [BitVec.extractLsb'_append_eq_of_add_le (by decide)]
  exact BitVec.extractLsb'_eq_self

theorem packVd_fld (w : IWord) :
    packVd (fld w 26 6) (fld w 22 4) (fld w 19 3) (fld w 12 7) (fld w 5 7) (fld w 3 2) (fld w 0 3) = w := by
  unfold packVd fld
  rw [BitVec.extractLsb'_append_extractLsb'_eq_extractLsb' (by decide), BitVec.extractLsb'_append_extractLsb'_eq_extractLsb' (by decide), BitVec.extractLsb'_append_extractLsb'_eq_extractLsb' (by decide), BitVec.extractLsb'_append_extractLsb'_eq_extractLsb' (by decide), BitVec.extractLsb'_append_extractLsb'_eq_extractLsb' (by decide), BitVec.extractLsb'_append_extractLsb'_eq_extractLsb' (by decide)]
  exact BitVec.extractLsb'_eq_self

@[simp] theorem fld_packVa_op (op : BitVec 6) (d : BitVec 7) (z : BitVec 4) (a : BitVec 3) (b : BitVec 7) (t : BitVec 2) (f : BitVec 3) :
    fld (packVa op d z a b t f) 26 6 = op := by
  unfold fld packVa
  rw [BitVec.extractLsb'_append_eq_of_le (by decide), BitVec.extractLsb'_append_eq_of_le (by decide), BitVec.extractLsb'_append_eq_of_le (by decide), BitVec.extractLsb'_append_eq_of_le (by decide), BitVec.extractLsb'_append_eq_of_le (by decide), BitVec.extractLsb'_append_eq_of_le (by decide)]
  exact BitVec.extractLsb'_eq_self

@[simp] theorem fld_packVa_d (op : BitVec 6) (d : BitVec 7) (z : BitVec 4) (a : BitVec 3) (b : BitVec 7) (t : BitVec 2) (f : BitVec 3) :
    fld (packVa op d z a b t f) 19 7 = d := by
  unfold fld packVa
  rw [BitVec.extractLsb'_append_eq_of_le (by decide), BitVec.extractLsb'_append_eq_of_le (by decide), BitVec.extractLsb'_append_eq_of_le (by decide), BitVec.extractLsb'_append_eq_of_le (by decide), BitVec.extractLsb'_append_eq_of_le (by decide), BitVec.extractLsb'_append_eq_of_add_le (by decide)]
  exact BitVec.extractLsb'_eq_self

@[simp] theorem fld_packVa_z (op : BitVec 6) (d : BitVec 7) (z : BitVec 4) (a : BitVec 3) (b : BitVec 7) (t : BitVec 2) (f : BitVec 3) :
    fld (packVa op d z a b t f) 15 4 = z := by
  unfold fld packVa
  rw [BitVec.extractLsb'_append_eq_of_le (by decide), BitVec.extractLsb'_append_eq_of_le (by decide), BitVec.extractLsb'_append_eq_of_le (by decide), BitVec.extractLsb'_append_eq_of_le (by decide), BitVec.extractLsb'_append_eq_of_add_le (by decide)]
  exact BitVec.extractLsb'_eq_self

@[simp] theorem fld_packVa_a (op : BitVec 6) (d : BitVec 7) (z : BitVec 4) (a : BitVec 3) (b : BitVec 7) (t : BitVec 2) (f : BitVec 3) :
    fld (packVa op d z a b t f) 12 3 = a := by
  unfold fld packVa
  rw [BitVec.extractLsb'_append_eq_of_le (by decide), BitVec.extractLsb'_append_eq_of_le (by decide), BitVec.extractLsb'_append_eq_of_le (by decide), BitVec.extractLsb'_append_eq_of_add_le (by decide)]
  exact BitVec.extractLsb'_eq_self

@[simp] theorem fld_packVa_b (op : BitVec 6) (d : BitVec 7) (z : BitVec 4) (a : BitVec 3) (b : BitVec 7) (t : BitVec 2) (f : BitVec 3) :
    fld (packVa op d z a b t f) 5 7 = b := by
  unfold fld packVa
  rw [BitVec.extractLsb'_append_eq_of_le (by decide), BitVec.extractLsb'_append_eq_of_le (by decide), BitVec.extractLsb'_append_eq_of_add_le (by decide)]
  exact BitVec.extractLsb'_eq_self

@[simp] theorem fld_packVa_t (op : BitVec 6) (d : BitVec 7) (z : BitVec 4) (a : BitVec 3) (b : BitVec 7) (t : BitVec 2) (f : BitVec 3) :
    fld (packVa op d z a b t f) 3 2 = t := by
  unfold fld packVa
  rw [BitVec.extractLsb'_append_eq_of_le (by decide), BitVec.extractLsb'_append_eq_of_add_le (by decide)]
  exact BitVec.extractLsb'_eq_self

@[simp] theorem fld_packVa_f (op : BitVec 6) (d : BitVec 7) (z : BitVec 4) (a : BitVec 3) (b : BitVec 7) (t : BitVec 2) (f : BitVec 3) :
    fld (packVa op d z a b t f) 0 3 = f := by
  unfold fld packVa
  rw [BitVec.extractLsb'_append_eq_of_add_le (by decide)]
  exact BitVec.extractLsb'_eq_self

theorem packVa_fld (w : IWord) :
    packVa (fld w 26 6) (fld w 19 7) (fld w 15 4) (fld w 12 3) (fld w 5 7) (fld w 3 2) (fld w 0 3) = w := by
  unfold packVa fld
  rw [BitVec.extractLsb'_append_extractLsb'_eq_extractLsb' (by decide), BitVec.extractLsb'_append_extractLsb'_eq_extractLsb' (by decide), BitVec.extractLsb'_append_extractLsb'_eq_extractLsb' (by decide), BitVec.extractLsb'_append_extractLsb'_eq_extractLsb' (by decide), BitVec.extractLsb'_append_extractLsb'_eq_extractLsb' (by decide), BitVec.extractLsb'_append_extractLsb'_eq_extractLsb' (by decide)]
  exact BitVec.extractLsb'_eq_self

@[simp] theorem fld_packVm_op (op : BitVec 6) (x : BitVec 4) (d : BitVec 3) (y : BitVec 4) (a : BitVec 3) (z : BitVec 4) (b : BitVec 3) (t : BitVec 2) (f : BitVec 3) :
    fld (packVm op x d y a z b t f) 26 6 = op := by
  unfold fld packVm
  rw [BitVec.extractLsb'_append_eq_of_le (by decide), BitVec.extractLsb'_append_eq_of_le (by decide), BitVec.extractLsb'_append_eq_of_le (by decide), BitVec.extractLsb'_append_eq_of_le (by decide), BitVec.extractLsb'_append_eq_of_le (by decide), BitVec.extractLsb'_append_eq_of_le (by decide), BitVec.extractLsb'_append_eq_of_le (by decide), BitVec.extractLsb'_append_eq_of_le (by decide)]
  exact BitVec.extractLsb'_eq_self

@[simp] theorem fld_packVm_x (op : BitVec 6) (x : BitVec 4) (d : BitVec 3) (y : BitVec 4) (a : BitVec 3) (z : BitVec 4) (b : BitVec 3) (t : BitVec 2) (f : BitVec 3) :
    fld (packVm op x d y a z b t f) 22 4 = x := by
  unfold fld packVm
  rw [BitVec.extractLsb'_append_eq_of_le (by decide), BitVec.extractLsb'_append_eq_of_le (by decide), BitVec.extractLsb'_append_eq_of_le (by decide), BitVec.extractLsb'_append_eq_of_le (by decide), BitVec.extractLsb'_append_eq_of_le (by decide), BitVec.extractLsb'_append_eq_of_le (by decide), BitVec.extractLsb'_append_eq_of_le (by decide), BitVec.extractLsb'_append_eq_of_add_le (by decide)]
  exact BitVec.extractLsb'_eq_self

@[simp] theorem fld_packVm_d (op : BitVec 6) (x : BitVec 4) (d : BitVec 3) (y : BitVec 4) (a : BitVec 3) (z : BitVec 4) (b : BitVec 3) (t : BitVec 2) (f : BitVec 3) :
    fld (packVm op x d y a z b t f) 19 3 = d := by
  unfold fld packVm
  rw [BitVec.extractLsb'_append_eq_of_le (by decide), BitVec.extractLsb'_append_eq_of_le (by decide), BitVec.extractLsb'_append_eq_of_le (by decide), BitVec.extractLsb'_append_eq_of_le (by decide), BitVec.extractLsb'_append_eq_of_le (by decide), BitVec.extractLsb'_append_eq_of_le (by decide), BitVec.extractLsb'_append_eq_of_add_le (by decide)]
  exact BitVec.extractLsb'_eq_self

@[simp] theorem fld_packVm_y (op : BitVec 6) (x : BitVec 4) (d : BitVec 3) (y : BitVec 4) (a : BitVec 3) (z : BitVec 4) (b : BitVec 3) (t : BitVec 2) (f : BitVec 3) :
    fld (packVm op x d y a z b t f) 15 4 = y := by
  unfold fld packVm
  rw [BitVec.extractLsb'_append_eq_of_le (by decide), BitVec.extractLsb'_append_eq_of_le (by decide), BitVec.extractLsb'_append_eq_of_le (by decide), BitVec.extractLsb'_append_eq_of_le (by decide), BitVec.extractLsb'_append_eq_of_le (by decide), BitVec.extractLsb'_append_eq_of_add_le (by decide)]
  exact BitVec.extractLsb'_eq_self

@[simp] theorem fld_packVm_a (op : BitVec 6) (x : BitVec 4) (d : BitVec 3) (y : BitVec 4) (a : BitVec 3) (z : BitVec 4) (b : BitVec 3) (t : BitVec 2) (f : BitVec 3) :
    fld (packVm op x d y a z b t f) 12 3 = a := by
  unfold fld packVm
  rw [BitVec.extractLsb'_append_eq_of_le (by decide), BitVec.extractLsb'_append_eq_of_le (by decide), BitVec.extractLsb'_append_eq_of_le (by decide), BitVec.extractLsb'_append_eq_of_le (by decide), BitVec.extractLsb'_append_eq_of_add_le (by decide)]
  exact BitVec.extractLsb'_eq_self

@[simp] theorem fld_packVm_z (op : BitVec 6) (x : BitVec 4) (d : BitVec 3) (y : BitVec 4) (a : BitVec 3) (z : BitVec 4) (b : BitVec 3) (t : BitVec 2) (f : BitVec 3) :
    fld (packVm op x d y a z b t f) 8 4 = z := by
  unfold fld packVm
  rw [BitVec.extractLsb'_append_eq_of_le (by decide), BitVec.extractLsb'_append_eq_of_le (by decide), BitVec.extractLsb'_append_eq_of_le (by decide), BitVec.extractLsb'_append_eq_of_add_le (by decide)]
  exact BitVec.extractLsb'_eq_self

@[simp] theorem fld_packVm_b (op : BitVec 6) (x : BitVec 4) (d : BitVec 3) (y : BitVec 4) (a : BitVec 3) (z : BitVec 4) (b : BitVec 3) (t : BitVec 2) (f : BitVec 3) :
    fld (packVm op x d y a z b t f) 5 3 = b := by
  unfold fld packVm
  rw [BitVec.extractLsb'_append_eq_of_le (by decide), BitVec.extractLsb'_append_eq_of_le (by decide), BitVec.extractLsb'_append_eq_of_add_le (by decide)]
  exact BitVec.extractLsb'_eq_self

@[simp] theorem fld_packVm_t (op : BitVec 6) (x : BitVec 4) (d : BitVec 3) (y : BitVec 4) (a : BitVec 3) (z : BitVec 4) (b : BitVec 3) (t : BitVec 2) (f : BitVec 3) :
    fld (packVm op x d y a z b t f) 3 2 = t := by
  unfold fld packVm
  rw [BitVec.extractLsb'_append_eq_of_le (by decide), BitVec.extractLsb'_append_eq_of_add_le (by decide)]
  exact BitVec.extractLsb'_eq_self

@[simp] theorem fld_packVm_f (op : BitVec 6) (x : BitVec 4) (d : BitVec 3) (y : BitVec 4) (a : BitVec 3) (z : BitVec 4) (b : BitVec 3) (t : BitVec 2) (f : BitVec 3) :
    fld (packVm op x d y a z b t f) 0 3 = f := by
  unfold fld packVm
  rw [BitVec.extractLsb'_append_eq_of_add_le (by decide)]
  exact BitVec.extractLsb'_eq_self

theorem packVm_fld (w : IWord) :
    packVm (fld w 26 6) (fld w 22 4) (fld w 19 3) (fld w 15 4) (fld w 12 3) (fld w 8 4) (fld w 5 3) (fld w 3 2) (fld w 0 3) = w := by
  unfold packVm fld
  rw [BitVec.extractLsb'_append_extractLsb'_eq_extractLsb' (by decide), BitVec.extractLsb'_append_extractLsb'_eq_extractLsb' (by decide), BitVec.extractLsb'_append_extractLsb'_eq_extractLsb' (by decide), BitVec.extractLsb'_append_extractLsb'_eq_extractLsb' (by decide), BitVec.extractLsb'_append_extractLsb'_eq_extractLsb' (by decide), BitVec.extractLsb'_append_extractLsb'_eq_extractLsb' (by decide), BitVec.extractLsb'_append_extractLsb'_eq_extractLsb' (by decide), BitVec.extractLsb'_append_extractLsb'_eq_extractLsb' (by decide)]
  exact BitVec.extractLsb'_eq_self

@[simp] theorem fld_packVp_op (op : BitVec 6) (d : BitVec 7) (a : BitVec 7) (z : BitVec 2) (p : BitVec 3) (s : BitVec 2) (t : BitVec 2) (f : BitVec 3) :
    fld (packVp op d a z p s t f) 26 6 = op := by
  unfold fld packVp
  rw [BitVec.extractLsb'_append_eq_of_le (by decide), BitVec.extractLsb'_append_eq_of_le (by decide), BitVec.extractLsb'_append_eq_of_le (by decide), BitVec.extractLsb'_append_eq_of_le (by decide), BitVec.extractLsb'_append_eq_of_le (by decide), BitVec.extractLsb'_append_eq_of_le (by decide), BitVec.extractLsb'_append_eq_of_le (by decide)]
  exact BitVec.extractLsb'_eq_self

@[simp] theorem fld_packVp_d (op : BitVec 6) (d : BitVec 7) (a : BitVec 7) (z : BitVec 2) (p : BitVec 3) (s : BitVec 2) (t : BitVec 2) (f : BitVec 3) :
    fld (packVp op d a z p s t f) 19 7 = d := by
  unfold fld packVp
  rw [BitVec.extractLsb'_append_eq_of_le (by decide), BitVec.extractLsb'_append_eq_of_le (by decide), BitVec.extractLsb'_append_eq_of_le (by decide), BitVec.extractLsb'_append_eq_of_le (by decide), BitVec.extractLsb'_append_eq_of_le (by decide), BitVec.extractLsb'_append_eq_of_le (by decide), BitVec.extractLsb'_append_eq_of_add_le (by decide)]
  exact BitVec.extractLsb'_eq_self

@[simp] theorem fld_packVp_a (op : BitVec 6) (d : BitVec 7) (a : BitVec 7) (z : BitVec 2) (p : BitVec 3) (s : BitVec 2) (t : BitVec 2) (f : BitVec 3) :
    fld (packVp op d a z p s t f) 12 7 = a := by
  unfold fld packVp
  rw [BitVec.extractLsb'_append_eq_of_le (by decide), BitVec.extractLsb'_append_eq_of_le (by decide), BitVec.extractLsb'_append_eq_of_le (by decide), BitVec.extractLsb'_append_eq_of_le (by decide), BitVec.extractLsb'_append_eq_of_le (by decide), BitVec.extractLsb'_append_eq_of_add_le (by decide)]
  exact BitVec.extractLsb'_eq_self

@[simp] theorem fld_packVp_z (op : BitVec 6) (d : BitVec 7) (a : BitVec 7) (z : BitVec 2) (p : BitVec 3) (s : BitVec 2) (t : BitVec 2) (f : BitVec 3) :
    fld (packVp op d a z p s t f) 10 2 = z := by
  unfold fld packVp
  rw [BitVec.extractLsb'_append_eq_of_le (by decide), BitVec.extractLsb'_append_eq_of_le (by decide), BitVec.extractLsb'_append_eq_of_le (by decide), BitVec.extractLsb'_append_eq_of_le (by decide), BitVec.extractLsb'_append_eq_of_add_le (by decide)]
  exact BitVec.extractLsb'_eq_self

@[simp] theorem fld_packVp_p (op : BitVec 6) (d : BitVec 7) (a : BitVec 7) (z : BitVec 2) (p : BitVec 3) (s : BitVec 2) (t : BitVec 2) (f : BitVec 3) :
    fld (packVp op d a z p s t f) 7 3 = p := by
  unfold fld packVp
  rw [BitVec.extractLsb'_append_eq_of_le (by decide), BitVec.extractLsb'_append_eq_of_le (by decide), BitVec.extractLsb'_append_eq_of_le (by decide), BitVec.extractLsb'_append_eq_of_add_le (by decide)]
  exact BitVec.extractLsb'_eq_self

@[simp] theorem fld_packVp_s (op : BitVec 6) (d : BitVec 7) (a : BitVec 7) (z : BitVec 2) (p : BitVec 3) (s : BitVec 2) (t : BitVec 2) (f : BitVec 3) :
    fld (packVp op d a z p s t f) 5 2 = s := by
  unfold fld packVp
  rw [BitVec.extractLsb'_append_eq_of_le (by decide), BitVec.extractLsb'_append_eq_of_le (by decide), BitVec.extractLsb'_append_eq_of_add_le (by decide)]
  exact BitVec.extractLsb'_eq_self

@[simp] theorem fld_packVp_t (op : BitVec 6) (d : BitVec 7) (a : BitVec 7) (z : BitVec 2) (p : BitVec 3) (s : BitVec 2) (t : BitVec 2) (f : BitVec 3) :
    fld (packVp op d a z p s t f) 3 2 = t := by
  unfold fld packVp
  rw [BitVec.extractLsb'_append_eq_of_le (by decide), BitVec.extractLsb'_append_eq_of_add_le (by decide)]
  exact BitVec.extractLsb'_eq_self

@[simp] theorem fld_packVp_f (op : BitVec 6) (d : BitVec 7) (a : BitVec 7) (z : BitVec 2) (p : BitVec 3) (s : BitVec 2) (t : BitVec 2) (f : BitVec 3) :
    fld (packVp op d a z p s t f) 0 3 = f := by
  unfold fld packVp
  rw [BitVec.extractLsb'_append_eq_of_add_le (by decide)]
  exact BitVec.extractLsb'_eq_self

theorem packVp_fld (w : IWord) :
    packVp (fld w 26 6) (fld w 19 7) (fld w 12 7) (fld w 10 2) (fld w 7 3) (fld w 5 2) (fld w 3 2) (fld w 0 3) = w := by
  unfold packVp fld
  rw [BitVec.extractLsb'_append_extractLsb'_eq_extractLsb' (by decide), BitVec.extractLsb'_append_extractLsb'_eq_extractLsb' (by decide), BitVec.extractLsb'_append_extractLsb'_eq_extractLsb' (by decide), BitVec.extractLsb'_append_extractLsb'_eq_extractLsb' (by decide), BitVec.extractLsb'_append_extractLsb'_eq_extractLsb' (by decide), BitVec.extractLsb'_append_extractLsb'_eq_extractLsb' (by decide), BitVec.extractLsb'_append_extractLsb'_eq_extractLsb' (by decide)]
  exact BitVec.extractLsb'_eq_self

@[simp] theorem fld_packW_op (op : BitVec 6) (d : BitVec 7) (a : BitVec 5) (b : BitVec 5) (t : BitVec 2) (f : BitVec 7) :
    fld (packW op d a b t f) 26 6 = op := by
  unfold fld packW
  rw [BitVec.extractLsb'_append_eq_of_le (by decide), BitVec.extractLsb'_append_eq_of_le (by decide), BitVec.extractLsb'_append_eq_of_le (by decide), BitVec.extractLsb'_append_eq_of_le (by decide), BitVec.extractLsb'_append_eq_of_le (by decide)]
  exact BitVec.extractLsb'_eq_self

@[simp] theorem fld_packW_d (op : BitVec 6) (d : BitVec 7) (a : BitVec 5) (b : BitVec 5) (t : BitVec 2) (f : BitVec 7) :
    fld (packW op d a b t f) 19 7 = d := by
  unfold fld packW
  rw [BitVec.extractLsb'_append_eq_of_le (by decide), BitVec.extractLsb'_append_eq_of_le (by decide), BitVec.extractLsb'_append_eq_of_le (by decide), BitVec.extractLsb'_append_eq_of_le (by decide), BitVec.extractLsb'_append_eq_of_add_le (by decide)]
  exact BitVec.extractLsb'_eq_self

@[simp] theorem fld_packW_a (op : BitVec 6) (d : BitVec 7) (a : BitVec 5) (b : BitVec 5) (t : BitVec 2) (f : BitVec 7) :
    fld (packW op d a b t f) 14 5 = a := by
  unfold fld packW
  rw [BitVec.extractLsb'_append_eq_of_le (by decide), BitVec.extractLsb'_append_eq_of_le (by decide), BitVec.extractLsb'_append_eq_of_le (by decide), BitVec.extractLsb'_append_eq_of_add_le (by decide)]
  exact BitVec.extractLsb'_eq_self

@[simp] theorem fld_packW_b (op : BitVec 6) (d : BitVec 7) (a : BitVec 5) (b : BitVec 5) (t : BitVec 2) (f : BitVec 7) :
    fld (packW op d a b t f) 9 5 = b := by
  unfold fld packW
  rw [BitVec.extractLsb'_append_eq_of_le (by decide), BitVec.extractLsb'_append_eq_of_le (by decide), BitVec.extractLsb'_append_eq_of_add_le (by decide)]
  exact BitVec.extractLsb'_eq_self

@[simp] theorem fld_packW_t (op : BitVec 6) (d : BitVec 7) (a : BitVec 5) (b : BitVec 5) (t : BitVec 2) (f : BitVec 7) :
    fld (packW op d a b t f) 7 2 = t := by
  unfold fld packW
  rw [BitVec.extractLsb'_append_eq_of_le (by decide), BitVec.extractLsb'_append_eq_of_add_le (by decide)]
  exact BitVec.extractLsb'_eq_self

@[simp] theorem fld_packW_f (op : BitVec 6) (d : BitVec 7) (a : BitVec 5) (b : BitVec 5) (t : BitVec 2) (f : BitVec 7) :
    fld (packW op d a b t f) 0 7 = f := by
  unfold fld packW
  rw [BitVec.extractLsb'_append_eq_of_add_le (by decide)]
  exact BitVec.extractLsb'_eq_self

theorem packW_fld (w : IWord) :
    packW (fld w 26 6) (fld w 19 7) (fld w 14 5) (fld w 9 5) (fld w 7 2) (fld w 0 7) = w := by
  unfold packW fld
  rw [BitVec.extractLsb'_append_extractLsb'_eq_extractLsb' (by decide), BitVec.extractLsb'_append_extractLsb'_eq_extractLsb' (by decide), BitVec.extractLsb'_append_extractLsb'_eq_extractLsb' (by decide), BitVec.extractLsb'_append_extractLsb'_eq_extractLsb' (by decide), BitVec.extractLsb'_append_extractLsb'_eq_extractLsb' (by decide)]
  exact BitVec.extractLsb'_eq_self

@[simp] theorem fld_packWm_op (op : BitVec 6) (z : BitVec 4) (m : BitVec 3) (a : BitVec 5) (b : BitVec 5) (t : BitVec 2) (f : BitVec 7) :
    fld (packWm op z m a b t f) 26 6 = op := by
  unfold fld packWm
  rw [BitVec.extractLsb'_append_eq_of_le (by decide), BitVec.extractLsb'_append_eq_of_le (by decide), BitVec.extractLsb'_append_eq_of_le (by decide), BitVec.extractLsb'_append_eq_of_le (by decide), BitVec.extractLsb'_append_eq_of_le (by decide), BitVec.extractLsb'_append_eq_of_le (by decide)]
  exact BitVec.extractLsb'_eq_self

@[simp] theorem fld_packWm_z (op : BitVec 6) (z : BitVec 4) (m : BitVec 3) (a : BitVec 5) (b : BitVec 5) (t : BitVec 2) (f : BitVec 7) :
    fld (packWm op z m a b t f) 22 4 = z := by
  unfold fld packWm
  rw [BitVec.extractLsb'_append_eq_of_le (by decide), BitVec.extractLsb'_append_eq_of_le (by decide), BitVec.extractLsb'_append_eq_of_le (by decide), BitVec.extractLsb'_append_eq_of_le (by decide), BitVec.extractLsb'_append_eq_of_le (by decide), BitVec.extractLsb'_append_eq_of_add_le (by decide)]
  exact BitVec.extractLsb'_eq_self

@[simp] theorem fld_packWm_m (op : BitVec 6) (z : BitVec 4) (m : BitVec 3) (a : BitVec 5) (b : BitVec 5) (t : BitVec 2) (f : BitVec 7) :
    fld (packWm op z m a b t f) 19 3 = m := by
  unfold fld packWm
  rw [BitVec.extractLsb'_append_eq_of_le (by decide), BitVec.extractLsb'_append_eq_of_le (by decide), BitVec.extractLsb'_append_eq_of_le (by decide), BitVec.extractLsb'_append_eq_of_le (by decide), BitVec.extractLsb'_append_eq_of_add_le (by decide)]
  exact BitVec.extractLsb'_eq_self

@[simp] theorem fld_packWm_a (op : BitVec 6) (z : BitVec 4) (m : BitVec 3) (a : BitVec 5) (b : BitVec 5) (t : BitVec 2) (f : BitVec 7) :
    fld (packWm op z m a b t f) 14 5 = a := by
  unfold fld packWm
  rw [BitVec.extractLsb'_append_eq_of_le (by decide), BitVec.extractLsb'_append_eq_of_le (by decide), BitVec.extractLsb'_append_eq_of_le (by decide), BitVec.extractLsb'_append_eq_of_add_le (by decide)]
  exact BitVec.extractLsb'_eq_self

@[simp] theorem fld_packWm_b (op : BitVec 6) (z : BitVec 4) (m : BitVec 3) (a : BitVec 5) (b : BitVec 5) (t : BitVec 2) (f : BitVec 7) :
    fld (packWm op z m a b t f) 9 5 = b := by
  unfold fld packWm
  rw [BitVec.extractLsb'_append_eq_of_le (by decide), BitVec.extractLsb'_append_eq_of_le (by decide), BitVec.extractLsb'_append_eq_of_add_le (by decide)]
  exact BitVec.extractLsb'_eq_self

@[simp] theorem fld_packWm_t (op : BitVec 6) (z : BitVec 4) (m : BitVec 3) (a : BitVec 5) (b : BitVec 5) (t : BitVec 2) (f : BitVec 7) :
    fld (packWm op z m a b t f) 7 2 = t := by
  unfold fld packWm
  rw [BitVec.extractLsb'_append_eq_of_le (by decide), BitVec.extractLsb'_append_eq_of_add_le (by decide)]
  exact BitVec.extractLsb'_eq_self

@[simp] theorem fld_packWm_f (op : BitVec 6) (z : BitVec 4) (m : BitVec 3) (a : BitVec 5) (b : BitVec 5) (t : BitVec 2) (f : BitVec 7) :
    fld (packWm op z m a b t f) 0 7 = f := by
  unfold fld packWm
  rw [BitVec.extractLsb'_append_eq_of_add_le (by decide)]
  exact BitVec.extractLsb'_eq_self

theorem packWm_fld (w : IWord) :
    packWm (fld w 26 6) (fld w 22 4) (fld w 19 3) (fld w 14 5) (fld w 9 5) (fld w 7 2) (fld w 0 7) = w := by
  unfold packWm fld
  rw [BitVec.extractLsb'_append_extractLsb'_eq_extractLsb' (by decide), BitVec.extractLsb'_append_extractLsb'_eq_extractLsb' (by decide), BitVec.extractLsb'_append_extractLsb'_eq_extractLsb' (by decide), BitVec.extractLsb'_append_extractLsb'_eq_extractLsb' (by decide), BitVec.extractLsb'_append_extractLsb'_eq_extractLsb' (by decide), BitVec.extractLsb'_append_extractLsb'_eq_extractLsb' (by decide)]
  exact BitVec.extractLsb'_eq_self

@[simp] theorem fld_packM_op (op : BitVec 6) (c : BitVec 3) (a : BitVec 5) (b : BitVec 5) (x : BitVec 3) (y : BitVec 3) (k : BitVec 1) (f : BitVec 6) :
    fld (packM op c a b x y k f) 26 6 = op := by
  unfold fld packM
  rw [BitVec.extractLsb'_append_eq_of_le (by decide), BitVec.extractLsb'_append_eq_of_le (by decide), BitVec.extractLsb'_append_eq_of_le (by decide), BitVec.extractLsb'_append_eq_of_le (by decide), BitVec.extractLsb'_append_eq_of_le (by decide), BitVec.extractLsb'_append_eq_of_le (by decide), BitVec.extractLsb'_append_eq_of_le (by decide)]
  exact BitVec.extractLsb'_eq_self

@[simp] theorem fld_packM_c (op : BitVec 6) (c : BitVec 3) (a : BitVec 5) (b : BitVec 5) (x : BitVec 3) (y : BitVec 3) (k : BitVec 1) (f : BitVec 6) :
    fld (packM op c a b x y k f) 23 3 = c := by
  unfold fld packM
  rw [BitVec.extractLsb'_append_eq_of_le (by decide), BitVec.extractLsb'_append_eq_of_le (by decide), BitVec.extractLsb'_append_eq_of_le (by decide), BitVec.extractLsb'_append_eq_of_le (by decide), BitVec.extractLsb'_append_eq_of_le (by decide), BitVec.extractLsb'_append_eq_of_le (by decide), BitVec.extractLsb'_append_eq_of_add_le (by decide)]
  exact BitVec.extractLsb'_eq_self

@[simp] theorem fld_packM_a (op : BitVec 6) (c : BitVec 3) (a : BitVec 5) (b : BitVec 5) (x : BitVec 3) (y : BitVec 3) (k : BitVec 1) (f : BitVec 6) :
    fld (packM op c a b x y k f) 18 5 = a := by
  unfold fld packM
  rw [BitVec.extractLsb'_append_eq_of_le (by decide), BitVec.extractLsb'_append_eq_of_le (by decide), BitVec.extractLsb'_append_eq_of_le (by decide), BitVec.extractLsb'_append_eq_of_le (by decide), BitVec.extractLsb'_append_eq_of_le (by decide), BitVec.extractLsb'_append_eq_of_add_le (by decide)]
  exact BitVec.extractLsb'_eq_self

@[simp] theorem fld_packM_b (op : BitVec 6) (c : BitVec 3) (a : BitVec 5) (b : BitVec 5) (x : BitVec 3) (y : BitVec 3) (k : BitVec 1) (f : BitVec 6) :
    fld (packM op c a b x y k f) 13 5 = b := by
  unfold fld packM
  rw [BitVec.extractLsb'_append_eq_of_le (by decide), BitVec.extractLsb'_append_eq_of_le (by decide), BitVec.extractLsb'_append_eq_of_le (by decide), BitVec.extractLsb'_append_eq_of_le (by decide), BitVec.extractLsb'_append_eq_of_add_le (by decide)]
  exact BitVec.extractLsb'_eq_self

@[simp] theorem fld_packM_x (op : BitVec 6) (c : BitVec 3) (a : BitVec 5) (b : BitVec 5) (x : BitVec 3) (y : BitVec 3) (k : BitVec 1) (f : BitVec 6) :
    fld (packM op c a b x y k f) 10 3 = x := by
  unfold fld packM
  rw [BitVec.extractLsb'_append_eq_of_le (by decide), BitVec.extractLsb'_append_eq_of_le (by decide), BitVec.extractLsb'_append_eq_of_le (by decide), BitVec.extractLsb'_append_eq_of_add_le (by decide)]
  exact BitVec.extractLsb'_eq_self

@[simp] theorem fld_packM_y (op : BitVec 6) (c : BitVec 3) (a : BitVec 5) (b : BitVec 5) (x : BitVec 3) (y : BitVec 3) (k : BitVec 1) (f : BitVec 6) :
    fld (packM op c a b x y k f) 7 3 = y := by
  unfold fld packM
  rw [BitVec.extractLsb'_append_eq_of_le (by decide), BitVec.extractLsb'_append_eq_of_le (by decide), BitVec.extractLsb'_append_eq_of_add_le (by decide)]
  exact BitVec.extractLsb'_eq_self

@[simp] theorem fld_packM_k (op : BitVec 6) (c : BitVec 3) (a : BitVec 5) (b : BitVec 5) (x : BitVec 3) (y : BitVec 3) (k : BitVec 1) (f : BitVec 6) :
    fld (packM op c a b x y k f) 6 1 = k := by
  unfold fld packM
  rw [BitVec.extractLsb'_append_eq_of_le (by decide), BitVec.extractLsb'_append_eq_of_add_le (by decide)]
  exact BitVec.extractLsb'_eq_self

@[simp] theorem fld_packM_f (op : BitVec 6) (c : BitVec 3) (a : BitVec 5) (b : BitVec 5) (x : BitVec 3) (y : BitVec 3) (k : BitVec 1) (f : BitVec 6) :
    fld (packM op c a b x y k f) 0 6 = f := by
  unfold fld packM
  rw [BitVec.extractLsb'_append_eq_of_add_le (by decide)]
  exact BitVec.extractLsb'_eq_self

theorem packM_fld (w : IWord) :
    packM (fld w 26 6) (fld w 23 3) (fld w 18 5) (fld w 13 5) (fld w 10 3) (fld w 7 3) (fld w 6 1) (fld w 0 6) = w := by
  unfold packM fld
  rw [BitVec.extractLsb'_append_extractLsb'_eq_extractLsb' (by decide), BitVec.extractLsb'_append_extractLsb'_eq_extractLsb' (by decide), BitVec.extractLsb'_append_extractLsb'_eq_extractLsb' (by decide), BitVec.extractLsb'_append_extractLsb'_eq_extractLsb' (by decide), BitVec.extractLsb'_append_extractLsb'_eq_extractLsb' (by decide), BitVec.extractLsb'_append_extractLsb'_eq_extractLsb' (by decide), BitVec.extractLsb'_append_extractLsb'_eq_extractLsb' (by decide)]
  exact BitVec.extractLsb'_eq_self

@[simp] theorem fld_packX_op (op : BitVec 6) (d : BitVec 5) (a : BitVec 5) (b : BitVec 5) (c : BitVec 5) (f : BitVec 6) :
    fld (packX op d a b c f) 26 6 = op := by
  unfold fld packX
  rw [BitVec.extractLsb'_append_eq_of_le (by decide), BitVec.extractLsb'_append_eq_of_le (by decide), BitVec.extractLsb'_append_eq_of_le (by decide), BitVec.extractLsb'_append_eq_of_le (by decide), BitVec.extractLsb'_append_eq_of_le (by decide)]
  exact BitVec.extractLsb'_eq_self

@[simp] theorem fld_packX_d (op : BitVec 6) (d : BitVec 5) (a : BitVec 5) (b : BitVec 5) (c : BitVec 5) (f : BitVec 6) :
    fld (packX op d a b c f) 21 5 = d := by
  unfold fld packX
  rw [BitVec.extractLsb'_append_eq_of_le (by decide), BitVec.extractLsb'_append_eq_of_le (by decide), BitVec.extractLsb'_append_eq_of_le (by decide), BitVec.extractLsb'_append_eq_of_le (by decide), BitVec.extractLsb'_append_eq_of_add_le (by decide)]
  exact BitVec.extractLsb'_eq_self

@[simp] theorem fld_packX_a (op : BitVec 6) (d : BitVec 5) (a : BitVec 5) (b : BitVec 5) (c : BitVec 5) (f : BitVec 6) :
    fld (packX op d a b c f) 16 5 = a := by
  unfold fld packX
  rw [BitVec.extractLsb'_append_eq_of_le (by decide), BitVec.extractLsb'_append_eq_of_le (by decide), BitVec.extractLsb'_append_eq_of_le (by decide), BitVec.extractLsb'_append_eq_of_add_le (by decide)]
  exact BitVec.extractLsb'_eq_self

@[simp] theorem fld_packX_b (op : BitVec 6) (d : BitVec 5) (a : BitVec 5) (b : BitVec 5) (c : BitVec 5) (f : BitVec 6) :
    fld (packX op d a b c f) 11 5 = b := by
  unfold fld packX
  rw [BitVec.extractLsb'_append_eq_of_le (by decide), BitVec.extractLsb'_append_eq_of_le (by decide), BitVec.extractLsb'_append_eq_of_add_le (by decide)]
  exact BitVec.extractLsb'_eq_self

@[simp] theorem fld_packX_c (op : BitVec 6) (d : BitVec 5) (a : BitVec 5) (b : BitVec 5) (c : BitVec 5) (f : BitVec 6) :
    fld (packX op d a b c f) 6 5 = c := by
  unfold fld packX
  rw [BitVec.extractLsb'_append_eq_of_le (by decide), BitVec.extractLsb'_append_eq_of_add_le (by decide)]
  exact BitVec.extractLsb'_eq_self

@[simp] theorem fld_packX_f (op : BitVec 6) (d : BitVec 5) (a : BitVec 5) (b : BitVec 5) (c : BitVec 5) (f : BitVec 6) :
    fld (packX op d a b c f) 0 6 = f := by
  unfold fld packX
  rw [BitVec.extractLsb'_append_eq_of_add_le (by decide)]
  exact BitVec.extractLsb'_eq_self

theorem packX_fld (w : IWord) :
    packX (fld w 26 6) (fld w 21 5) (fld w 16 5) (fld w 11 5) (fld w 6 5) (fld w 0 6) = w := by
  unfold packX fld
  rw [BitVec.extractLsb'_append_extractLsb'_eq_extractLsb' (by decide), BitVec.extractLsb'_append_extractLsb'_eq_extractLsb' (by decide), BitVec.extractLsb'_append_extractLsb'_eq_extractLsb' (by decide), BitVec.extractLsb'_append_extractLsb'_eq_extractLsb' (by decide), BitVec.extractLsb'_append_extractLsb'_eq_extractLsb' (by decide)]
  exact BitVec.extractLsb'_eq_self

@[simp] theorem fld_packXr_op (op : BitVec 6) (d : BitVec 5) (z : BitVec 1) (r : BitVec 4) (b : BitVec 5) (c : BitVec 5) (f : BitVec 6) :
    fld (packXr op d z r b c f) 26 6 = op := by
  unfold fld packXr
  rw [BitVec.extractLsb'_append_eq_of_le (by decide), BitVec.extractLsb'_append_eq_of_le (by decide), BitVec.extractLsb'_append_eq_of_le (by decide), BitVec.extractLsb'_append_eq_of_le (by decide), BitVec.extractLsb'_append_eq_of_le (by decide), BitVec.extractLsb'_append_eq_of_le (by decide)]
  exact BitVec.extractLsb'_eq_self

@[simp] theorem fld_packXr_d (op : BitVec 6) (d : BitVec 5) (z : BitVec 1) (r : BitVec 4) (b : BitVec 5) (c : BitVec 5) (f : BitVec 6) :
    fld (packXr op d z r b c f) 21 5 = d := by
  unfold fld packXr
  rw [BitVec.extractLsb'_append_eq_of_le (by decide), BitVec.extractLsb'_append_eq_of_le (by decide), BitVec.extractLsb'_append_eq_of_le (by decide), BitVec.extractLsb'_append_eq_of_le (by decide), BitVec.extractLsb'_append_eq_of_le (by decide), BitVec.extractLsb'_append_eq_of_add_le (by decide)]
  exact BitVec.extractLsb'_eq_self

@[simp] theorem fld_packXr_z (op : BitVec 6) (d : BitVec 5) (z : BitVec 1) (r : BitVec 4) (b : BitVec 5) (c : BitVec 5) (f : BitVec 6) :
    fld (packXr op d z r b c f) 20 1 = z := by
  unfold fld packXr
  rw [BitVec.extractLsb'_append_eq_of_le (by decide), BitVec.extractLsb'_append_eq_of_le (by decide), BitVec.extractLsb'_append_eq_of_le (by decide), BitVec.extractLsb'_append_eq_of_le (by decide), BitVec.extractLsb'_append_eq_of_add_le (by decide)]
  exact BitVec.extractLsb'_eq_self

@[simp] theorem fld_packXr_r (op : BitVec 6) (d : BitVec 5) (z : BitVec 1) (r : BitVec 4) (b : BitVec 5) (c : BitVec 5) (f : BitVec 6) :
    fld (packXr op d z r b c f) 16 4 = r := by
  unfold fld packXr
  rw [BitVec.extractLsb'_append_eq_of_le (by decide), BitVec.extractLsb'_append_eq_of_le (by decide), BitVec.extractLsb'_append_eq_of_le (by decide), BitVec.extractLsb'_append_eq_of_add_le (by decide)]
  exact BitVec.extractLsb'_eq_self

@[simp] theorem fld_packXr_b (op : BitVec 6) (d : BitVec 5) (z : BitVec 1) (r : BitVec 4) (b : BitVec 5) (c : BitVec 5) (f : BitVec 6) :
    fld (packXr op d z r b c f) 11 5 = b := by
  unfold fld packXr
  rw [BitVec.extractLsb'_append_eq_of_le (by decide), BitVec.extractLsb'_append_eq_of_le (by decide), BitVec.extractLsb'_append_eq_of_add_le (by decide)]
  exact BitVec.extractLsb'_eq_self

@[simp] theorem fld_packXr_c (op : BitVec 6) (d : BitVec 5) (z : BitVec 1) (r : BitVec 4) (b : BitVec 5) (c : BitVec 5) (f : BitVec 6) :
    fld (packXr op d z r b c f) 6 5 = c := by
  unfold fld packXr
  rw [BitVec.extractLsb'_append_eq_of_le (by decide), BitVec.extractLsb'_append_eq_of_add_le (by decide)]
  exact BitVec.extractLsb'_eq_self

@[simp] theorem fld_packXr_f (op : BitVec 6) (d : BitVec 5) (z : BitVec 1) (r : BitVec 4) (b : BitVec 5) (c : BitVec 5) (f : BitVec 6) :
    fld (packXr op d z r b c f) 0 6 = f := by
  unfold fld packXr
  rw [BitVec.extractLsb'_append_eq_of_add_le (by decide)]
  exact BitVec.extractLsb'_eq_self

theorem packXr_fld (w : IWord) :
    packXr (fld w 26 6) (fld w 21 5) (fld w 20 1) (fld w 16 4) (fld w 11 5) (fld w 6 5) (fld w 0 6) = w := by
  unfold packXr fld
  rw [BitVec.extractLsb'_append_extractLsb'_eq_extractLsb' (by decide), BitVec.extractLsb'_append_extractLsb'_eq_extractLsb' (by decide), BitVec.extractLsb'_append_extractLsb'_eq_extractLsb' (by decide), BitVec.extractLsb'_append_extractLsb'_eq_extractLsb' (by decide), BitVec.extractLsb'_append_extractLsb'_eq_extractLsb' (by decide), BitVec.extractLsb'_append_extractLsb'_eq_extractLsb' (by decide)]
  exact BitVec.extractLsb'_eq_self

@[simp] theorem fld_packXrm_op (op : BitVec 6) (d : BitVec 5) (z : BitVec 1) (r : BitVec 4) (b : BitVec 5) (y : BitVec 3) (m : BitVec 2) (f : BitVec 6) :
    fld (packXrm op d z r b y m f) 26 6 = op := by
  unfold fld packXrm
  rw [BitVec.extractLsb'_append_eq_of_le (by decide), BitVec.extractLsb'_append_eq_of_le (by decide), BitVec.extractLsb'_append_eq_of_le (by decide), BitVec.extractLsb'_append_eq_of_le (by decide), BitVec.extractLsb'_append_eq_of_le (by decide), BitVec.extractLsb'_append_eq_of_le (by decide), BitVec.extractLsb'_append_eq_of_le (by decide)]
  exact BitVec.extractLsb'_eq_self

@[simp] theorem fld_packXrm_d (op : BitVec 6) (d : BitVec 5) (z : BitVec 1) (r : BitVec 4) (b : BitVec 5) (y : BitVec 3) (m : BitVec 2) (f : BitVec 6) :
    fld (packXrm op d z r b y m f) 21 5 = d := by
  unfold fld packXrm
  rw [BitVec.extractLsb'_append_eq_of_le (by decide), BitVec.extractLsb'_append_eq_of_le (by decide), BitVec.extractLsb'_append_eq_of_le (by decide), BitVec.extractLsb'_append_eq_of_le (by decide), BitVec.extractLsb'_append_eq_of_le (by decide), BitVec.extractLsb'_append_eq_of_le (by decide), BitVec.extractLsb'_append_eq_of_add_le (by decide)]
  exact BitVec.extractLsb'_eq_self

@[simp] theorem fld_packXrm_z (op : BitVec 6) (d : BitVec 5) (z : BitVec 1) (r : BitVec 4) (b : BitVec 5) (y : BitVec 3) (m : BitVec 2) (f : BitVec 6) :
    fld (packXrm op d z r b y m f) 20 1 = z := by
  unfold fld packXrm
  rw [BitVec.extractLsb'_append_eq_of_le (by decide), BitVec.extractLsb'_append_eq_of_le (by decide), BitVec.extractLsb'_append_eq_of_le (by decide), BitVec.extractLsb'_append_eq_of_le (by decide), BitVec.extractLsb'_append_eq_of_le (by decide), BitVec.extractLsb'_append_eq_of_add_le (by decide)]
  exact BitVec.extractLsb'_eq_self

@[simp] theorem fld_packXrm_r (op : BitVec 6) (d : BitVec 5) (z : BitVec 1) (r : BitVec 4) (b : BitVec 5) (y : BitVec 3) (m : BitVec 2) (f : BitVec 6) :
    fld (packXrm op d z r b y m f) 16 4 = r := by
  unfold fld packXrm
  rw [BitVec.extractLsb'_append_eq_of_le (by decide), BitVec.extractLsb'_append_eq_of_le (by decide), BitVec.extractLsb'_append_eq_of_le (by decide), BitVec.extractLsb'_append_eq_of_le (by decide), BitVec.extractLsb'_append_eq_of_add_le (by decide)]
  exact BitVec.extractLsb'_eq_self

@[simp] theorem fld_packXrm_b (op : BitVec 6) (d : BitVec 5) (z : BitVec 1) (r : BitVec 4) (b : BitVec 5) (y : BitVec 3) (m : BitVec 2) (f : BitVec 6) :
    fld (packXrm op d z r b y m f) 11 5 = b := by
  unfold fld packXrm
  rw [BitVec.extractLsb'_append_eq_of_le (by decide), BitVec.extractLsb'_append_eq_of_le (by decide), BitVec.extractLsb'_append_eq_of_le (by decide), BitVec.extractLsb'_append_eq_of_add_le (by decide)]
  exact BitVec.extractLsb'_eq_self

@[simp] theorem fld_packXrm_y (op : BitVec 6) (d : BitVec 5) (z : BitVec 1) (r : BitVec 4) (b : BitVec 5) (y : BitVec 3) (m : BitVec 2) (f : BitVec 6) :
    fld (packXrm op d z r b y m f) 8 3 = y := by
  unfold fld packXrm
  rw [BitVec.extractLsb'_append_eq_of_le (by decide), BitVec.extractLsb'_append_eq_of_le (by decide), BitVec.extractLsb'_append_eq_of_add_le (by decide)]
  exact BitVec.extractLsb'_eq_self

@[simp] theorem fld_packXrm_m (op : BitVec 6) (d : BitVec 5) (z : BitVec 1) (r : BitVec 4) (b : BitVec 5) (y : BitVec 3) (m : BitVec 2) (f : BitVec 6) :
    fld (packXrm op d z r b y m f) 6 2 = m := by
  unfold fld packXrm
  rw [BitVec.extractLsb'_append_eq_of_le (by decide), BitVec.extractLsb'_append_eq_of_add_le (by decide)]
  exact BitVec.extractLsb'_eq_self

@[simp] theorem fld_packXrm_f (op : BitVec 6) (d : BitVec 5) (z : BitVec 1) (r : BitVec 4) (b : BitVec 5) (y : BitVec 3) (m : BitVec 2) (f : BitVec 6) :
    fld (packXrm op d z r b y m f) 0 6 = f := by
  unfold fld packXrm
  rw [BitVec.extractLsb'_append_eq_of_add_le (by decide)]
  exact BitVec.extractLsb'_eq_self

theorem packXrm_fld (w : IWord) :
    packXrm (fld w 26 6) (fld w 21 5) (fld w 20 1) (fld w 16 4) (fld w 11 5) (fld w 8 3) (fld w 6 2) (fld w 0 6) = w := by
  unfold packXrm fld
  rw [BitVec.extractLsb'_append_extractLsb'_eq_extractLsb' (by decide), BitVec.extractLsb'_append_extractLsb'_eq_extractLsb' (by decide), BitVec.extractLsb'_append_extractLsb'_eq_extractLsb' (by decide), BitVec.extractLsb'_append_extractLsb'_eq_extractLsb' (by decide), BitVec.extractLsb'_append_extractLsb'_eq_extractLsb' (by decide), BitVec.extractLsb'_append_extractLsb'_eq_extractLsb' (by decide), BitVec.extractLsb'_append_extractLsb'_eq_extractLsb' (by decide)]
  exact BitVec.extractLsb'_eq_self

@[simp] theorem fld_packXj_op (op : BitVec 6) (d : BitVec 5) (a : BitVec 5) (b : BitVec 5) (z : BitVec 4) (j : BitVec 1) (f : BitVec 6) :
    fld (packXj op d a b z j f) 26 6 = op := by
  unfold fld packXj
  rw [BitVec.extractLsb'_append_eq_of_le (by decide), BitVec.extractLsb'_append_eq_of_le (by decide), BitVec.extractLsb'_append_eq_of_le (by decide), BitVec.extractLsb'_append_eq_of_le (by decide), BitVec.extractLsb'_append_eq_of_le (by decide), BitVec.extractLsb'_append_eq_of_le (by decide)]
  exact BitVec.extractLsb'_eq_self

@[simp] theorem fld_packXj_d (op : BitVec 6) (d : BitVec 5) (a : BitVec 5) (b : BitVec 5) (z : BitVec 4) (j : BitVec 1) (f : BitVec 6) :
    fld (packXj op d a b z j f) 21 5 = d := by
  unfold fld packXj
  rw [BitVec.extractLsb'_append_eq_of_le (by decide), BitVec.extractLsb'_append_eq_of_le (by decide), BitVec.extractLsb'_append_eq_of_le (by decide), BitVec.extractLsb'_append_eq_of_le (by decide), BitVec.extractLsb'_append_eq_of_le (by decide), BitVec.extractLsb'_append_eq_of_add_le (by decide)]
  exact BitVec.extractLsb'_eq_self

@[simp] theorem fld_packXj_a (op : BitVec 6) (d : BitVec 5) (a : BitVec 5) (b : BitVec 5) (z : BitVec 4) (j : BitVec 1) (f : BitVec 6) :
    fld (packXj op d a b z j f) 16 5 = a := by
  unfold fld packXj
  rw [BitVec.extractLsb'_append_eq_of_le (by decide), BitVec.extractLsb'_append_eq_of_le (by decide), BitVec.extractLsb'_append_eq_of_le (by decide), BitVec.extractLsb'_append_eq_of_le (by decide), BitVec.extractLsb'_append_eq_of_add_le (by decide)]
  exact BitVec.extractLsb'_eq_self

@[simp] theorem fld_packXj_b (op : BitVec 6) (d : BitVec 5) (a : BitVec 5) (b : BitVec 5) (z : BitVec 4) (j : BitVec 1) (f : BitVec 6) :
    fld (packXj op d a b z j f) 11 5 = b := by
  unfold fld packXj
  rw [BitVec.extractLsb'_append_eq_of_le (by decide), BitVec.extractLsb'_append_eq_of_le (by decide), BitVec.extractLsb'_append_eq_of_le (by decide), BitVec.extractLsb'_append_eq_of_add_le (by decide)]
  exact BitVec.extractLsb'_eq_self

@[simp] theorem fld_packXj_z (op : BitVec 6) (d : BitVec 5) (a : BitVec 5) (b : BitVec 5) (z : BitVec 4) (j : BitVec 1) (f : BitVec 6) :
    fld (packXj op d a b z j f) 7 4 = z := by
  unfold fld packXj
  rw [BitVec.extractLsb'_append_eq_of_le (by decide), BitVec.extractLsb'_append_eq_of_le (by decide), BitVec.extractLsb'_append_eq_of_add_le (by decide)]
  exact BitVec.extractLsb'_eq_self

@[simp] theorem fld_packXj_j (op : BitVec 6) (d : BitVec 5) (a : BitVec 5) (b : BitVec 5) (z : BitVec 4) (j : BitVec 1) (f : BitVec 6) :
    fld (packXj op d a b z j f) 6 1 = j := by
  unfold fld packXj
  rw [BitVec.extractLsb'_append_eq_of_le (by decide), BitVec.extractLsb'_append_eq_of_add_le (by decide)]
  exact BitVec.extractLsb'_eq_self

@[simp] theorem fld_packXj_f (op : BitVec 6) (d : BitVec 5) (a : BitVec 5) (b : BitVec 5) (z : BitVec 4) (j : BitVec 1) (f : BitVec 6) :
    fld (packXj op d a b z j f) 0 6 = f := by
  unfold fld packXj
  rw [BitVec.extractLsb'_append_eq_of_add_le (by decide)]
  exact BitVec.extractLsb'_eq_self

theorem packXj_fld (w : IWord) :
    packXj (fld w 26 6) (fld w 21 5) (fld w 16 5) (fld w 11 5) (fld w 7 4) (fld w 6 1) (fld w 0 6) = w := by
  unfold packXj fld
  rw [BitVec.extractLsb'_append_extractLsb'_eq_extractLsb' (by decide), BitVec.extractLsb'_append_extractLsb'_eq_extractLsb' (by decide), BitVec.extractLsb'_append_extractLsb'_eq_extractLsb' (by decide), BitVec.extractLsb'_append_extractLsb'_eq_extractLsb' (by decide), BitVec.extractLsb'_append_extractLsb'_eq_extractLsb' (by decide), BitVec.extractLsb'_append_extractLsb'_eq_extractLsb' (by decide)]
  exact BitVec.extractLsb'_eq_self

@[simp] theorem fld_packXs_op (op : BitVec 6) (d : BitVec 5) (a : BitVec 5) (b : BitVec 5) (z : BitVec 2) (s : BitVec 3) (f : BitVec 6) :
    fld (packXs op d a b z s f) 26 6 = op := by
  unfold fld packXs
  rw [BitVec.extractLsb'_append_eq_of_le (by decide), BitVec.extractLsb'_append_eq_of_le (by decide), BitVec.extractLsb'_append_eq_of_le (by decide), BitVec.extractLsb'_append_eq_of_le (by decide), BitVec.extractLsb'_append_eq_of_le (by decide), BitVec.extractLsb'_append_eq_of_le (by decide)]
  exact BitVec.extractLsb'_eq_self

@[simp] theorem fld_packXs_d (op : BitVec 6) (d : BitVec 5) (a : BitVec 5) (b : BitVec 5) (z : BitVec 2) (s : BitVec 3) (f : BitVec 6) :
    fld (packXs op d a b z s f) 21 5 = d := by
  unfold fld packXs
  rw [BitVec.extractLsb'_append_eq_of_le (by decide), BitVec.extractLsb'_append_eq_of_le (by decide), BitVec.extractLsb'_append_eq_of_le (by decide), BitVec.extractLsb'_append_eq_of_le (by decide), BitVec.extractLsb'_append_eq_of_le (by decide), BitVec.extractLsb'_append_eq_of_add_le (by decide)]
  exact BitVec.extractLsb'_eq_self

@[simp] theorem fld_packXs_a (op : BitVec 6) (d : BitVec 5) (a : BitVec 5) (b : BitVec 5) (z : BitVec 2) (s : BitVec 3) (f : BitVec 6) :
    fld (packXs op d a b z s f) 16 5 = a := by
  unfold fld packXs
  rw [BitVec.extractLsb'_append_eq_of_le (by decide), BitVec.extractLsb'_append_eq_of_le (by decide), BitVec.extractLsb'_append_eq_of_le (by decide), BitVec.extractLsb'_append_eq_of_le (by decide), BitVec.extractLsb'_append_eq_of_add_le (by decide)]
  exact BitVec.extractLsb'_eq_self

@[simp] theorem fld_packXs_b (op : BitVec 6) (d : BitVec 5) (a : BitVec 5) (b : BitVec 5) (z : BitVec 2) (s : BitVec 3) (f : BitVec 6) :
    fld (packXs op d a b z s f) 11 5 = b := by
  unfold fld packXs
  rw [BitVec.extractLsb'_append_eq_of_le (by decide), BitVec.extractLsb'_append_eq_of_le (by decide), BitVec.extractLsb'_append_eq_of_le (by decide), BitVec.extractLsb'_append_eq_of_add_le (by decide)]
  exact BitVec.extractLsb'_eq_self

@[simp] theorem fld_packXs_z (op : BitVec 6) (d : BitVec 5) (a : BitVec 5) (b : BitVec 5) (z : BitVec 2) (s : BitVec 3) (f : BitVec 6) :
    fld (packXs op d a b z s f) 9 2 = z := by
  unfold fld packXs
  rw [BitVec.extractLsb'_append_eq_of_le (by decide), BitVec.extractLsb'_append_eq_of_le (by decide), BitVec.extractLsb'_append_eq_of_add_le (by decide)]
  exact BitVec.extractLsb'_eq_self

@[simp] theorem fld_packXs_s (op : BitVec 6) (d : BitVec 5) (a : BitVec 5) (b : BitVec 5) (z : BitVec 2) (s : BitVec 3) (f : BitVec 6) :
    fld (packXs op d a b z s f) 6 3 = s := by
  unfold fld packXs
  rw [BitVec.extractLsb'_append_eq_of_le (by decide), BitVec.extractLsb'_append_eq_of_add_le (by decide)]
  exact BitVec.extractLsb'_eq_self

@[simp] theorem fld_packXs_f (op : BitVec 6) (d : BitVec 5) (a : BitVec 5) (b : BitVec 5) (z : BitVec 2) (s : BitVec 3) (f : BitVec 6) :
    fld (packXs op d a b z s f) 0 6 = f := by
  unfold fld packXs
  rw [BitVec.extractLsb'_append_eq_of_add_le (by decide)]
  exact BitVec.extractLsb'_eq_self

theorem packXs_fld (w : IWord) :
    packXs (fld w 26 6) (fld w 21 5) (fld w 16 5) (fld w 11 5) (fld w 9 2) (fld w 6 3) (fld w 0 6) = w := by
  unfold packXs fld
  rw [BitVec.extractLsb'_append_extractLsb'_eq_extractLsb' (by decide), BitVec.extractLsb'_append_extractLsb'_eq_extractLsb' (by decide), BitVec.extractLsb'_append_extractLsb'_eq_extractLsb' (by decide), BitVec.extractLsb'_append_extractLsb'_eq_extractLsb' (by decide), BitVec.extractLsb'_append_extractLsb'_eq_extractLsb' (by decide), BitVec.extractLsb'_append_extractLsb'_eq_extractLsb' (by decide)]
  exact BitVec.extractLsb'_eq_self

@[simp] theorem fld_packXo_op (op : BitVec 6) (d : BitVec 5) (a : BitVec 5) (b : BitVec 5) (c : BitVec 5) (z : BitVec 3) (o : BitVec 3) :
    fld (packXo op d a b c z o) 26 6 = op := by
  unfold fld packXo
  rw [BitVec.extractLsb'_append_eq_of_le (by decide), BitVec.extractLsb'_append_eq_of_le (by decide), BitVec.extractLsb'_append_eq_of_le (by decide), BitVec.extractLsb'_append_eq_of_le (by decide), BitVec.extractLsb'_append_eq_of_le (by decide), BitVec.extractLsb'_append_eq_of_le (by decide)]
  exact BitVec.extractLsb'_eq_self

@[simp] theorem fld_packXo_d (op : BitVec 6) (d : BitVec 5) (a : BitVec 5) (b : BitVec 5) (c : BitVec 5) (z : BitVec 3) (o : BitVec 3) :
    fld (packXo op d a b c z o) 21 5 = d := by
  unfold fld packXo
  rw [BitVec.extractLsb'_append_eq_of_le (by decide), BitVec.extractLsb'_append_eq_of_le (by decide), BitVec.extractLsb'_append_eq_of_le (by decide), BitVec.extractLsb'_append_eq_of_le (by decide), BitVec.extractLsb'_append_eq_of_le (by decide), BitVec.extractLsb'_append_eq_of_add_le (by decide)]
  exact BitVec.extractLsb'_eq_self

@[simp] theorem fld_packXo_a (op : BitVec 6) (d : BitVec 5) (a : BitVec 5) (b : BitVec 5) (c : BitVec 5) (z : BitVec 3) (o : BitVec 3) :
    fld (packXo op d a b c z o) 16 5 = a := by
  unfold fld packXo
  rw [BitVec.extractLsb'_append_eq_of_le (by decide), BitVec.extractLsb'_append_eq_of_le (by decide), BitVec.extractLsb'_append_eq_of_le (by decide), BitVec.extractLsb'_append_eq_of_le (by decide), BitVec.extractLsb'_append_eq_of_add_le (by decide)]
  exact BitVec.extractLsb'_eq_self

@[simp] theorem fld_packXo_b (op : BitVec 6) (d : BitVec 5) (a : BitVec 5) (b : BitVec 5) (c : BitVec 5) (z : BitVec 3) (o : BitVec 3) :
    fld (packXo op d a b c z o) 11 5 = b := by
  unfold fld packXo
  rw [BitVec.extractLsb'_append_eq_of_le (by decide), BitVec.extractLsb'_append_eq_of_le (by decide), BitVec.extractLsb'_append_eq_of_le (by decide), BitVec.extractLsb'_append_eq_of_add_le (by decide)]
  exact BitVec.extractLsb'_eq_self

@[simp] theorem fld_packXo_c (op : BitVec 6) (d : BitVec 5) (a : BitVec 5) (b : BitVec 5) (c : BitVec 5) (z : BitVec 3) (o : BitVec 3) :
    fld (packXo op d a b c z o) 6 5 = c := by
  unfold fld packXo
  rw [BitVec.extractLsb'_append_eq_of_le (by decide), BitVec.extractLsb'_append_eq_of_le (by decide), BitVec.extractLsb'_append_eq_of_add_le (by decide)]
  exact BitVec.extractLsb'_eq_self

@[simp] theorem fld_packXo_z (op : BitVec 6) (d : BitVec 5) (a : BitVec 5) (b : BitVec 5) (c : BitVec 5) (z : BitVec 3) (o : BitVec 3) :
    fld (packXo op d a b c z o) 3 3 = z := by
  unfold fld packXo
  rw [BitVec.extractLsb'_append_eq_of_le (by decide), BitVec.extractLsb'_append_eq_of_add_le (by decide)]
  exact BitVec.extractLsb'_eq_self

@[simp] theorem fld_packXo_o (op : BitVec 6) (d : BitVec 5) (a : BitVec 5) (b : BitVec 5) (c : BitVec 5) (z : BitVec 3) (o : BitVec 3) :
    fld (packXo op d a b c z o) 0 3 = o := by
  unfold fld packXo
  rw [BitVec.extractLsb'_append_eq_of_add_le (by decide)]
  exact BitVec.extractLsb'_eq_self

theorem packXo_fld (w : IWord) :
    packXo (fld w 26 6) (fld w 21 5) (fld w 16 5) (fld w 11 5) (fld w 6 5) (fld w 3 3) (fld w 0 3) = w := by
  unfold packXo fld
  rw [BitVec.extractLsb'_append_extractLsb'_eq_extractLsb' (by decide), BitVec.extractLsb'_append_extractLsb'_eq_extractLsb' (by decide), BitVec.extractLsb'_append_extractLsb'_eq_extractLsb' (by decide), BitVec.extractLsb'_append_extractLsb'_eq_extractLsb' (by decide), BitVec.extractLsb'_append_extractLsb'_eq_extractLsb' (by decide), BitVec.extractLsb'_append_extractLsb'_eq_extractLsb' (by decide)]
  exact BitVec.extractLsb'_eq_self

@[simp] theorem fld_packXw_op (op : BitVec 6) (d : BitVec 5) (a : BitVec 5) (b : BitVec 5) (z : BitVec 4) (w : BitVec 1) (y : BitVec 2) (o : BitVec 4) :
    fld (packXw op d a b z w y o) 26 6 = op := by
  unfold fld packXw
  rw [BitVec.extractLsb'_append_eq_of_le (by decide), BitVec.extractLsb'_append_eq_of_le (by decide), BitVec.extractLsb'_append_eq_of_le (by decide), BitVec.extractLsb'_append_eq_of_le (by decide), BitVec.extractLsb'_append_eq_of_le (by decide), BitVec.extractLsb'_append_eq_of_le (by decide), BitVec.extractLsb'_append_eq_of_le (by decide)]
  exact BitVec.extractLsb'_eq_self

@[simp] theorem fld_packXw_d (op : BitVec 6) (d : BitVec 5) (a : BitVec 5) (b : BitVec 5) (z : BitVec 4) (w : BitVec 1) (y : BitVec 2) (o : BitVec 4) :
    fld (packXw op d a b z w y o) 21 5 = d := by
  unfold fld packXw
  rw [BitVec.extractLsb'_append_eq_of_le (by decide), BitVec.extractLsb'_append_eq_of_le (by decide), BitVec.extractLsb'_append_eq_of_le (by decide), BitVec.extractLsb'_append_eq_of_le (by decide), BitVec.extractLsb'_append_eq_of_le (by decide), BitVec.extractLsb'_append_eq_of_le (by decide), BitVec.extractLsb'_append_eq_of_add_le (by decide)]
  exact BitVec.extractLsb'_eq_self

@[simp] theorem fld_packXw_a (op : BitVec 6) (d : BitVec 5) (a : BitVec 5) (b : BitVec 5) (z : BitVec 4) (w : BitVec 1) (y : BitVec 2) (o : BitVec 4) :
    fld (packXw op d a b z w y o) 16 5 = a := by
  unfold fld packXw
  rw [BitVec.extractLsb'_append_eq_of_le (by decide), BitVec.extractLsb'_append_eq_of_le (by decide), BitVec.extractLsb'_append_eq_of_le (by decide), BitVec.extractLsb'_append_eq_of_le (by decide), BitVec.extractLsb'_append_eq_of_le (by decide), BitVec.extractLsb'_append_eq_of_add_le (by decide)]
  exact BitVec.extractLsb'_eq_self

@[simp] theorem fld_packXw_b (op : BitVec 6) (d : BitVec 5) (a : BitVec 5) (b : BitVec 5) (z : BitVec 4) (w : BitVec 1) (y : BitVec 2) (o : BitVec 4) :
    fld (packXw op d a b z w y o) 11 5 = b := by
  unfold fld packXw
  rw [BitVec.extractLsb'_append_eq_of_le (by decide), BitVec.extractLsb'_append_eq_of_le (by decide), BitVec.extractLsb'_append_eq_of_le (by decide), BitVec.extractLsb'_append_eq_of_le (by decide), BitVec.extractLsb'_append_eq_of_add_le (by decide)]
  exact BitVec.extractLsb'_eq_self

@[simp] theorem fld_packXw_z (op : BitVec 6) (d : BitVec 5) (a : BitVec 5) (b : BitVec 5) (z : BitVec 4) (w : BitVec 1) (y : BitVec 2) (o : BitVec 4) :
    fld (packXw op d a b z w y o) 7 4 = z := by
  unfold fld packXw
  rw [BitVec.extractLsb'_append_eq_of_le (by decide), BitVec.extractLsb'_append_eq_of_le (by decide), BitVec.extractLsb'_append_eq_of_le (by decide), BitVec.extractLsb'_append_eq_of_add_le (by decide)]
  exact BitVec.extractLsb'_eq_self

@[simp] theorem fld_packXw_w (op : BitVec 6) (d : BitVec 5) (a : BitVec 5) (b : BitVec 5) (z : BitVec 4) (w : BitVec 1) (y : BitVec 2) (o : BitVec 4) :
    fld (packXw op d a b z w y o) 6 1 = w := by
  unfold fld packXw
  rw [BitVec.extractLsb'_append_eq_of_le (by decide), BitVec.extractLsb'_append_eq_of_le (by decide), BitVec.extractLsb'_append_eq_of_add_le (by decide)]
  exact BitVec.extractLsb'_eq_self

@[simp] theorem fld_packXw_y (op : BitVec 6) (d : BitVec 5) (a : BitVec 5) (b : BitVec 5) (z : BitVec 4) (w : BitVec 1) (y : BitVec 2) (o : BitVec 4) :
    fld (packXw op d a b z w y o) 4 2 = y := by
  unfold fld packXw
  rw [BitVec.extractLsb'_append_eq_of_le (by decide), BitVec.extractLsb'_append_eq_of_add_le (by decide)]
  exact BitVec.extractLsb'_eq_self

@[simp] theorem fld_packXw_o (op : BitVec 6) (d : BitVec 5) (a : BitVec 5) (b : BitVec 5) (z : BitVec 4) (w : BitVec 1) (y : BitVec 2) (o : BitVec 4) :
    fld (packXw op d a b z w y o) 0 4 = o := by
  unfold fld packXw
  rw [BitVec.extractLsb'_append_eq_of_add_le (by decide)]
  exact BitVec.extractLsb'_eq_self

theorem packXw_fld (w : IWord) :
    packXw (fld w 26 6) (fld w 21 5) (fld w 16 5) (fld w 11 5) (fld w 7 4) (fld w 6 1) (fld w 4 2) (fld w 0 4) = w := by
  unfold packXw fld
  rw [BitVec.extractLsb'_append_extractLsb'_eq_extractLsb' (by decide), BitVec.extractLsb'_append_extractLsb'_eq_extractLsb' (by decide), BitVec.extractLsb'_append_extractLsb'_eq_extractLsb' (by decide), BitVec.extractLsb'_append_extractLsb'_eq_extractLsb' (by decide), BitVec.extractLsb'_append_extractLsb'_eq_extractLsb' (by decide), BitVec.extractLsb'_append_extractLsb'_eq_extractLsb' (by decide), BitVec.extractLsb'_append_extractLsb'_eq_extractLsb' (by decide)]
  exact BitVec.extractLsb'_eq_self

@[simp] theorem fld_packAmo_op (op : BitVec 6) (d : BitVec 5) (a : BitVec 5) (b : BitVec 5) (z : BitVec 6) (w : BitVec 1) (fn : BitVec 4) :
    fld (packAmo op d a b z w fn) 26 6 = op := by
  unfold fld packAmo
  rw [BitVec.extractLsb'_append_eq_of_le (by decide), BitVec.extractLsb'_append_eq_of_le (by decide), BitVec.extractLsb'_append_eq_of_le (by decide), BitVec.extractLsb'_append_eq_of_le (by decide), BitVec.extractLsb'_append_eq_of_le (by decide), BitVec.extractLsb'_append_eq_of_le (by decide)]
  exact BitVec.extractLsb'_eq_self

@[simp] theorem fld_packAmo_d (op : BitVec 6) (d : BitVec 5) (a : BitVec 5) (b : BitVec 5) (z : BitVec 6) (w : BitVec 1) (fn : BitVec 4) :
    fld (packAmo op d a b z w fn) 21 5 = d := by
  unfold fld packAmo
  rw [BitVec.extractLsb'_append_eq_of_le (by decide), BitVec.extractLsb'_append_eq_of_le (by decide), BitVec.extractLsb'_append_eq_of_le (by decide), BitVec.extractLsb'_append_eq_of_le (by decide), BitVec.extractLsb'_append_eq_of_le (by decide), BitVec.extractLsb'_append_eq_of_add_le (by decide)]
  exact BitVec.extractLsb'_eq_self

@[simp] theorem fld_packAmo_a (op : BitVec 6) (d : BitVec 5) (a : BitVec 5) (b : BitVec 5) (z : BitVec 6) (w : BitVec 1) (fn : BitVec 4) :
    fld (packAmo op d a b z w fn) 16 5 = a := by
  unfold fld packAmo
  rw [BitVec.extractLsb'_append_eq_of_le (by decide), BitVec.extractLsb'_append_eq_of_le (by decide), BitVec.extractLsb'_append_eq_of_le (by decide), BitVec.extractLsb'_append_eq_of_le (by decide), BitVec.extractLsb'_append_eq_of_add_le (by decide)]
  exact BitVec.extractLsb'_eq_self

@[simp] theorem fld_packAmo_b (op : BitVec 6) (d : BitVec 5) (a : BitVec 5) (b : BitVec 5) (z : BitVec 6) (w : BitVec 1) (fn : BitVec 4) :
    fld (packAmo op d a b z w fn) 11 5 = b := by
  unfold fld packAmo
  rw [BitVec.extractLsb'_append_eq_of_le (by decide), BitVec.extractLsb'_append_eq_of_le (by decide), BitVec.extractLsb'_append_eq_of_le (by decide), BitVec.extractLsb'_append_eq_of_add_le (by decide)]
  exact BitVec.extractLsb'_eq_self

@[simp] theorem fld_packAmo_z (op : BitVec 6) (d : BitVec 5) (a : BitVec 5) (b : BitVec 5) (z : BitVec 6) (w : BitVec 1) (fn : BitVec 4) :
    fld (packAmo op d a b z w fn) 5 6 = z := by
  unfold fld packAmo
  rw [BitVec.extractLsb'_append_eq_of_le (by decide), BitVec.extractLsb'_append_eq_of_le (by decide), BitVec.extractLsb'_append_eq_of_add_le (by decide)]
  exact BitVec.extractLsb'_eq_self

@[simp] theorem fld_packAmo_w (op : BitVec 6) (d : BitVec 5) (a : BitVec 5) (b : BitVec 5) (z : BitVec 6) (w : BitVec 1) (fn : BitVec 4) :
    fld (packAmo op d a b z w fn) 4 1 = w := by
  unfold fld packAmo
  rw [BitVec.extractLsb'_append_eq_of_le (by decide), BitVec.extractLsb'_append_eq_of_add_le (by decide)]
  exact BitVec.extractLsb'_eq_self

@[simp] theorem fld_packAmo_fn (op : BitVec 6) (d : BitVec 5) (a : BitVec 5) (b : BitVec 5) (z : BitVec 6) (w : BitVec 1) (fn : BitVec 4) :
    fld (packAmo op d a b z w fn) 0 4 = fn := by
  unfold fld packAmo
  rw [BitVec.extractLsb'_append_eq_of_add_le (by decide)]
  exact BitVec.extractLsb'_eq_self

theorem packAmo_fld (w : IWord) :
    packAmo (fld w 26 6) (fld w 21 5) (fld w 16 5) (fld w 11 5) (fld w 5 6) (fld w 4 1) (fld w 0 4) = w := by
  unfold packAmo fld
  rw [BitVec.extractLsb'_append_extractLsb'_eq_extractLsb' (by decide), BitVec.extractLsb'_append_extractLsb'_eq_extractLsb' (by decide), BitVec.extractLsb'_append_extractLsb'_eq_extractLsb' (by decide), BitVec.extractLsb'_append_extractLsb'_eq_extractLsb' (by decide), BitVec.extractLsb'_append_extractLsb'_eq_extractLsb' (by decide), BitVec.extractLsb'_append_extractLsb'_eq_extractLsb' (by decide)]
  exact BitVec.extractLsb'_eq_self

@[simp] theorem fld_packS_op (op : BitVec 6) (d : BitVec 5) (a : BitVec 5) (k : BitVec 4) (c : BitVec 12) :
    fld (packS op d a k c) 26 6 = op := by
  unfold fld packS
  rw [BitVec.extractLsb'_append_eq_of_le (by decide), BitVec.extractLsb'_append_eq_of_le (by decide), BitVec.extractLsb'_append_eq_of_le (by decide), BitVec.extractLsb'_append_eq_of_le (by decide)]
  exact BitVec.extractLsb'_eq_self

@[simp] theorem fld_packS_d (op : BitVec 6) (d : BitVec 5) (a : BitVec 5) (k : BitVec 4) (c : BitVec 12) :
    fld (packS op d a k c) 21 5 = d := by
  unfold fld packS
  rw [BitVec.extractLsb'_append_eq_of_le (by decide), BitVec.extractLsb'_append_eq_of_le (by decide), BitVec.extractLsb'_append_eq_of_le (by decide), BitVec.extractLsb'_append_eq_of_add_le (by decide)]
  exact BitVec.extractLsb'_eq_self

@[simp] theorem fld_packS_a (op : BitVec 6) (d : BitVec 5) (a : BitVec 5) (k : BitVec 4) (c : BitVec 12) :
    fld (packS op d a k c) 16 5 = a := by
  unfold fld packS
  rw [BitVec.extractLsb'_append_eq_of_le (by decide), BitVec.extractLsb'_append_eq_of_le (by decide), BitVec.extractLsb'_append_eq_of_add_le (by decide)]
  exact BitVec.extractLsb'_eq_self

@[simp] theorem fld_packS_k (op : BitVec 6) (d : BitVec 5) (a : BitVec 5) (k : BitVec 4) (c : BitVec 12) :
    fld (packS op d a k c) 12 4 = k := by
  unfold fld packS
  rw [BitVec.extractLsb'_append_eq_of_le (by decide), BitVec.extractLsb'_append_eq_of_add_le (by decide)]
  exact BitVec.extractLsb'_eq_self

@[simp] theorem fld_packS_c (op : BitVec 6) (d : BitVec 5) (a : BitVec 5) (k : BitVec 4) (c : BitVec 12) :
    fld (packS op d a k c) 0 12 = c := by
  unfold fld packS
  rw [BitVec.extractLsb'_append_eq_of_add_le (by decide)]
  exact BitVec.extractLsb'_eq_self

theorem packS_fld (w : IWord) :
    packS (fld w 26 6) (fld w 21 5) (fld w 16 5) (fld w 12 4) (fld w 0 12) = w := by
  unfold packS fld
  rw [BitVec.extractLsb'_append_extractLsb'_eq_extractLsb' (by decide), BitVec.extractLsb'_append_extractLsb'_eq_extractLsb' (by decide), BitVec.extractLsb'_append_extractLsb'_eq_extractLsb' (by decide), BitVec.extractLsb'_append_extractLsb'_eq_extractLsb' (by decide)]
  exact BitVec.extractLsb'_eq_self

end Sys2Proof
end

