-- ==== Sys2Proof/Laws/State.lean ====
section
/-! SUPPORT. The updates of the state: what each leaves alone, field by field, and what it puts where. -/

namespace Sys2Proof.Machine

@[simp] theorem State.setDev_agenda (s : State) (t : Nat) (d : TenantDev) : (s.setDev t d).agenda = s.agenda := rfl
@[simp] theorem State.setDev_actor (s : State) (t : Nat) (d : TenantDev) : (s.setDev t d).actor = s.actor := rfl
@[simp] theorem State.setDev_rot (s : State) (t : Nat) (d : TenantDev) : (s.setDev t d).rot = s.rot := rfl
@[simp] theorem State.setDev_opening (s : State) (t : Nat) (d : TenantDev) : (s.setDev t d).opening = s.opening := rfl
@[simp] theorem State.setDev_tick (s : State) (t : Nat) (d : TenantDev) : (s.setDev t d).tick = s.tick := rfl
@[simp] theorem State.setDev_draw (s : State) (t : Nat) (d : TenantDev) : (s.setDev t d).draw = s.draw := rfl
@[simp] theorem State.setDev_cycle (s : State) (t : Nat) (d : TenantDev) : (s.setDev t d).cycle = s.cycle := rfl
@[simp] theorem State.setDev_phase (s : State) (t : Nat) (d : TenantDev) : (s.setDev t d).phase = s.phase := rfl
@[simp] theorem State.setDev_com (s : State) (t : Nat) (d : TenantDev) : (s.setDev t d).com = s.com := rfl
@[simp] theorem State.setDev_tenants (s : State) (t : Nat) (d : TenantDev) : (s.setDev t d).tenants = s.tenants := rfl
@[simp] theorem State.setDev_launches (s : State) (t : Nat) (d : TenantDev) : (s.setDev t d).launches = s.launches := rfl
@[simp] theorem State.setDev_presented (s : State) (t : Nat) (d : TenantDev) : (s.setDev t d).presented = s.presented := rfl
@[simp] theorem State.setDev_hbm (s : State) (t : Nat) (d : TenantDev) : (s.setDev t d).hbm = s.hbm := rfl
@[simp] theorem State.setDev_hbmKey (s : State) (t : Nat) (d : TenantDev) : (s.setDev t d).hbmKey = s.hbmKey := rfl
@[simp] theorem State.setDev_pageCnt (s : State) (t : Nat) (d : TenantDev) : (s.setDev t d).pageCnt = s.pageCnt := rfl
@[simp] theorem State.setDev_lostFrames (s : State) (t : Nat) (d : TenantDev) : (s.setDev t d).lostFrames = s.lostFrames := rfl
@[simp] theorem State.setDev_lostPages (s : State) (t : Nat) (d : TenantDev) : (s.setDev t d).lostPages = s.lostPages := rfl
@[simp] theorem State.setDev_retiredFrames (s : State) (t : Nat) (d : TenantDev) : (s.setDev t d).retiredFrames = s.retiredFrames := rfl
@[simp] theorem State.setDev_retiredPages (s : State) (t : Nat) (d : TenantDev) : (s.setDev t d).retiredPages = s.retiredPages := rfl
@[simp] theorem State.setDev_lostList (s : State) (t : Nat) (d : TenantDev) : (s.setDev t d).lostList = s.lostList := rfl
@[simp] theorem State.setDev_keys (s : State) (t : Nat) (d : TenantDev) : (s.setDev t d).keys = s.keys := rfl
@[simp] theorem State.setDev_hostMem (s : State) (t : Nat) (d : TenantDev) : (s.setDev t d).hostMem = s.hostMem := rfl
@[simp] theorem State.setDev_host (s : State) (t : Nat) (d : TenantDev) : (s.setDev t d).host = s.host := rfl
@[simp] theorem State.setDev_ports (s : State) (t : Nat) (d : TenantDev) : (s.setDev t d).ports = s.ports := rfl
@[simp] theorem State.setDev_dies (s : State) (t : Nat) (d : TenantDev) : (s.setDev t d).dies = s.dies := rfl
@[simp] theorem State.setDev_banks (s : State) (t : Nat) (d : TenantDev) : (s.setDev t d).banks = s.banks := rfl
@[simp] theorem State.setDev_fwChain (s : State) (t : Nat) (d : TenantDev) : (s.setDev t d).fwChain = s.fwChain := rfl
@[simp] theorem State.setDev_sysChain (s : State) (t : Nat) (d : TenantDev) : (s.setDev t d).sysChain = s.sysChain := rfl
@[simp] theorem State.setDev_saves (s : State) (t : Nat) (d : TenantDev) : (s.setDev t d).saves = s.saves := rfl
@[simp] theorem State.setDev_images (s : State) (t : Nat) (d : TenantDev) : (s.setDev t d).images = s.images := rfl
@[simp] theorem State.setDev_powered (s : State) (t : Nat) (d : TenantDev) : (s.setDev t d).powered = s.powered := rfl
@[simp] theorem State.setDev_started (s : State) (t : Nat) (d : TenantDev) : (s.setDev t d).started = s.started := rfl

@[simp] theorem State.modDev_agenda (s : State) (t : Nat) (f : TenantDev → TenantDev) : (s.modDev t f).agenda = s.agenda := rfl
@[simp] theorem State.modDev_actor (s : State) (t : Nat) (f : TenantDev → TenantDev) : (s.modDev t f).actor = s.actor := rfl
@[simp] theorem State.modDev_rot (s : State) (t : Nat) (f : TenantDev → TenantDev) : (s.modDev t f).rot = s.rot := rfl
@[simp] theorem State.modDev_opening (s : State) (t : Nat) (f : TenantDev → TenantDev) : (s.modDev t f).opening = s.opening := rfl
@[simp] theorem State.modDev_tick (s : State) (t : Nat) (f : TenantDev → TenantDev) : (s.modDev t f).tick = s.tick := rfl
@[simp] theorem State.modDev_draw (s : State) (t : Nat) (f : TenantDev → TenantDev) : (s.modDev t f).draw = s.draw := rfl
@[simp] theorem State.modDev_cycle (s : State) (t : Nat) (f : TenantDev → TenantDev) : (s.modDev t f).cycle = s.cycle := rfl
@[simp] theorem State.modDev_phase (s : State) (t : Nat) (f : TenantDev → TenantDev) : (s.modDev t f).phase = s.phase := rfl
@[simp] theorem State.modDev_com (s : State) (t : Nat) (f : TenantDev → TenantDev) : (s.modDev t f).com = s.com := rfl
@[simp] theorem State.modDev_tenants (s : State) (t : Nat) (f : TenantDev → TenantDev) : (s.modDev t f).tenants = s.tenants := rfl
@[simp] theorem State.modDev_launches (s : State) (t : Nat) (f : TenantDev → TenantDev) : (s.modDev t f).launches = s.launches := rfl
@[simp] theorem State.modDev_presented (s : State) (t : Nat) (f : TenantDev → TenantDev) : (s.modDev t f).presented = s.presented := rfl
@[simp] theorem State.modDev_hbm (s : State) (t : Nat) (f : TenantDev → TenantDev) : (s.modDev t f).hbm = s.hbm := rfl
@[simp] theorem State.modDev_hbmKey (s : State) (t : Nat) (f : TenantDev → TenantDev) : (s.modDev t f).hbmKey = s.hbmKey := rfl
@[simp] theorem State.modDev_pageCnt (s : State) (t : Nat) (f : TenantDev → TenantDev) : (s.modDev t f).pageCnt = s.pageCnt := rfl
@[simp] theorem State.modDev_lostFrames (s : State) (t : Nat) (f : TenantDev → TenantDev) : (s.modDev t f).lostFrames = s.lostFrames := rfl
@[simp] theorem State.modDev_lostPages (s : State) (t : Nat) (f : TenantDev → TenantDev) : (s.modDev t f).lostPages = s.lostPages := rfl
@[simp] theorem State.modDev_retiredFrames (s : State) (t : Nat) (f : TenantDev → TenantDev) : (s.modDev t f).retiredFrames = s.retiredFrames := rfl
@[simp] theorem State.modDev_retiredPages (s : State) (t : Nat) (f : TenantDev → TenantDev) : (s.modDev t f).retiredPages = s.retiredPages := rfl
@[simp] theorem State.modDev_lostList (s : State) (t : Nat) (f : TenantDev → TenantDev) : (s.modDev t f).lostList = s.lostList := rfl
@[simp] theorem State.modDev_keys (s : State) (t : Nat) (f : TenantDev → TenantDev) : (s.modDev t f).keys = s.keys := rfl
@[simp] theorem State.modDev_hostMem (s : State) (t : Nat) (f : TenantDev → TenantDev) : (s.modDev t f).hostMem = s.hostMem := rfl
@[simp] theorem State.modDev_host (s : State) (t : Nat) (f : TenantDev → TenantDev) : (s.modDev t f).host = s.host := rfl
@[simp] theorem State.modDev_ports (s : State) (t : Nat) (f : TenantDev → TenantDev) : (s.modDev t f).ports = s.ports := rfl
@[simp] theorem State.modDev_dies (s : State) (t : Nat) (f : TenantDev → TenantDev) : (s.modDev t f).dies = s.dies := rfl
@[simp] theorem State.modDev_banks (s : State) (t : Nat) (f : TenantDev → TenantDev) : (s.modDev t f).banks = s.banks := rfl
@[simp] theorem State.modDev_fwChain (s : State) (t : Nat) (f : TenantDev → TenantDev) : (s.modDev t f).fwChain = s.fwChain := rfl
@[simp] theorem State.modDev_sysChain (s : State) (t : Nat) (f : TenantDev → TenantDev) : (s.modDev t f).sysChain = s.sysChain := rfl
@[simp] theorem State.modDev_saves (s : State) (t : Nat) (f : TenantDev → TenantDev) : (s.modDev t f).saves = s.saves := rfl
@[simp] theorem State.modDev_images (s : State) (t : Nat) (f : TenantDev → TenantDev) : (s.modDev t f).images = s.images := rfl
@[simp] theorem State.modDev_powered (s : State) (t : Nat) (f : TenantDev → TenantDev) : (s.modDev t f).powered = s.powered := rfl
@[simp] theorem State.modDev_started (s : State) (t : Nat) (f : TenantDev → TenantDev) : (s.modDev t f).started = s.started := rfl

@[simp] theorem State.setCoreOf_agenda (s : State) (t c : Nat) (k : TCore) : (s.setCoreOf t c k).agenda = s.agenda := rfl
@[simp] theorem State.setCoreOf_actor (s : State) (t c : Nat) (k : TCore) : (s.setCoreOf t c k).actor = s.actor := rfl
@[simp] theorem State.setCoreOf_rot (s : State) (t c : Nat) (k : TCore) : (s.setCoreOf t c k).rot = s.rot := rfl
@[simp] theorem State.setCoreOf_opening (s : State) (t c : Nat) (k : TCore) : (s.setCoreOf t c k).opening = s.opening := rfl
@[simp] theorem State.setCoreOf_tick (s : State) (t c : Nat) (k : TCore) : (s.setCoreOf t c k).tick = s.tick := rfl
@[simp] theorem State.setCoreOf_draw (s : State) (t c : Nat) (k : TCore) : (s.setCoreOf t c k).draw = s.draw := rfl
@[simp] theorem State.setCoreOf_cycle (s : State) (t c : Nat) (k : TCore) : (s.setCoreOf t c k).cycle = s.cycle := rfl
@[simp] theorem State.setCoreOf_phase (s : State) (t c : Nat) (k : TCore) : (s.setCoreOf t c k).phase = s.phase := rfl
@[simp] theorem State.setCoreOf_com (s : State) (t c : Nat) (k : TCore) : (s.setCoreOf t c k).com = s.com := rfl
@[simp] theorem State.setCoreOf_tenants (s : State) (t c : Nat) (k : TCore) : (s.setCoreOf t c k).tenants = s.tenants := rfl
@[simp] theorem State.setCoreOf_launches (s : State) (t c : Nat) (k : TCore) : (s.setCoreOf t c k).launches = s.launches := rfl
@[simp] theorem State.setCoreOf_presented (s : State) (t c : Nat) (k : TCore) : (s.setCoreOf t c k).presented = s.presented := rfl
@[simp] theorem State.setCoreOf_hbm (s : State) (t c : Nat) (k : TCore) : (s.setCoreOf t c k).hbm = s.hbm := rfl
@[simp] theorem State.setCoreOf_hbmKey (s : State) (t c : Nat) (k : TCore) : (s.setCoreOf t c k).hbmKey = s.hbmKey := rfl
@[simp] theorem State.setCoreOf_pageCnt (s : State) (t c : Nat) (k : TCore) : (s.setCoreOf t c k).pageCnt = s.pageCnt := rfl
@[simp] theorem State.setCoreOf_lostFrames (s : State) (t c : Nat) (k : TCore) : (s.setCoreOf t c k).lostFrames = s.lostFrames := rfl
@[simp] theorem State.setCoreOf_lostPages (s : State) (t c : Nat) (k : TCore) : (s.setCoreOf t c k).lostPages = s.lostPages := rfl
@[simp] theorem State.setCoreOf_retiredFrames (s : State) (t c : Nat) (k : TCore) : (s.setCoreOf t c k).retiredFrames = s.retiredFrames := rfl
@[simp] theorem State.setCoreOf_retiredPages (s : State) (t c : Nat) (k : TCore) : (s.setCoreOf t c k).retiredPages = s.retiredPages := rfl
@[simp] theorem State.setCoreOf_lostList (s : State) (t c : Nat) (k : TCore) : (s.setCoreOf t c k).lostList = s.lostList := rfl
@[simp] theorem State.setCoreOf_keys (s : State) (t c : Nat) (k : TCore) : (s.setCoreOf t c k).keys = s.keys := rfl
@[simp] theorem State.setCoreOf_hostMem (s : State) (t c : Nat) (k : TCore) : (s.setCoreOf t c k).hostMem = s.hostMem := rfl
@[simp] theorem State.setCoreOf_host (s : State) (t c : Nat) (k : TCore) : (s.setCoreOf t c k).host = s.host := rfl
@[simp] theorem State.setCoreOf_ports (s : State) (t c : Nat) (k : TCore) : (s.setCoreOf t c k).ports = s.ports := rfl
@[simp] theorem State.setCoreOf_dies (s : State) (t c : Nat) (k : TCore) : (s.setCoreOf t c k).dies = s.dies := rfl
@[simp] theorem State.setCoreOf_banks (s : State) (t c : Nat) (k : TCore) : (s.setCoreOf t c k).banks = s.banks := rfl
@[simp] theorem State.setCoreOf_fwChain (s : State) (t c : Nat) (k : TCore) : (s.setCoreOf t c k).fwChain = s.fwChain := rfl
@[simp] theorem State.setCoreOf_sysChain (s : State) (t c : Nat) (k : TCore) : (s.setCoreOf t c k).sysChain = s.sysChain := rfl
@[simp] theorem State.setCoreOf_saves (s : State) (t c : Nat) (k : TCore) : (s.setCoreOf t c k).saves = s.saves := rfl
@[simp] theorem State.setCoreOf_images (s : State) (t c : Nat) (k : TCore) : (s.setCoreOf t c k).images = s.images := rfl
@[simp] theorem State.setCoreOf_powered (s : State) (t c : Nat) (k : TCore) : (s.setCoreOf t c k).powered = s.powered := rfl
@[simp] theorem State.setCoreOf_started (s : State) (t c : Nat) (k : TCore) : (s.setCoreOf t c k).started = s.started := rfl

@[simp] theorem State.modCoreOf_agenda (s : State) (t c : Nat) (f : TCore → TCore) : (s.modCoreOf t c f).agenda = s.agenda := rfl
@[simp] theorem State.modCoreOf_actor (s : State) (t c : Nat) (f : TCore → TCore) : (s.modCoreOf t c f).actor = s.actor := rfl
@[simp] theorem State.modCoreOf_rot (s : State) (t c : Nat) (f : TCore → TCore) : (s.modCoreOf t c f).rot = s.rot := rfl
@[simp] theorem State.modCoreOf_opening (s : State) (t c : Nat) (f : TCore → TCore) : (s.modCoreOf t c f).opening = s.opening := rfl
@[simp] theorem State.modCoreOf_tick (s : State) (t c : Nat) (f : TCore → TCore) : (s.modCoreOf t c f).tick = s.tick := rfl
@[simp] theorem State.modCoreOf_draw (s : State) (t c : Nat) (f : TCore → TCore) : (s.modCoreOf t c f).draw = s.draw := rfl
@[simp] theorem State.modCoreOf_cycle (s : State) (t c : Nat) (f : TCore → TCore) : (s.modCoreOf t c f).cycle = s.cycle := rfl
@[simp] theorem State.modCoreOf_phase (s : State) (t c : Nat) (f : TCore → TCore) : (s.modCoreOf t c f).phase = s.phase := rfl
@[simp] theorem State.modCoreOf_com (s : State) (t c : Nat) (f : TCore → TCore) : (s.modCoreOf t c f).com = s.com := rfl
@[simp] theorem State.modCoreOf_tenants (s : State) (t c : Nat) (f : TCore → TCore) : (s.modCoreOf t c f).tenants = s.tenants := rfl
@[simp] theorem State.modCoreOf_launches (s : State) (t c : Nat) (f : TCore → TCore) : (s.modCoreOf t c f).launches = s.launches := rfl
@[simp] theorem State.modCoreOf_presented (s : State) (t c : Nat) (f : TCore → TCore) : (s.modCoreOf t c f).presented = s.presented := rfl
@[simp] theorem State.modCoreOf_hbm (s : State) (t c : Nat) (f : TCore → TCore) : (s.modCoreOf t c f).hbm = s.hbm := rfl
@[simp] theorem State.modCoreOf_hbmKey (s : State) (t c : Nat) (f : TCore → TCore) : (s.modCoreOf t c f).hbmKey = s.hbmKey := rfl
@[simp] theorem State.modCoreOf_pageCnt (s : State) (t c : Nat) (f : TCore → TCore) : (s.modCoreOf t c f).pageCnt = s.pageCnt := rfl
@[simp] theorem State.modCoreOf_lostFrames (s : State) (t c : Nat) (f : TCore → TCore) : (s.modCoreOf t c f).lostFrames = s.lostFrames := rfl
@[simp] theorem State.modCoreOf_lostPages (s : State) (t c : Nat) (f : TCore → TCore) : (s.modCoreOf t c f).lostPages = s.lostPages := rfl
@[simp] theorem State.modCoreOf_retiredFrames (s : State) (t c : Nat) (f : TCore → TCore) : (s.modCoreOf t c f).retiredFrames = s.retiredFrames := rfl
@[simp] theorem State.modCoreOf_retiredPages (s : State) (t c : Nat) (f : TCore → TCore) : (s.modCoreOf t c f).retiredPages = s.retiredPages := rfl
@[simp] theorem State.modCoreOf_lostList (s : State) (t c : Nat) (f : TCore → TCore) : (s.modCoreOf t c f).lostList = s.lostList := rfl
@[simp] theorem State.modCoreOf_keys (s : State) (t c : Nat) (f : TCore → TCore) : (s.modCoreOf t c f).keys = s.keys := rfl
@[simp] theorem State.modCoreOf_hostMem (s : State) (t c : Nat) (f : TCore → TCore) : (s.modCoreOf t c f).hostMem = s.hostMem := rfl
@[simp] theorem State.modCoreOf_host (s : State) (t c : Nat) (f : TCore → TCore) : (s.modCoreOf t c f).host = s.host := rfl
@[simp] theorem State.modCoreOf_ports (s : State) (t c : Nat) (f : TCore → TCore) : (s.modCoreOf t c f).ports = s.ports := rfl
@[simp] theorem State.modCoreOf_dies (s : State) (t c : Nat) (f : TCore → TCore) : (s.modCoreOf t c f).dies = s.dies := rfl
@[simp] theorem State.modCoreOf_banks (s : State) (t c : Nat) (f : TCore → TCore) : (s.modCoreOf t c f).banks = s.banks := rfl
@[simp] theorem State.modCoreOf_fwChain (s : State) (t c : Nat) (f : TCore → TCore) : (s.modCoreOf t c f).fwChain = s.fwChain := rfl
@[simp] theorem State.modCoreOf_sysChain (s : State) (t c : Nat) (f : TCore → TCore) : (s.modCoreOf t c f).sysChain = s.sysChain := rfl
@[simp] theorem State.modCoreOf_saves (s : State) (t c : Nat) (f : TCore → TCore) : (s.modCoreOf t c f).saves = s.saves := rfl
@[simp] theorem State.modCoreOf_images (s : State) (t c : Nat) (f : TCore → TCore) : (s.modCoreOf t c f).images = s.images := rfl
@[simp] theorem State.modCoreOf_powered (s : State) (t c : Nat) (f : TCore → TCore) : (s.modCoreOf t c f).powered = s.powered := rfl
@[simp] theorem State.modCoreOf_started (s : State) (t c : Nat) (f : TCore → TCore) : (s.modCoreOf t c f).started = s.started := rfl

@[simp] theorem State.setSlotOf_agenda (s : State) (p : Party) (x : Slot) : (s.setSlotOf p x).agenda = s.agenda := rfl
@[simp] theorem State.setSlotOf_actor (s : State) (p : Party) (x : Slot) : (s.setSlotOf p x).actor = s.actor := rfl
@[simp] theorem State.setSlotOf_rot (s : State) (p : Party) (x : Slot) : (s.setSlotOf p x).rot = s.rot := rfl
@[simp] theorem State.setSlotOf_opening (s : State) (p : Party) (x : Slot) : (s.setSlotOf p x).opening = s.opening := rfl
@[simp] theorem State.setSlotOf_tick (s : State) (p : Party) (x : Slot) : (s.setSlotOf p x).tick = s.tick := rfl
@[simp] theorem State.setSlotOf_draw (s : State) (p : Party) (x : Slot) : (s.setSlotOf p x).draw = s.draw := rfl
@[simp] theorem State.setSlotOf_cycle (s : State) (p : Party) (x : Slot) : (s.setSlotOf p x).cycle = s.cycle := rfl
@[simp] theorem State.setSlotOf_phase (s : State) (p : Party) (x : Slot) : (s.setSlotOf p x).phase = s.phase := rfl
@[simp] theorem State.setSlotOf_com (s : State) (p : Party) (x : Slot) : (s.setSlotOf p x).com = s.com := rfl
@[simp] theorem State.setSlotOf_tenants (s : State) (p : Party) (x : Slot) : (s.setSlotOf p x).tenants = s.tenants := rfl
@[simp] theorem State.setSlotOf_launches (s : State) (p : Party) (x : Slot) : (s.setSlotOf p x).launches = s.launches := rfl
@[simp] theorem State.setSlotOf_presented (s : State) (p : Party) (x : Slot) : (s.setSlotOf p x).presented = s.presented := rfl
@[simp] theorem State.setSlotOf_hbm (s : State) (p : Party) (x : Slot) : (s.setSlotOf p x).hbm = s.hbm := rfl
@[simp] theorem State.setSlotOf_hbmKey (s : State) (p : Party) (x : Slot) : (s.setSlotOf p x).hbmKey = s.hbmKey := rfl
@[simp] theorem State.setSlotOf_pageCnt (s : State) (p : Party) (x : Slot) : (s.setSlotOf p x).pageCnt = s.pageCnt := rfl
@[simp] theorem State.setSlotOf_lostFrames (s : State) (p : Party) (x : Slot) : (s.setSlotOf p x).lostFrames = s.lostFrames := rfl
@[simp] theorem State.setSlotOf_lostPages (s : State) (p : Party) (x : Slot) : (s.setSlotOf p x).lostPages = s.lostPages := rfl
@[simp] theorem State.setSlotOf_retiredFrames (s : State) (p : Party) (x : Slot) : (s.setSlotOf p x).retiredFrames = s.retiredFrames := rfl
@[simp] theorem State.setSlotOf_retiredPages (s : State) (p : Party) (x : Slot) : (s.setSlotOf p x).retiredPages = s.retiredPages := rfl
@[simp] theorem State.setSlotOf_lostList (s : State) (p : Party) (x : Slot) : (s.setSlotOf p x).lostList = s.lostList := rfl
@[simp] theorem State.setSlotOf_keys (s : State) (p : Party) (x : Slot) : (s.setSlotOf p x).keys = s.keys := rfl
@[simp] theorem State.setSlotOf_hostMem (s : State) (p : Party) (x : Slot) : (s.setSlotOf p x).hostMem = s.hostMem := rfl
@[simp] theorem State.setSlotOf_host (s : State) (p : Party) (x : Slot) : (s.setSlotOf p x).host = s.host := rfl
@[simp] theorem State.setSlotOf_ports (s : State) (p : Party) (x : Slot) : (s.setSlotOf p x).ports = s.ports := rfl
@[simp] theorem State.setSlotOf_dies (s : State) (p : Party) (x : Slot) : (s.setSlotOf p x).dies = s.dies := rfl
@[simp] theorem State.setSlotOf_banks (s : State) (p : Party) (x : Slot) : (s.setSlotOf p x).banks = s.banks := rfl
@[simp] theorem State.setSlotOf_fwChain (s : State) (p : Party) (x : Slot) : (s.setSlotOf p x).fwChain = s.fwChain := rfl
@[simp] theorem State.setSlotOf_sysChain (s : State) (p : Party) (x : Slot) : (s.setSlotOf p x).sysChain = s.sysChain := rfl
@[simp] theorem State.setSlotOf_saves (s : State) (p : Party) (x : Slot) : (s.setSlotOf p x).saves = s.saves := rfl
@[simp] theorem State.setSlotOf_images (s : State) (p : Party) (x : Slot) : (s.setSlotOf p x).images = s.images := rfl
@[simp] theorem State.setSlotOf_powered (s : State) (p : Party) (x : Slot) : (s.setSlotOf p x).powered = s.powered := rfl
@[simp] theorem State.setSlotOf_started (s : State) (p : Party) (x : Slot) : (s.setSlotOf p x).started = s.started := rfl

@[simp] theorem State.modSlotOf_agenda (s : State) (p : Party) (f : Slot → Slot) : (s.modSlotOf p f).agenda = s.agenda := rfl
@[simp] theorem State.modSlotOf_actor (s : State) (p : Party) (f : Slot → Slot) : (s.modSlotOf p f).actor = s.actor := rfl
@[simp] theorem State.modSlotOf_rot (s : State) (p : Party) (f : Slot → Slot) : (s.modSlotOf p f).rot = s.rot := rfl
@[simp] theorem State.modSlotOf_opening (s : State) (p : Party) (f : Slot → Slot) : (s.modSlotOf p f).opening = s.opening := rfl
@[simp] theorem State.modSlotOf_tick (s : State) (p : Party) (f : Slot → Slot) : (s.modSlotOf p f).tick = s.tick := rfl
@[simp] theorem State.modSlotOf_draw (s : State) (p : Party) (f : Slot → Slot) : (s.modSlotOf p f).draw = s.draw := rfl
@[simp] theorem State.modSlotOf_cycle (s : State) (p : Party) (f : Slot → Slot) : (s.modSlotOf p f).cycle = s.cycle := rfl
@[simp] theorem State.modSlotOf_phase (s : State) (p : Party) (f : Slot → Slot) : (s.modSlotOf p f).phase = s.phase := rfl
@[simp] theorem State.modSlotOf_com (s : State) (p : Party) (f : Slot → Slot) : (s.modSlotOf p f).com = s.com := rfl
@[simp] theorem State.modSlotOf_tenants (s : State) (p : Party) (f : Slot → Slot) : (s.modSlotOf p f).tenants = s.tenants := rfl
@[simp] theorem State.modSlotOf_launches (s : State) (p : Party) (f : Slot → Slot) : (s.modSlotOf p f).launches = s.launches := rfl
@[simp] theorem State.modSlotOf_presented (s : State) (p : Party) (f : Slot → Slot) : (s.modSlotOf p f).presented = s.presented := rfl
@[simp] theorem State.modSlotOf_hbm (s : State) (p : Party) (f : Slot → Slot) : (s.modSlotOf p f).hbm = s.hbm := rfl
@[simp] theorem State.modSlotOf_hbmKey (s : State) (p : Party) (f : Slot → Slot) : (s.modSlotOf p f).hbmKey = s.hbmKey := rfl
@[simp] theorem State.modSlotOf_pageCnt (s : State) (p : Party) (f : Slot → Slot) : (s.modSlotOf p f).pageCnt = s.pageCnt := rfl
@[simp] theorem State.modSlotOf_lostFrames (s : State) (p : Party) (f : Slot → Slot) : (s.modSlotOf p f).lostFrames = s.lostFrames := rfl
@[simp] theorem State.modSlotOf_lostPages (s : State) (p : Party) (f : Slot → Slot) : (s.modSlotOf p f).lostPages = s.lostPages := rfl
@[simp] theorem State.modSlotOf_retiredFrames (s : State) (p : Party) (f : Slot → Slot) : (s.modSlotOf p f).retiredFrames = s.retiredFrames := rfl
@[simp] theorem State.modSlotOf_retiredPages (s : State) (p : Party) (f : Slot → Slot) : (s.modSlotOf p f).retiredPages = s.retiredPages := rfl
@[simp] theorem State.modSlotOf_lostList (s : State) (p : Party) (f : Slot → Slot) : (s.modSlotOf p f).lostList = s.lostList := rfl
@[simp] theorem State.modSlotOf_keys (s : State) (p : Party) (f : Slot → Slot) : (s.modSlotOf p f).keys = s.keys := rfl
@[simp] theorem State.modSlotOf_hostMem (s : State) (p : Party) (f : Slot → Slot) : (s.modSlotOf p f).hostMem = s.hostMem := rfl
@[simp] theorem State.modSlotOf_host (s : State) (p : Party) (f : Slot → Slot) : (s.modSlotOf p f).host = s.host := rfl
@[simp] theorem State.modSlotOf_ports (s : State) (p : Party) (f : Slot → Slot) : (s.modSlotOf p f).ports = s.ports := rfl
@[simp] theorem State.modSlotOf_dies (s : State) (p : Party) (f : Slot → Slot) : (s.modSlotOf p f).dies = s.dies := rfl
@[simp] theorem State.modSlotOf_banks (s : State) (p : Party) (f : Slot → Slot) : (s.modSlotOf p f).banks = s.banks := rfl
@[simp] theorem State.modSlotOf_fwChain (s : State) (p : Party) (f : Slot → Slot) : (s.modSlotOf p f).fwChain = s.fwChain := rfl
@[simp] theorem State.modSlotOf_sysChain (s : State) (p : Party) (f : Slot → Slot) : (s.modSlotOf p f).sysChain = s.sysChain := rfl
@[simp] theorem State.modSlotOf_saves (s : State) (p : Party) (f : Slot → Slot) : (s.modSlotOf p f).saves = s.saves := rfl
@[simp] theorem State.modSlotOf_images (s : State) (p : Party) (f : Slot → Slot) : (s.modSlotOf p f).images = s.images := rfl
@[simp] theorem State.modSlotOf_powered (s : State) (p : Party) (f : Slot → Slot) : (s.modSlotOf p f).powered = s.powered := rfl
@[simp] theorem State.modSlotOf_started (s : State) (p : Party) (f : Slot → Slot) : (s.modSlotOf p f).started = s.started := rfl

@[simp] theorem State.modHere_agenda (s : State) (f : TCore → TCore) : (s.modHere f).agenda = s.agenda := rfl
@[simp] theorem State.modHere_actor (s : State) (f : TCore → TCore) : (s.modHere f).actor = s.actor := rfl
@[simp] theorem State.modHere_rot (s : State) (f : TCore → TCore) : (s.modHere f).rot = s.rot := rfl
@[simp] theorem State.modHere_opening (s : State) (f : TCore → TCore) : (s.modHere f).opening = s.opening := rfl
@[simp] theorem State.modHere_tick (s : State) (f : TCore → TCore) : (s.modHere f).tick = s.tick := rfl
@[simp] theorem State.modHere_draw (s : State) (f : TCore → TCore) : (s.modHere f).draw = s.draw := rfl
@[simp] theorem State.modHere_cycle (s : State) (f : TCore → TCore) : (s.modHere f).cycle = s.cycle := rfl
@[simp] theorem State.modHere_phase (s : State) (f : TCore → TCore) : (s.modHere f).phase = s.phase := rfl
@[simp] theorem State.modHere_com (s : State) (f : TCore → TCore) : (s.modHere f).com = s.com := rfl
@[simp] theorem State.modHere_tenants (s : State) (f : TCore → TCore) : (s.modHere f).tenants = s.tenants := rfl
@[simp] theorem State.modHere_launches (s : State) (f : TCore → TCore) : (s.modHere f).launches = s.launches := rfl
@[simp] theorem State.modHere_presented (s : State) (f : TCore → TCore) : (s.modHere f).presented = s.presented := rfl
@[simp] theorem State.modHere_hbm (s : State) (f : TCore → TCore) : (s.modHere f).hbm = s.hbm := rfl
@[simp] theorem State.modHere_hbmKey (s : State) (f : TCore → TCore) : (s.modHere f).hbmKey = s.hbmKey := rfl
@[simp] theorem State.modHere_pageCnt (s : State) (f : TCore → TCore) : (s.modHere f).pageCnt = s.pageCnt := rfl
@[simp] theorem State.modHere_lostFrames (s : State) (f : TCore → TCore) : (s.modHere f).lostFrames = s.lostFrames := rfl
@[simp] theorem State.modHere_lostPages (s : State) (f : TCore → TCore) : (s.modHere f).lostPages = s.lostPages := rfl
@[simp] theorem State.modHere_retiredFrames (s : State) (f : TCore → TCore) : (s.modHere f).retiredFrames = s.retiredFrames := rfl
@[simp] theorem State.modHere_retiredPages (s : State) (f : TCore → TCore) : (s.modHere f).retiredPages = s.retiredPages := rfl
@[simp] theorem State.modHere_lostList (s : State) (f : TCore → TCore) : (s.modHere f).lostList = s.lostList := rfl
@[simp] theorem State.modHere_keys (s : State) (f : TCore → TCore) : (s.modHere f).keys = s.keys := rfl
@[simp] theorem State.modHere_hostMem (s : State) (f : TCore → TCore) : (s.modHere f).hostMem = s.hostMem := rfl
@[simp] theorem State.modHere_host (s : State) (f : TCore → TCore) : (s.modHere f).host = s.host := rfl
@[simp] theorem State.modHere_ports (s : State) (f : TCore → TCore) : (s.modHere f).ports = s.ports := rfl
@[simp] theorem State.modHere_dies (s : State) (f : TCore → TCore) : (s.modHere f).dies = s.dies := rfl
@[simp] theorem State.modHere_banks (s : State) (f : TCore → TCore) : (s.modHere f).banks = s.banks := rfl
@[simp] theorem State.modHere_fwChain (s : State) (f : TCore → TCore) : (s.modHere f).fwChain = s.fwChain := rfl
@[simp] theorem State.modHere_sysChain (s : State) (f : TCore → TCore) : (s.modHere f).sysChain = s.sysChain := rfl
@[simp] theorem State.modHere_saves (s : State) (f : TCore → TCore) : (s.modHere f).saves = s.saves := rfl
@[simp] theorem State.modHere_images (s : State) (f : TCore → TCore) : (s.modHere f).images = s.images := rfl
@[simp] theorem State.modHere_powered (s : State) (f : TCore → TCore) : (s.modHere f).powered = s.powered := rfl
@[simp] theorem State.modHere_started (s : State) (f : TCore → TCore) : (s.modHere f).started = s.started := rfl

@[simp] theorem State.modSlot_agenda (s : State) (f : Slot → Slot) : (s.modSlot f).agenda = s.agenda := rfl
@[simp] theorem State.modSlot_actor (s : State) (f : Slot → Slot) : (s.modSlot f).actor = s.actor := rfl
@[simp] theorem State.modSlot_rot (s : State) (f : Slot → Slot) : (s.modSlot f).rot = s.rot := rfl
@[simp] theorem State.modSlot_opening (s : State) (f : Slot → Slot) : (s.modSlot f).opening = s.opening := rfl
@[simp] theorem State.modSlot_tick (s : State) (f : Slot → Slot) : (s.modSlot f).tick = s.tick := rfl
@[simp] theorem State.modSlot_draw (s : State) (f : Slot → Slot) : (s.modSlot f).draw = s.draw := rfl
@[simp] theorem State.modSlot_cycle (s : State) (f : Slot → Slot) : (s.modSlot f).cycle = s.cycle := rfl
@[simp] theorem State.modSlot_phase (s : State) (f : Slot → Slot) : (s.modSlot f).phase = s.phase := rfl
@[simp] theorem State.modSlot_com (s : State) (f : Slot → Slot) : (s.modSlot f).com = s.com := rfl
@[simp] theorem State.modSlot_tenants (s : State) (f : Slot → Slot) : (s.modSlot f).tenants = s.tenants := rfl
@[simp] theorem State.modSlot_launches (s : State) (f : Slot → Slot) : (s.modSlot f).launches = s.launches := rfl
@[simp] theorem State.modSlot_presented (s : State) (f : Slot → Slot) : (s.modSlot f).presented = s.presented := rfl
@[simp] theorem State.modSlot_hbm (s : State) (f : Slot → Slot) : (s.modSlot f).hbm = s.hbm := rfl
@[simp] theorem State.modSlot_hbmKey (s : State) (f : Slot → Slot) : (s.modSlot f).hbmKey = s.hbmKey := rfl
@[simp] theorem State.modSlot_pageCnt (s : State) (f : Slot → Slot) : (s.modSlot f).pageCnt = s.pageCnt := rfl
@[simp] theorem State.modSlot_lostFrames (s : State) (f : Slot → Slot) : (s.modSlot f).lostFrames = s.lostFrames := rfl
@[simp] theorem State.modSlot_lostPages (s : State) (f : Slot → Slot) : (s.modSlot f).lostPages = s.lostPages := rfl
@[simp] theorem State.modSlot_retiredFrames (s : State) (f : Slot → Slot) : (s.modSlot f).retiredFrames = s.retiredFrames := rfl
@[simp] theorem State.modSlot_retiredPages (s : State) (f : Slot → Slot) : (s.modSlot f).retiredPages = s.retiredPages := rfl
@[simp] theorem State.modSlot_lostList (s : State) (f : Slot → Slot) : (s.modSlot f).lostList = s.lostList := rfl
@[simp] theorem State.modSlot_keys (s : State) (f : Slot → Slot) : (s.modSlot f).keys = s.keys := rfl
@[simp] theorem State.modSlot_hostMem (s : State) (f : Slot → Slot) : (s.modSlot f).hostMem = s.hostMem := rfl
@[simp] theorem State.modSlot_host (s : State) (f : Slot → Slot) : (s.modSlot f).host = s.host := rfl
@[simp] theorem State.modSlot_ports (s : State) (f : Slot → Slot) : (s.modSlot f).ports = s.ports := rfl
@[simp] theorem State.modSlot_dies (s : State) (f : Slot → Slot) : (s.modSlot f).dies = s.dies := rfl
@[simp] theorem State.modSlot_banks (s : State) (f : Slot → Slot) : (s.modSlot f).banks = s.banks := rfl
@[simp] theorem State.modSlot_fwChain (s : State) (f : Slot → Slot) : (s.modSlot f).fwChain = s.fwChain := rfl
@[simp] theorem State.modSlot_sysChain (s : State) (f : Slot → Slot) : (s.modSlot f).sysChain = s.sysChain := rfl
@[simp] theorem State.modSlot_saves (s : State) (f : Slot → Slot) : (s.modSlot f).saves = s.saves := rfl
@[simp] theorem State.modSlot_images (s : State) (f : Slot → Slot) : (s.modSlot f).images = s.images := rfl
@[simp] theorem State.modSlot_powered (s : State) (f : Slot → Slot) : (s.modSlot f).powered = s.powered := rfl
@[simp] theorem State.modSlot_started (s : State) (f : Slot → Slot) : (s.modSlot f).started = s.started := rfl

@[simp] theorem State.modThr_agenda (s : State) (f : Thread → Thread) : (s.modThr f).agenda = s.agenda := rfl
@[simp] theorem State.modThr_actor (s : State) (f : Thread → Thread) : (s.modThr f).actor = s.actor := rfl
@[simp] theorem State.modThr_rot (s : State) (f : Thread → Thread) : (s.modThr f).rot = s.rot := rfl
@[simp] theorem State.modThr_opening (s : State) (f : Thread → Thread) : (s.modThr f).opening = s.opening := rfl
@[simp] theorem State.modThr_tick (s : State) (f : Thread → Thread) : (s.modThr f).tick = s.tick := rfl
@[simp] theorem State.modThr_draw (s : State) (f : Thread → Thread) : (s.modThr f).draw = s.draw := rfl
@[simp] theorem State.modThr_cycle (s : State) (f : Thread → Thread) : (s.modThr f).cycle = s.cycle := rfl
@[simp] theorem State.modThr_phase (s : State) (f : Thread → Thread) : (s.modThr f).phase = s.phase := rfl
@[simp] theorem State.modThr_com (s : State) (f : Thread → Thread) : (s.modThr f).com = s.com := rfl
@[simp] theorem State.modThr_tenants (s : State) (f : Thread → Thread) : (s.modThr f).tenants = s.tenants := rfl
@[simp] theorem State.modThr_launches (s : State) (f : Thread → Thread) : (s.modThr f).launches = s.launches := rfl
@[simp] theorem State.modThr_presented (s : State) (f : Thread → Thread) : (s.modThr f).presented = s.presented := rfl
@[simp] theorem State.modThr_hbm (s : State) (f : Thread → Thread) : (s.modThr f).hbm = s.hbm := rfl
@[simp] theorem State.modThr_hbmKey (s : State) (f : Thread → Thread) : (s.modThr f).hbmKey = s.hbmKey := rfl
@[simp] theorem State.modThr_pageCnt (s : State) (f : Thread → Thread) : (s.modThr f).pageCnt = s.pageCnt := rfl
@[simp] theorem State.modThr_lostFrames (s : State) (f : Thread → Thread) : (s.modThr f).lostFrames = s.lostFrames := rfl
@[simp] theorem State.modThr_lostPages (s : State) (f : Thread → Thread) : (s.modThr f).lostPages = s.lostPages := rfl
@[simp] theorem State.modThr_retiredFrames (s : State) (f : Thread → Thread) : (s.modThr f).retiredFrames = s.retiredFrames := rfl
@[simp] theorem State.modThr_retiredPages (s : State) (f : Thread → Thread) : (s.modThr f).retiredPages = s.retiredPages := rfl
@[simp] theorem State.modThr_lostList (s : State) (f : Thread → Thread) : (s.modThr f).lostList = s.lostList := rfl
@[simp] theorem State.modThr_keys (s : State) (f : Thread → Thread) : (s.modThr f).keys = s.keys := rfl
@[simp] theorem State.modThr_hostMem (s : State) (f : Thread → Thread) : (s.modThr f).hostMem = s.hostMem := rfl
@[simp] theorem State.modThr_host (s : State) (f : Thread → Thread) : (s.modThr f).host = s.host := rfl
@[simp] theorem State.modThr_ports (s : State) (f : Thread → Thread) : (s.modThr f).ports = s.ports := rfl
@[simp] theorem State.modThr_dies (s : State) (f : Thread → Thread) : (s.modThr f).dies = s.dies := rfl
@[simp] theorem State.modThr_banks (s : State) (f : Thread → Thread) : (s.modThr f).banks = s.banks := rfl
@[simp] theorem State.modThr_fwChain (s : State) (f : Thread → Thread) : (s.modThr f).fwChain = s.fwChain := rfl
@[simp] theorem State.modThr_sysChain (s : State) (f : Thread → Thread) : (s.modThr f).sysChain = s.sysChain := rfl
@[simp] theorem State.modThr_saves (s : State) (f : Thread → Thread) : (s.modThr f).saves = s.saves := rfl
@[simp] theorem State.modThr_images (s : State) (f : Thread → Thread) : (s.modThr f).images = s.images := rfl
@[simp] theorem State.modThr_powered (s : State) (f : Thread → Thread) : (s.modThr f).powered = s.powered := rfl
@[simp] theorem State.modThr_started (s : State) (f : Thread → Thread) : (s.modThr f).started = s.started := rfl

@[simp] theorem State.setReg_agenda (s : State) (r : BitVec 5) (v : Word) : (s.setReg r v).agenda = s.agenda := rfl
@[simp] theorem State.setReg_actor (s : State) (r : BitVec 5) (v : Word) : (s.setReg r v).actor = s.actor := rfl
@[simp] theorem State.setReg_rot (s : State) (r : BitVec 5) (v : Word) : (s.setReg r v).rot = s.rot := rfl
@[simp] theorem State.setReg_opening (s : State) (r : BitVec 5) (v : Word) : (s.setReg r v).opening = s.opening := rfl
@[simp] theorem State.setReg_tick (s : State) (r : BitVec 5) (v : Word) : (s.setReg r v).tick = s.tick := rfl
@[simp] theorem State.setReg_draw (s : State) (r : BitVec 5) (v : Word) : (s.setReg r v).draw = s.draw := rfl
@[simp] theorem State.setReg_cycle (s : State) (r : BitVec 5) (v : Word) : (s.setReg r v).cycle = s.cycle := rfl
@[simp] theorem State.setReg_phase (s : State) (r : BitVec 5) (v : Word) : (s.setReg r v).phase = s.phase := rfl
@[simp] theorem State.setReg_com (s : State) (r : BitVec 5) (v : Word) : (s.setReg r v).com = s.com := rfl
@[simp] theorem State.setReg_tenants (s : State) (r : BitVec 5) (v : Word) : (s.setReg r v).tenants = s.tenants := rfl
@[simp] theorem State.setReg_launches (s : State) (r : BitVec 5) (v : Word) : (s.setReg r v).launches = s.launches := rfl
@[simp] theorem State.setReg_presented (s : State) (r : BitVec 5) (v : Word) : (s.setReg r v).presented = s.presented := rfl
@[simp] theorem State.setReg_hbm (s : State) (r : BitVec 5) (v : Word) : (s.setReg r v).hbm = s.hbm := rfl
@[simp] theorem State.setReg_hbmKey (s : State) (r : BitVec 5) (v : Word) : (s.setReg r v).hbmKey = s.hbmKey := rfl
@[simp] theorem State.setReg_pageCnt (s : State) (r : BitVec 5) (v : Word) : (s.setReg r v).pageCnt = s.pageCnt := rfl
@[simp] theorem State.setReg_lostFrames (s : State) (r : BitVec 5) (v : Word) : (s.setReg r v).lostFrames = s.lostFrames := rfl
@[simp] theorem State.setReg_lostPages (s : State) (r : BitVec 5) (v : Word) : (s.setReg r v).lostPages = s.lostPages := rfl
@[simp] theorem State.setReg_retiredFrames (s : State) (r : BitVec 5) (v : Word) : (s.setReg r v).retiredFrames = s.retiredFrames := rfl
@[simp] theorem State.setReg_retiredPages (s : State) (r : BitVec 5) (v : Word) : (s.setReg r v).retiredPages = s.retiredPages := rfl
@[simp] theorem State.setReg_lostList (s : State) (r : BitVec 5) (v : Word) : (s.setReg r v).lostList = s.lostList := rfl
@[simp] theorem State.setReg_keys (s : State) (r : BitVec 5) (v : Word) : (s.setReg r v).keys = s.keys := rfl
@[simp] theorem State.setReg_hostMem (s : State) (r : BitVec 5) (v : Word) : (s.setReg r v).hostMem = s.hostMem := rfl
@[simp] theorem State.setReg_host (s : State) (r : BitVec 5) (v : Word) : (s.setReg r v).host = s.host := rfl
@[simp] theorem State.setReg_ports (s : State) (r : BitVec 5) (v : Word) : (s.setReg r v).ports = s.ports := rfl
@[simp] theorem State.setReg_dies (s : State) (r : BitVec 5) (v : Word) : (s.setReg r v).dies = s.dies := rfl
@[simp] theorem State.setReg_banks (s : State) (r : BitVec 5) (v : Word) : (s.setReg r v).banks = s.banks := rfl
@[simp] theorem State.setReg_fwChain (s : State) (r : BitVec 5) (v : Word) : (s.setReg r v).fwChain = s.fwChain := rfl
@[simp] theorem State.setReg_sysChain (s : State) (r : BitVec 5) (v : Word) : (s.setReg r v).sysChain = s.sysChain := rfl
@[simp] theorem State.setReg_saves (s : State) (r : BitVec 5) (v : Word) : (s.setReg r v).saves = s.saves := rfl
@[simp] theorem State.setReg_images (s : State) (r : BitVec 5) (v : Word) : (s.setReg r v).images = s.images := rfl
@[simp] theorem State.setReg_powered (s : State) (r : BitVec 5) (v : Word) : (s.setReg r v).powered = s.powered := rfl
@[simp] theorem State.setReg_started (s : State) (r : BitVec 5) (v : Word) : (s.setReg r v).started = s.started := rfl

@[simp] theorem State.setVreg_agenda (s : State) (r : Nat) (x : VReg) : (s.setVreg r x).agenda = s.agenda := rfl
@[simp] theorem State.setVreg_actor (s : State) (r : Nat) (x : VReg) : (s.setVreg r x).actor = s.actor := rfl
@[simp] theorem State.setVreg_rot (s : State) (r : Nat) (x : VReg) : (s.setVreg r x).rot = s.rot := rfl
@[simp] theorem State.setVreg_opening (s : State) (r : Nat) (x : VReg) : (s.setVreg r x).opening = s.opening := rfl
@[simp] theorem State.setVreg_tick (s : State) (r : Nat) (x : VReg) : (s.setVreg r x).tick = s.tick := rfl
@[simp] theorem State.setVreg_draw (s : State) (r : Nat) (x : VReg) : (s.setVreg r x).draw = s.draw := rfl
@[simp] theorem State.setVreg_cycle (s : State) (r : Nat) (x : VReg) : (s.setVreg r x).cycle = s.cycle := rfl
@[simp] theorem State.setVreg_phase (s : State) (r : Nat) (x : VReg) : (s.setVreg r x).phase = s.phase := rfl
@[simp] theorem State.setVreg_com (s : State) (r : Nat) (x : VReg) : (s.setVreg r x).com = s.com := rfl
@[simp] theorem State.setVreg_tenants (s : State) (r : Nat) (x : VReg) : (s.setVreg r x).tenants = s.tenants := rfl
@[simp] theorem State.setVreg_launches (s : State) (r : Nat) (x : VReg) : (s.setVreg r x).launches = s.launches := rfl
@[simp] theorem State.setVreg_presented (s : State) (r : Nat) (x : VReg) : (s.setVreg r x).presented = s.presented := rfl
@[simp] theorem State.setVreg_hbm (s : State) (r : Nat) (x : VReg) : (s.setVreg r x).hbm = s.hbm := rfl
@[simp] theorem State.setVreg_hbmKey (s : State) (r : Nat) (x : VReg) : (s.setVreg r x).hbmKey = s.hbmKey := rfl
@[simp] theorem State.setVreg_pageCnt (s : State) (r : Nat) (x : VReg) : (s.setVreg r x).pageCnt = s.pageCnt := rfl
@[simp] theorem State.setVreg_lostFrames (s : State) (r : Nat) (x : VReg) : (s.setVreg r x).lostFrames = s.lostFrames := rfl
@[simp] theorem State.setVreg_lostPages (s : State) (r : Nat) (x : VReg) : (s.setVreg r x).lostPages = s.lostPages := rfl
@[simp] theorem State.setVreg_retiredFrames (s : State) (r : Nat) (x : VReg) : (s.setVreg r x).retiredFrames = s.retiredFrames := rfl
@[simp] theorem State.setVreg_retiredPages (s : State) (r : Nat) (x : VReg) : (s.setVreg r x).retiredPages = s.retiredPages := rfl
@[simp] theorem State.setVreg_lostList (s : State) (r : Nat) (x : VReg) : (s.setVreg r x).lostList = s.lostList := rfl
@[simp] theorem State.setVreg_keys (s : State) (r : Nat) (x : VReg) : (s.setVreg r x).keys = s.keys := rfl
@[simp] theorem State.setVreg_hostMem (s : State) (r : Nat) (x : VReg) : (s.setVreg r x).hostMem = s.hostMem := rfl
@[simp] theorem State.setVreg_host (s : State) (r : Nat) (x : VReg) : (s.setVreg r x).host = s.host := rfl
@[simp] theorem State.setVreg_ports (s : State) (r : Nat) (x : VReg) : (s.setVreg r x).ports = s.ports := rfl
@[simp] theorem State.setVreg_dies (s : State) (r : Nat) (x : VReg) : (s.setVreg r x).dies = s.dies := rfl
@[simp] theorem State.setVreg_banks (s : State) (r : Nat) (x : VReg) : (s.setVreg r x).banks = s.banks := rfl
@[simp] theorem State.setVreg_fwChain (s : State) (r : Nat) (x : VReg) : (s.setVreg r x).fwChain = s.fwChain := rfl
@[simp] theorem State.setVreg_sysChain (s : State) (r : Nat) (x : VReg) : (s.setVreg r x).sysChain = s.sysChain := rfl
@[simp] theorem State.setVreg_saves (s : State) (r : Nat) (x : VReg) : (s.setVreg r x).saves = s.saves := rfl
@[simp] theorem State.setVreg_images (s : State) (r : Nat) (x : VReg) : (s.setVreg r x).images = s.images := rfl
@[simp] theorem State.setVreg_powered (s : State) (r : Nat) (x : VReg) : (s.setVreg r x).powered = s.powered := rfl
@[simp] theorem State.setVreg_started (s : State) (r : Nat) (x : VReg) : (s.setVreg r x).started = s.started := rfl

@[simp] theorem State.setSem_agenda (s : State) (n : Nat) (v : BitVec 32) : (s.setSem n v).agenda = s.agenda := rfl
@[simp] theorem State.setSem_actor (s : State) (n : Nat) (v : BitVec 32) : (s.setSem n v).actor = s.actor := rfl
@[simp] theorem State.setSem_rot (s : State) (n : Nat) (v : BitVec 32) : (s.setSem n v).rot = s.rot := rfl
@[simp] theorem State.setSem_opening (s : State) (n : Nat) (v : BitVec 32) : (s.setSem n v).opening = s.opening := rfl
@[simp] theorem State.setSem_tick (s : State) (n : Nat) (v : BitVec 32) : (s.setSem n v).tick = s.tick := rfl
@[simp] theorem State.setSem_draw (s : State) (n : Nat) (v : BitVec 32) : (s.setSem n v).draw = s.draw := rfl
@[simp] theorem State.setSem_cycle (s : State) (n : Nat) (v : BitVec 32) : (s.setSem n v).cycle = s.cycle := rfl
@[simp] theorem State.setSem_phase (s : State) (n : Nat) (v : BitVec 32) : (s.setSem n v).phase = s.phase := rfl
@[simp] theorem State.setSem_com (s : State) (n : Nat) (v : BitVec 32) : (s.setSem n v).com = s.com := rfl
@[simp] theorem State.setSem_tenants (s : State) (n : Nat) (v : BitVec 32) : (s.setSem n v).tenants = s.tenants := rfl
@[simp] theorem State.setSem_launches (s : State) (n : Nat) (v : BitVec 32) : (s.setSem n v).launches = s.launches := rfl
@[simp] theorem State.setSem_presented (s : State) (n : Nat) (v : BitVec 32) : (s.setSem n v).presented = s.presented := rfl
@[simp] theorem State.setSem_hbm (s : State) (n : Nat) (v : BitVec 32) : (s.setSem n v).hbm = s.hbm := rfl
@[simp] theorem State.setSem_hbmKey (s : State) (n : Nat) (v : BitVec 32) : (s.setSem n v).hbmKey = s.hbmKey := rfl
@[simp] theorem State.setSem_pageCnt (s : State) (n : Nat) (v : BitVec 32) : (s.setSem n v).pageCnt = s.pageCnt := rfl
@[simp] theorem State.setSem_lostFrames (s : State) (n : Nat) (v : BitVec 32) : (s.setSem n v).lostFrames = s.lostFrames := rfl
@[simp] theorem State.setSem_lostPages (s : State) (n : Nat) (v : BitVec 32) : (s.setSem n v).lostPages = s.lostPages := rfl
@[simp] theorem State.setSem_retiredFrames (s : State) (n : Nat) (v : BitVec 32) : (s.setSem n v).retiredFrames = s.retiredFrames := rfl
@[simp] theorem State.setSem_retiredPages (s : State) (n : Nat) (v : BitVec 32) : (s.setSem n v).retiredPages = s.retiredPages := rfl
@[simp] theorem State.setSem_lostList (s : State) (n : Nat) (v : BitVec 32) : (s.setSem n v).lostList = s.lostList := rfl
@[simp] theorem State.setSem_keys (s : State) (n : Nat) (v : BitVec 32) : (s.setSem n v).keys = s.keys := rfl
@[simp] theorem State.setSem_hostMem (s : State) (n : Nat) (v : BitVec 32) : (s.setSem n v).hostMem = s.hostMem := rfl
@[simp] theorem State.setSem_host (s : State) (n : Nat) (v : BitVec 32) : (s.setSem n v).host = s.host := rfl
@[simp] theorem State.setSem_ports (s : State) (n : Nat) (v : BitVec 32) : (s.setSem n v).ports = s.ports := rfl
@[simp] theorem State.setSem_dies (s : State) (n : Nat) (v : BitVec 32) : (s.setSem n v).dies = s.dies := rfl
@[simp] theorem State.setSem_banks (s : State) (n : Nat) (v : BitVec 32) : (s.setSem n v).banks = s.banks := rfl
@[simp] theorem State.setSem_fwChain (s : State) (n : Nat) (v : BitVec 32) : (s.setSem n v).fwChain = s.fwChain := rfl
@[simp] theorem State.setSem_sysChain (s : State) (n : Nat) (v : BitVec 32) : (s.setSem n v).sysChain = s.sysChain := rfl
@[simp] theorem State.setSem_saves (s : State) (n : Nat) (v : BitVec 32) : (s.setSem n v).saves = s.saves := rfl
@[simp] theorem State.setSem_images (s : State) (n : Nat) (v : BitVec 32) : (s.setSem n v).images = s.images := rfl
@[simp] theorem State.setSem_powered (s : State) (n : Nat) (v : BitVec 32) : (s.setSem n v).powered = s.powered := rfl
@[simp] theorem State.setSem_started (s : State) (n : Nat) (v : BitVec 32) : (s.setSem n v).started = s.started := rfl

@[simp] theorem State.drawn_agenda (s : State) : s.drawn.agenda = s.agenda := rfl
@[simp] theorem State.drawn_actor (s : State) : s.drawn.actor = s.actor := rfl
@[simp] theorem State.drawn_rot (s : State) : s.drawn.rot = s.rot := rfl
@[simp] theorem State.drawn_opening (s : State) : s.drawn.opening = s.opening := rfl
@[simp] theorem State.drawn_tick (s : State) : s.drawn.tick = s.tick := rfl
@[simp] theorem State.drawn_cycle (s : State) : s.drawn.cycle = s.cycle := rfl
@[simp] theorem State.drawn_phase (s : State) : s.drawn.phase = s.phase := rfl
@[simp] theorem State.drawn_com (s : State) : s.drawn.com = s.com := rfl
@[simp] theorem State.drawn_tenants (s : State) : s.drawn.tenants = s.tenants := rfl
@[simp] theorem State.drawn_launches (s : State) : s.drawn.launches = s.launches := rfl
@[simp] theorem State.drawn_presented (s : State) : s.drawn.presented = s.presented := rfl
@[simp] theorem State.drawn_hbm (s : State) : s.drawn.hbm = s.hbm := rfl
@[simp] theorem State.drawn_hbmKey (s : State) : s.drawn.hbmKey = s.hbmKey := rfl
@[simp] theorem State.drawn_pageCnt (s : State) : s.drawn.pageCnt = s.pageCnt := rfl
@[simp] theorem State.drawn_lostFrames (s : State) : s.drawn.lostFrames = s.lostFrames := rfl
@[simp] theorem State.drawn_lostPages (s : State) : s.drawn.lostPages = s.lostPages := rfl
@[simp] theorem State.drawn_retiredFrames (s : State) : s.drawn.retiredFrames = s.retiredFrames := rfl
@[simp] theorem State.drawn_retiredPages (s : State) : s.drawn.retiredPages = s.retiredPages := rfl
@[simp] theorem State.drawn_lostList (s : State) : s.drawn.lostList = s.lostList := rfl
@[simp] theorem State.drawn_keys (s : State) : s.drawn.keys = s.keys := rfl
@[simp] theorem State.drawn_hostMem (s : State) : s.drawn.hostMem = s.hostMem := rfl
@[simp] theorem State.drawn_host (s : State) : s.drawn.host = s.host := rfl
@[simp] theorem State.drawn_ports (s : State) : s.drawn.ports = s.ports := rfl
@[simp] theorem State.drawn_dies (s : State) : s.drawn.dies = s.dies := rfl
@[simp] theorem State.drawn_banks (s : State) : s.drawn.banks = s.banks := rfl
@[simp] theorem State.drawn_fwChain (s : State) : s.drawn.fwChain = s.fwChain := rfl
@[simp] theorem State.drawn_sysChain (s : State) : s.drawn.sysChain = s.sysChain := rfl
@[simp] theorem State.drawn_saves (s : State) : s.drawn.saves = s.saves := rfl
@[simp] theorem State.drawn_images (s : State) : s.drawn.images = s.images := rfl
@[simp] theorem State.drawn_powered (s : State) : s.drawn.powered = s.powered := rfl
@[simp] theorem State.drawn_started (s : State) : s.drawn.started = s.started := rfl
@[simp] theorem State.drawn_cur (s : State) : s.drawn.cur = s.cur := rfl
@[simp] theorem State.modTenant_agenda (s : State) (t : Nat) (g : Tenant → Tenant) : (s.modTenant t g).agenda = s.agenda := rfl
@[simp] theorem State.modTenant_actor (s : State) (t : Nat) (g : Tenant → Tenant) : (s.modTenant t g).actor = s.actor := rfl
@[simp] theorem State.modTenant_rot (s : State) (t : Nat) (g : Tenant → Tenant) : (s.modTenant t g).rot = s.rot := rfl
@[simp] theorem State.modTenant_opening (s : State) (t : Nat) (g : Tenant → Tenant) : (s.modTenant t g).opening = s.opening := rfl
@[simp] theorem State.modTenant_tick (s : State) (t : Nat) (g : Tenant → Tenant) : (s.modTenant t g).tick = s.tick := rfl
@[simp] theorem State.modTenant_draw (s : State) (t : Nat) (g : Tenant → Tenant) : (s.modTenant t g).draw = s.draw := rfl
@[simp] theorem State.modTenant_cycle (s : State) (t : Nat) (g : Tenant → Tenant) : (s.modTenant t g).cycle = s.cycle := rfl
@[simp] theorem State.modTenant_phase (s : State) (t : Nat) (g : Tenant → Tenant) : (s.modTenant t g).phase = s.phase := rfl
@[simp] theorem State.modTenant_com (s : State) (t : Nat) (g : Tenant → Tenant) : (s.modTenant t g).com = s.com := rfl
@[simp] theorem State.modTenant_launches (s : State) (t : Nat) (g : Tenant → Tenant) : (s.modTenant t g).launches = s.launches := rfl
@[simp] theorem State.modTenant_presented (s : State) (t : Nat) (g : Tenant → Tenant) : (s.modTenant t g).presented = s.presented := rfl
@[simp] theorem State.modTenant_hbm (s : State) (t : Nat) (g : Tenant → Tenant) : (s.modTenant t g).hbm = s.hbm := rfl
@[simp] theorem State.modTenant_hbmKey (s : State) (t : Nat) (g : Tenant → Tenant) : (s.modTenant t g).hbmKey = s.hbmKey := rfl
@[simp] theorem State.modTenant_pageCnt (s : State) (t : Nat) (g : Tenant → Tenant) : (s.modTenant t g).pageCnt = s.pageCnt := rfl
@[simp] theorem State.modTenant_lostFrames (s : State) (t : Nat) (g : Tenant → Tenant) : (s.modTenant t g).lostFrames = s.lostFrames := rfl
@[simp] theorem State.modTenant_lostPages (s : State) (t : Nat) (g : Tenant → Tenant) : (s.modTenant t g).lostPages = s.lostPages := rfl
@[simp] theorem State.modTenant_retiredFrames (s : State) (t : Nat) (g : Tenant → Tenant) : (s.modTenant t g).retiredFrames = s.retiredFrames := rfl
@[simp] theorem State.modTenant_retiredPages (s : State) (t : Nat) (g : Tenant → Tenant) : (s.modTenant t g).retiredPages = s.retiredPages := rfl
@[simp] theorem State.modTenant_lostList (s : State) (t : Nat) (g : Tenant → Tenant) : (s.modTenant t g).lostList = s.lostList := rfl
@[simp] theorem State.modTenant_keys (s : State) (t : Nat) (g : Tenant → Tenant) : (s.modTenant t g).keys = s.keys := rfl
@[simp] theorem State.modTenant_hostMem (s : State) (t : Nat) (g : Tenant → Tenant) : (s.modTenant t g).hostMem = s.hostMem := rfl
@[simp] theorem State.modTenant_host (s : State) (t : Nat) (g : Tenant → Tenant) : (s.modTenant t g).host = s.host := rfl
@[simp] theorem State.modTenant_ports (s : State) (t : Nat) (g : Tenant → Tenant) : (s.modTenant t g).ports = s.ports := rfl
@[simp] theorem State.modTenant_dies (s : State) (t : Nat) (g : Tenant → Tenant) : (s.modTenant t g).dies = s.dies := rfl
@[simp] theorem State.modTenant_banks (s : State) (t : Nat) (g : Tenant → Tenant) : (s.modTenant t g).banks = s.banks := rfl
@[simp] theorem State.modTenant_fwChain (s : State) (t : Nat) (g : Tenant → Tenant) : (s.modTenant t g).fwChain = s.fwChain := rfl
@[simp] theorem State.modTenant_sysChain (s : State) (t : Nat) (g : Tenant → Tenant) : (s.modTenant t g).sysChain = s.sysChain := rfl
@[simp] theorem State.modTenant_saves (s : State) (t : Nat) (g : Tenant → Tenant) : (s.modTenant t g).saves = s.saves := rfl
@[simp] theorem State.modTenant_images (s : State) (t : Nat) (g : Tenant → Tenant) : (s.modTenant t g).images = s.images := rfl
@[simp] theorem State.modTenant_powered (s : State) (t : Nat) (g : Tenant → Tenant) : (s.modTenant t g).powered = s.powered := rfl
@[simp] theorem State.modTenant_started (s : State) (t : Nat) (g : Tenant → Tenant) : (s.modTenant t g).started = s.started := rfl
@[simp] theorem State.modTenant_cur (s : State) (t : Nat) (g : Tenant → Tenant) : (s.modTenant t g).cur = s.cur := rfl
@[simp] theorem retire_agenda (s : State) : (retire s).agenda = s.agenda := rfl
@[simp] theorem retire_actor (s : State) : (retire s).actor = s.actor := rfl
@[simp] theorem retire_rot (s : State) : (retire s).rot = s.rot := rfl
@[simp] theorem retire_opening (s : State) : (retire s).opening = s.opening := rfl
@[simp] theorem retire_tick (s : State) : (retire s).tick = s.tick := rfl
@[simp] theorem retire_draw (s : State) : (retire s).draw = s.draw := rfl
@[simp] theorem retire_cycle (s : State) : (retire s).cycle = s.cycle := rfl
@[simp] theorem retire_phase (s : State) : (retire s).phase = s.phase := rfl
@[simp] theorem retire_com (s : State) : (retire s).com = s.com := rfl
@[simp] theorem retire_tenants (s : State) : (retire s).tenants = s.tenants := rfl
@[simp] theorem retire_launches (s : State) : (retire s).launches = s.launches := rfl
@[simp] theorem retire_presented (s : State) : (retire s).presented = s.presented := rfl
@[simp] theorem retire_hbm (s : State) : (retire s).hbm = s.hbm := rfl
@[simp] theorem retire_hbmKey (s : State) : (retire s).hbmKey = s.hbmKey := rfl
@[simp] theorem retire_pageCnt (s : State) : (retire s).pageCnt = s.pageCnt := rfl
@[simp] theorem retire_lostFrames (s : State) : (retire s).lostFrames = s.lostFrames := rfl
@[simp] theorem retire_lostPages (s : State) : (retire s).lostPages = s.lostPages := rfl
@[simp] theorem retire_retiredFrames (s : State) : (retire s).retiredFrames = s.retiredFrames := rfl
@[simp] theorem retire_retiredPages (s : State) : (retire s).retiredPages = s.retiredPages := rfl
@[simp] theorem retire_lostList (s : State) : (retire s).lostList = s.lostList := rfl
@[simp] theorem retire_keys (s : State) : (retire s).keys = s.keys := rfl
@[simp] theorem retire_hostMem (s : State) : (retire s).hostMem = s.hostMem := rfl
@[simp] theorem retire_host (s : State) : (retire s).host = s.host := rfl
@[simp] theorem retire_ports (s : State) : (retire s).ports = s.ports := rfl
@[simp] theorem retire_dies (s : State) : (retire s).dies = s.dies := rfl
@[simp] theorem retire_banks (s : State) : (retire s).banks = s.banks := rfl
@[simp] theorem retire_fwChain (s : State) : (retire s).fwChain = s.fwChain := rfl
@[simp] theorem retire_sysChain (s : State) : (retire s).sysChain = s.sysChain := rfl
@[simp] theorem retire_saves (s : State) : (retire s).saves = s.saves := rfl
@[simp] theorem retire_images (s : State) : (retire s).images = s.images := rfl
@[simp] theorem retire_powered (s : State) : (retire s).powered = s.powered := rfl
@[simp] theorem retire_started (s : State) : (retire s).started = s.started := rfl
@[simp] theorem jump_agenda (a : LAddr) (s : State) : (jump a s).agenda = s.agenda := rfl
@[simp] theorem jump_actor (a : LAddr) (s : State) : (jump a s).actor = s.actor := rfl
@[simp] theorem jump_rot (a : LAddr) (s : State) : (jump a s).rot = s.rot := rfl
@[simp] theorem jump_opening (a : LAddr) (s : State) : (jump a s).opening = s.opening := rfl
@[simp] theorem jump_tick (a : LAddr) (s : State) : (jump a s).tick = s.tick := rfl
@[simp] theorem jump_draw (a : LAddr) (s : State) : (jump a s).draw = s.draw := rfl
@[simp] theorem jump_cycle (a : LAddr) (s : State) : (jump a s).cycle = s.cycle := rfl
@[simp] theorem jump_phase (a : LAddr) (s : State) : (jump a s).phase = s.phase := rfl
@[simp] theorem jump_com (a : LAddr) (s : State) : (jump a s).com = s.com := rfl
@[simp] theorem jump_tenants (a : LAddr) (s : State) : (jump a s).tenants = s.tenants := rfl
@[simp] theorem jump_launches (a : LAddr) (s : State) : (jump a s).launches = s.launches := rfl
@[simp] theorem jump_presented (a : LAddr) (s : State) : (jump a s).presented = s.presented := rfl
@[simp] theorem jump_hbm (a : LAddr) (s : State) : (jump a s).hbm = s.hbm := rfl
@[simp] theorem jump_hbmKey (a : LAddr) (s : State) : (jump a s).hbmKey = s.hbmKey := rfl
@[simp] theorem jump_pageCnt (a : LAddr) (s : State) : (jump a s).pageCnt = s.pageCnt := rfl
@[simp] theorem jump_lostFrames (a : LAddr) (s : State) : (jump a s).lostFrames = s.lostFrames := rfl
@[simp] theorem jump_lostPages (a : LAddr) (s : State) : (jump a s).lostPages = s.lostPages := rfl
@[simp] theorem jump_retiredFrames (a : LAddr) (s : State) : (jump a s).retiredFrames = s.retiredFrames := rfl
@[simp] theorem jump_retiredPages (a : LAddr) (s : State) : (jump a s).retiredPages = s.retiredPages := rfl
@[simp] theorem jump_lostList (a : LAddr) (s : State) : (jump a s).lostList = s.lostList := rfl
@[simp] theorem jump_keys (a : LAddr) (s : State) : (jump a s).keys = s.keys := rfl
@[simp] theorem jump_hostMem (a : LAddr) (s : State) : (jump a s).hostMem = s.hostMem := rfl
@[simp] theorem jump_host (a : LAddr) (s : State) : (jump a s).host = s.host := rfl
@[simp] theorem jump_ports (a : LAddr) (s : State) : (jump a s).ports = s.ports := rfl
@[simp] theorem jump_dies (a : LAddr) (s : State) : (jump a s).dies = s.dies := rfl
@[simp] theorem jump_banks (a : LAddr) (s : State) : (jump a s).banks = s.banks := rfl
@[simp] theorem jump_fwChain (a : LAddr) (s : State) : (jump a s).fwChain = s.fwChain := rfl
@[simp] theorem jump_sysChain (a : LAddr) (s : State) : (jump a s).sysChain = s.sysChain := rfl
@[simp] theorem jump_saves (a : LAddr) (s : State) : (jump a s).saves = s.saves := rfl
@[simp] theorem jump_images (a : LAddr) (s : State) : (jump a s).images = s.images := rfl
@[simp] theorem jump_powered (a : LAddr) (s : State) : (jump a s).powered = s.powered := rfl
@[simp] theorem jump_started (a : LAddr) (s : State) : (jump a s).started = s.started := rfl
@[simp] theorem wait_agenda (st : Status) (s : State) : (wait st s).agenda = s.agenda := rfl
@[simp] theorem wait_actor (st : Status) (s : State) : (wait st s).actor = s.actor := rfl
@[simp] theorem wait_rot (st : Status) (s : State) : (wait st s).rot = s.rot := rfl
@[simp] theorem wait_opening (st : Status) (s : State) : (wait st s).opening = s.opening := rfl
@[simp] theorem wait_tick (st : Status) (s : State) : (wait st s).tick = s.tick := rfl
@[simp] theorem wait_draw (st : Status) (s : State) : (wait st s).draw = s.draw := rfl
@[simp] theorem wait_cycle (st : Status) (s : State) : (wait st s).cycle = s.cycle := rfl
@[simp] theorem wait_phase (st : Status) (s : State) : (wait st s).phase = s.phase := rfl
@[simp] theorem wait_com (st : Status) (s : State) : (wait st s).com = s.com := rfl
@[simp] theorem wait_tenants (st : Status) (s : State) : (wait st s).tenants = s.tenants := rfl
@[simp] theorem wait_launches (st : Status) (s : State) : (wait st s).launches = s.launches := rfl
@[simp] theorem wait_presented (st : Status) (s : State) : (wait st s).presented = s.presented := rfl
@[simp] theorem wait_hbm (st : Status) (s : State) : (wait st s).hbm = s.hbm := rfl
@[simp] theorem wait_hbmKey (st : Status) (s : State) : (wait st s).hbmKey = s.hbmKey := rfl
@[simp] theorem wait_pageCnt (st : Status) (s : State) : (wait st s).pageCnt = s.pageCnt := rfl
@[simp] theorem wait_lostFrames (st : Status) (s : State) : (wait st s).lostFrames = s.lostFrames := rfl
@[simp] theorem wait_lostPages (st : Status) (s : State) : (wait st s).lostPages = s.lostPages := rfl
@[simp] theorem wait_retiredFrames (st : Status) (s : State) : (wait st s).retiredFrames = s.retiredFrames := rfl
@[simp] theorem wait_retiredPages (st : Status) (s : State) : (wait st s).retiredPages = s.retiredPages := rfl
@[simp] theorem wait_lostList (st : Status) (s : State) : (wait st s).lostList = s.lostList := rfl
@[simp] theorem wait_keys (st : Status) (s : State) : (wait st s).keys = s.keys := rfl
@[simp] theorem wait_hostMem (st : Status) (s : State) : (wait st s).hostMem = s.hostMem := rfl
@[simp] theorem wait_host (st : Status) (s : State) : (wait st s).host = s.host := rfl
@[simp] theorem wait_ports (st : Status) (s : State) : (wait st s).ports = s.ports := rfl
@[simp] theorem wait_dies (st : Status) (s : State) : (wait st s).dies = s.dies := rfl
@[simp] theorem wait_banks (st : Status) (s : State) : (wait st s).banks = s.banks := rfl
@[simp] theorem wait_fwChain (st : Status) (s : State) : (wait st s).fwChain = s.fwChain := rfl
@[simp] theorem wait_sysChain (st : Status) (s : State) : (wait st s).sysChain = s.sysChain := rfl
@[simp] theorem wait_saves (st : Status) (s : State) : (wait st s).saves = s.saves := rfl
@[simp] theorem wait_images (st : Status) (s : State) : (wait st s).images = s.images := rfl
@[simp] theorem wait_powered (st : Status) (s : State) : (wait st s).powered = s.powered := rfl
@[simp] theorem wait_started (st : Status) (s : State) : (wait st s).started = s.started := rfl
@[simp] theorem retireInto_agenda (st : Status) (s : State) : (retireInto st s).agenda = s.agenda := rfl
@[simp] theorem retireInto_actor (st : Status) (s : State) : (retireInto st s).actor = s.actor := rfl
@[simp] theorem retireInto_rot (st : Status) (s : State) : (retireInto st s).rot = s.rot := rfl
@[simp] theorem retireInto_opening (st : Status) (s : State) : (retireInto st s).opening = s.opening := rfl
@[simp] theorem retireInto_tick (st : Status) (s : State) : (retireInto st s).tick = s.tick := rfl
@[simp] theorem retireInto_draw (st : Status) (s : State) : (retireInto st s).draw = s.draw := rfl
@[simp] theorem retireInto_cycle (st : Status) (s : State) : (retireInto st s).cycle = s.cycle := rfl
@[simp] theorem retireInto_phase (st : Status) (s : State) : (retireInto st s).phase = s.phase := rfl
@[simp] theorem retireInto_com (st : Status) (s : State) : (retireInto st s).com = s.com := rfl
@[simp] theorem retireInto_tenants (st : Status) (s : State) : (retireInto st s).tenants = s.tenants := rfl
@[simp] theorem retireInto_launches (st : Status) (s : State) : (retireInto st s).launches = s.launches := rfl
@[simp] theorem retireInto_presented (st : Status) (s : State) : (retireInto st s).presented = s.presented := rfl
@[simp] theorem retireInto_hbm (st : Status) (s : State) : (retireInto st s).hbm = s.hbm := rfl
@[simp] theorem retireInto_hbmKey (st : Status) (s : State) : (retireInto st s).hbmKey = s.hbmKey := rfl
@[simp] theorem retireInto_pageCnt (st : Status) (s : State) : (retireInto st s).pageCnt = s.pageCnt := rfl
@[simp] theorem retireInto_lostFrames (st : Status) (s : State) : (retireInto st s).lostFrames = s.lostFrames := rfl
@[simp] theorem retireInto_lostPages (st : Status) (s : State) : (retireInto st s).lostPages = s.lostPages := rfl
@[simp] theorem retireInto_retiredFrames (st : Status) (s : State) : (retireInto st s).retiredFrames = s.retiredFrames := rfl
@[simp] theorem retireInto_retiredPages (st : Status) (s : State) : (retireInto st s).retiredPages = s.retiredPages := rfl
@[simp] theorem retireInto_lostList (st : Status) (s : State) : (retireInto st s).lostList = s.lostList := rfl
@[simp] theorem retireInto_keys (st : Status) (s : State) : (retireInto st s).keys = s.keys := rfl
@[simp] theorem retireInto_hostMem (st : Status) (s : State) : (retireInto st s).hostMem = s.hostMem := rfl
@[simp] theorem retireInto_host (st : Status) (s : State) : (retireInto st s).host = s.host := rfl
@[simp] theorem retireInto_ports (st : Status) (s : State) : (retireInto st s).ports = s.ports := rfl
@[simp] theorem retireInto_dies (st : Status) (s : State) : (retireInto st s).dies = s.dies := rfl
@[simp] theorem retireInto_banks (st : Status) (s : State) : (retireInto st s).banks = s.banks := rfl
@[simp] theorem retireInto_fwChain (st : Status) (s : State) : (retireInto st s).fwChain = s.fwChain := rfl
@[simp] theorem retireInto_sysChain (st : Status) (s : State) : (retireInto st s).sysChain = s.sysChain := rfl
@[simp] theorem retireInto_saves (st : Status) (s : State) : (retireInto st s).saves = s.saves := rfl
@[simp] theorem retireInto_images (st : Status) (s : State) : (retireInto st s).images = s.images := rfl
@[simp] theorem retireInto_powered (st : Status) (s : State) : (retireInto st s).powered = s.powered := rfl
@[simp] theorem retireInto_started (st : Status) (s : State) : (retireInto st s).started = s.started := rfl

/-! ### Tenants, cores and slots after an update -/

@[simp] theorem State.dev_setDev_self (s : State) (t : Nat) (d : TenantDev) : (s.setDev t d).dev t = d := by
  simp [State.dev, State.setDev]
theorem State.dev_setDev_ne (s : State) {t k : Nat} (d : TenantDev) (h : k ≠ t) : (s.setDev t d).dev k = s.dev k := by
  simp [State.dev, State.setDev, TMap.get_set_ne _ _ _ h]
@[simp] theorem State.setDev_setDev (s : State) (t : Nat) (a b : TenantDev) :
    (s.setDev t a).setDev t b = s.setDev t b := by
  simp [State.setDev]
@[simp] theorem State.dev_modDev_self (s : State) (t : Nat) (f : TenantDev → TenantDev) :
    (s.modDev t f).dev t = f (s.dev t) := by
  simp [State.modDev]
theorem State.dev_modDev_ne (s : State) {t k : Nat} (f : TenantDev → TenantDev) (h : k ≠ t) :
    (s.modDev t f).dev k = s.dev k := by
  simp [State.modDev, State.dev_setDev_ne _ _ h]
@[simp] theorem State.old_setDev (s : State) (t k : Nat) (d : TenantDev) : (s.setDev t d).old k = s.old k := rfl
@[simp] theorem State.old_modDev (s : State) (t k : Nat) (f : TenantDev → TenantDev) : (s.modDev t f).old k = s.old k := rfl

@[simp] theorem TenantDev.core_setCore_self (d : TenantDev) (c : Nat) (k : TCore) : (d.setCore c k).core c = k := by
  simp [TenantDev.core, TenantDev.setCore]
theorem TenantDev.core_setCore_ne (d : TenantDev) {c j : Nat} (k : TCore) (h : j ≠ c) :
    (d.setCore c k).core j = d.core j := by
  simp [TenantDev.core, TenantDev.setCore, TMap.get_set_ne _ _ _ h]
@[simp] theorem TenantDev.setCore_setCore (d : TenantDev) (c : Nat) (a b : TCore) :
    (d.setCore c a).setCore c b = d.setCore c b := by
  simp [TenantDev.setCore]

@[simp] theorem TCore.slot_setSlot_self (k : TCore) (n : Nat) (x : Slot) : (k.setSlot n x).slot n = x := by
  simp [TCore.slot, TCore.setSlot]
theorem TCore.slot_setSlot_ne (k : TCore) {n j : Nat} (x : Slot) (h : j ≠ n) : (k.setSlot n x).slot j = k.slot j := by
  simp [TCore.slot, TCore.setSlot, TMap.get_set_ne _ _ _ h]
@[simp] theorem TCore.setSlot_setSlot (k : TCore) (n : Nat) (a b : Slot) :
    (k.setSlot n a).setSlot n b = k.setSlot n b := by
  simp [TCore.setSlot]

@[simp] theorem State.coreOf_setCoreOf_self (s : State) (t c : Nat) (k : TCore) : (s.setCoreOf t c k).coreOf t c = k := by
  simp [State.coreOf, State.setCoreOf]
theorem State.coreOf_setCoreOf_ne (s : State) (t : Nat) {c j : Nat} (k : TCore) (h : j ≠ c) :
    (s.setCoreOf t c k).coreOf t j = s.coreOf t j := by
  simp [State.coreOf, State.setCoreOf, TenantDev.core_setCore_ne _ _ h]
@[simp] theorem State.setCoreOf_setCoreOf (s : State) (t c : Nat) (a b : TCore) :
    (s.setCoreOf t c a).setCoreOf t c b = s.setCoreOf t c b := by
  simp [State.setCoreOf]
@[simp] theorem State.coreOf_modCoreOf_self (s : State) (t c : Nat) (f : TCore → TCore) :
    (s.modCoreOf t c f).coreOf t c = f (s.coreOf t c) := by
  simp [State.modCoreOf]
theorem State.dev_setCoreOf_ne (s : State) {t k : Nat} (c : Nat) (x : TCore) (h : k ≠ t) :
    (s.setCoreOf t c x).dev k = s.dev k := by
  simp [State.setCoreOf, State.dev_setDev_ne _ _ h]
@[simp] theorem State.dev_setCoreOf_self (s : State) (t c : Nat) (x : TCore) :
    (s.setCoreOf t c x).dev t = (s.dev t).setCore c x := by
  simp [State.setCoreOf]

@[simp] theorem State.slotOf_setSlotOf_self (s : State) (p : Party) (x : Slot) : (s.setSlotOf p x).slotOf p = x := by
  simp [State.slotOf, State.setSlotOf]
@[simp] theorem State.setSlotOf_setSlotOf (s : State) (p : Party) (a b : Slot) :
    (s.setSlotOf p a).setSlotOf p b = s.setSlotOf p b := by
  simp [State.setSlotOf]
@[simp] theorem State.slotOf_modSlotOf_self (s : State) (p : Party) (f : Slot → Slot) :
    (s.modSlotOf p f).slotOf p = f (s.slotOf p) := by
  simp [State.modSlotOf]

@[simp] theorem State.slotHere_modSlot (s : State) (f : Slot → Slot) : (s.modSlot f).slotHere = f s.slotHere := by
  simp [State.slotHere, State.modSlot]
@[simp] theorem State.modSlot_modSlot (s : State) (f g : Slot → Slot) :
    (s.modSlot f).modSlot g = s.modSlot (fun x => g (f x)) := by
  simp [State.modSlot, State.modSlotOf]

/-! ### The running thread -/

@[simp] theorem Slot.top_setTop (x : Slot) (th : Thread) : (x.setTop th).top = th := by
  cases h : x.handlers <;> simp [Slot.setTop, Slot.top, h]
@[simp] theorem Slot.setTop_setTop (x : Slot) (a b : Thread) : (x.setTop a).setTop b = x.setTop b := by
  cases h : x.handlers <;> simp [Slot.setTop, h]
@[simp] theorem Slot.setTop_top (x : Slot) : x.setTop x.top = x := by
  obtain ⟨_, hs, _⟩ := x
  cases hs <;> rfl

@[simp] theorem State.thr_modThr (s : State) (f : Thread → Thread) : (s.modThr f).thr = f s.thr := by
  simp [State.thr, State.modThr]
@[simp] theorem State.modThr_modThr (s : State) (f g : Thread → Thread) :
    (s.modThr f).modThr g = s.modThr (fun th => g (f th)) := by
  simp [State.modThr]
theorem State.slotHere_modThr (s : State) (f : Thread → Thread) :
    (s.modThr f).slotHere = s.slotHere.setTop (f s.thr) := by
  simp [State.modThr, State.thr]

@[simp] theorem Thread.reg_zero (th : Thread) : th.reg 0#5 = 0#64 := by simp [Thread.reg]
@[simp] theorem Thread.setReg_zero (th : Thread) (v : Word) : th.setReg 0#5 v = th := by simp [Thread.setReg]

/-- A register that is written is read back, unless it is g0. -/
theorem Thread.reg_setReg_self (th : Thread) (r : BitVec 5) (v : Word) (h : r ≠ 0#5) : (th.setReg r v).reg r = v := by
  simp [Thread.reg, Thread.setReg, h]
/-- A write leaves every other register alone. -/
theorem Thread.reg_setReg_ne (th : Thread) {r q : BitVec 5} (v : Word) (h : q ≠ r) :
    (th.setReg r v).reg q = th.reg q := by
  by_cases hr : r = 0#5
  · simp [hr]
  · have : q.toNat ≠ r.toNat := fun e => h (BitVec.eq_of_toNat_eq e)
    simp [Thread.reg, Thread.setReg, hr, TMap.get_set_ne _ _ _ this]

@[simp] theorem State.thr_setReg (s : State) (r : BitVec 5) (v : Word) : (s.setReg r v).thr = s.thr.setReg r v := by
  simp [State.setReg]
theorem State.reg_setReg_self (s : State) (r : BitVec 5) (v : Word) (h : r ≠ 0#5) : (s.setReg r v).reg r = v := by
  simp [State.reg, Thread.reg_setReg_self _ _ _ h]
theorem State.reg_setReg_ne (s : State) {r q : BitVec 5} (v : Word) (h : q ≠ r) :
    (s.setReg r v).reg q = s.reg q := by
  simp [State.reg, Thread.reg_setReg_ne _ _ h]

@[simp] theorem Thread.advance_g (th : Thread) : th.advance.g = th.g := by
  unfold Thread.advance
  split
  · rfl
  · split
    · rfl
    · split <;> rfl
@[simp] theorem Thread.advance_reg (th : Thread) (r : BitVec 5) : th.advance.reg r = th.reg r := by
  simp [Thread.reg]
@[simp] theorem State.reg_retire (s : State) (r : BitVec 5) : (retire s).reg r = s.reg r := by
  simp [State.reg, retire]

end Sys2Proof.Machine
end

