-- ==== Sys2Proof/Laws/Frame.lean ====
section
/-! SUPPORT. What the updates of the running thread, its slot, its core and its tenant leave alone. -/

namespace Sys2Proof.Machine

theorem SameBytes.refl (s : State) : SameBytes s s := ⟨fun _ _ => ⟨rfl, rfl⟩, fun _ => rfl, fun _ => rfl⟩

theorem SameBytes.trans {s t u : State} (h : SameBytes s t) (g : SameBytes t u) : SameBytes s u :=
  ⟨fun k a => ⟨(g.1 k a).1.trans (h.1 k a).1, (g.1 k a).2.trans (h.1 k a).2⟩, fun a => (g.2.1 a).trans (h.2.1 a),
    fun a => (g.2.2 a).trans (h.2.2 a)⟩

theorem onlyTenant_setDev (s : State) (d : TenantDev) : OnlyTenant s (s.setDev s.actor.tid d) :=
  ⟨rfl, fun _ hk => State.dev_setDev_ne s d hk⟩

theorem onlyTenant_modDev (s : State) (f : TenantDev → TenantDev) : OnlyTenant s (s.modDev s.actor.tid f) :=
  onlyTenant_setDev s _

/-- An update of the actor's core changes nothing beside that core. -/
theorem onlyCore_setCore (s : State) (x : TCore) : OnlyCore s (s.setCoreOf s.actor.tid s.actor.core x) := by
  refine ⟨onlyTenant_setDev s _, ?_, fun c hc => State.coreOf_setCoreOf_ne s _ x hc, fun k a => ?_, fun _ => rfl,
    fun _ => rfl⟩
  · simp [TenantDev.setCore]
  · by_cases h : k = s.actor.tid
    · subst h; simp [TenantDev.setCore]
    · simp [State.dev_setCoreOf_ne s _ x h]

theorem onlyCore_modHere (s : State) (f : TCore → TCore) : OnlyCore s (s.modHere f) := onlyCore_setCore s _

@[simp] theorem State.here_modHere (s : State) (f : TCore → TCore) : (s.modHere f).here = f s.here := by
  simp [State.here, State.modHere]

theorem State.here_modSlot (s : State) (f : Slot → Slot) :
    (s.modSlot f).here = s.here.setSlot s.actor.slot (f s.slotHere) := by
  simp [State.here, State.modSlot, State.modSlotOf, State.setSlotOf, State.slotHere]

/-- An update of the actor's slot changes nothing beside that slot. -/
theorem onlySlot_modSlot (s : State) (f : Slot → Slot) : OnlySlot s (s.modSlot f) := by
  refine ⟨onlyCore_setCore s _, ?_, fun n hn => ?_⟩
  · rw [State.here_modSlot]; rfl
  · rw [State.here_modSlot]; exact TCore.slot_setSlot_ne _ _ hn

/-- An update of the running thread changes nothing beside that thread. -/
theorem onlyThread_modThr (s : State) (f : Thread → Thread) : OnlyThread s (s.modThr f) := by
  refine ⟨onlySlot_modSlot s _, ?_⟩
  rw [State.slotHere_modThr, State.thr_modThr]

theorem retire_setReg (s : State) (d : BitVec 5) (v : Word) :
    retire (s.setReg d v) = s.modThr (fun th => (th.setReg d v).advance) := by
  simp [retire, State.setReg]

/-- A write of a scalar register and the step to the next instruction. -/
theorem onlyThread_retire_setReg (s : State) (d : BitVec 5) (v : Word) : OnlyThread s (retire (s.setReg d v)) := by
  rw [retire_setReg]; exact onlyThread_modThr s _

theorem onlyThread_retire (s : State) : OnlyThread s (retire s) := onlyThread_modThr s _

theorem onlyThread_jump (a : LAddr) (s : State) : OnlyThread s (jump a s) := onlyThread_modThr s _

@[simp] theorem State.reg_modSlot_v (s : State) (r : BitVec 5) (n : Nat) (x : VReg) : (s.setVreg n x).reg r = s.reg r := by
  unfold State.reg State.thr State.setVreg
  rw [State.slotHere_modSlot]
  rfl

/-- A vector register that is written is read back; the others stand. -/
theorem State.vreg_setVreg (s : State) (n m : Nat) (x : VReg) :
    (s.setVreg n x).vreg m = if m = n then x else s.vreg m := by
  unfold State.vreg State.setVreg
  rw [State.slotHere_modSlot]
  exact TMap.get_set _ _ _ _ _

@[simp] theorem State.vreg_modThr (s : State) (f : Thread → Thread) (n : Nat) : (s.modThr f).vreg n = s.vreg n := by
  unfold State.vreg
  rw [State.slotHere_modThr]
  unfold Slot.setTop
  split <;> rfl

@[simp] theorem State.vreg_retire (s : State) (n : Nat) : (retire s).vreg n = s.vreg n := State.vreg_modThr s _ n

end Sys2Proof.Machine
end

