-- ==== Sys2Proof/Laws/Issue.lean ====
section
/-! SUPPORT. Issue: what an instruction that passes its checks does, and the trap of one that does not (spec/03_encoding.md
R62). -/

namespace Sys2Proof.Machine

theorem checks16_none {i : Instr} {s : State} (h : Issues i s) : checks16 s i = none := by
  obtain ⟨_, h1, h2, h3, h4, h5, h6, _⟩ := h
  unfold checks16
  have h3' : ((privilegedOf i || highCsr i) && !s.myLaunch.priv) = false := by
    cases hp : (privilegedOf i || highCsr i)
    · rfl
    · simp [h3 hp]
  rw [h1, h2, h3', h4, h5, h6]
  rfl

/-- An instruction that issues has its effect. -/
theorem issue_of_issues {i : Instr} {s : State} (k : State → Out) (h : Issues i s) : issue i s k = k s := by
  have hc := checks16_none h
  obtain ⟨hm, _, _, _, _, _, _, h7⟩ := h
  simp [issue, hm, hc, h7, Acc.out]

/-- An instruction that fails one of checks 1 to 6 takes that check's trap. -/
theorem issue_of_fail {i : Instr} {s : State} {c : Cause} {a : Word} (k : State → Out) (hm : s.mayIssue = true)
    (h : checks16 s i = some (c, a)) : issue i s k = trapOut { cause := c, val := trapWords s i, aux := a } s := by
  simp [issue, hm, h]

/-- Whatever an instruction that may issue answers is its effect, a trap, or the stop at a revoked frame. -/
theorem issue_cases (i : Instr) (s : State) (k : State → Out) :
    issue i s k = .fault .noThread ∨ (∃ t, issue i s k = .next (takeTrap t s)) ∨
      (∃ a, issue i s k = .next (lostStop a s)) ∨ issue i s k = k s := by
  unfold issue
  split
  · exact .inl rfl
  · split
    · exact .inr (.inl ⟨_, rfl⟩)
    · unfold Acc.out
      split
      · exact .inr (.inr (.inr rfl))
      · exact .inr (.inl ⟨_, rfl⟩)
      · exact .inr (.inr (.inl ⟨_, rfl⟩))

end Sys2Proof.Machine
end

