-- ==== Sys2Proof/Laws/PerInstr.lean ====
section
/-! SUPPORT. Encoding, instruction by instruction: the word of a well-formed instruction is decoded to it again
(spec/03_encoding.md R55 to R60). One lemma for each constructor; a step without a word is outside the statement. -/

namespace Sys2Proof

/-- The decoding of the instruction's word is the instruction. -/
def Laws.RoundTrip.Statement (i : Instr) : Prop := i.hasWord = true → i.wf = true → decode (encode i) = .ok i

theorem decode_of_fields (w : IWord) (i : Instr) (h : decodeFields w = .ok i) (hw : i.wf = true) :
    decode w = .ok i := by
  simp [decode, h, hw]

theorem decodeFields_01 (w : IWord) (h : fld w 26 6 = 1#6) : decodeFields w = decode01 w := by
  unfold decodeFields; rw [h]; rfl
theorem decodeFields_02 (w : IWord) (h : fld w 26 6 = 2#6) : decodeFields w = decode02 w := by
  unfold decodeFields; rw [h]; rfl
theorem decodeFields_03 (w : IWord) (h : fld w 26 6 = 3#6) : decodeFields w = decode03 w := by
  unfold decodeFields; rw [h]; rfl
theorem decodeFields_04 (w : IWord) (h : fld w 26 6 = 4#6) : decodeFields w = decode04 w := by
  unfold decodeFields; rw [h]; rfl
theorem decodeFields_05 (w : IWord) (h : fld w 26 6 = 5#6) : decodeFields w = decode05 w := by
  unfold decodeFields; rw [h]; rfl
theorem decodeFields_06 (w : IWord) (h : fld w 26 6 = 6#6) : decodeFields w = decode06 w := by
  unfold decodeFields; rw [h]; rfl
theorem decodeFields_07 (w : IWord) (h : fld w 26 6 = 7#6) : decodeFields w = decode07 w := by
  unfold decodeFields; rw [h]; rfl
theorem decodeFields_08 (w : IWord) (h : fld w 26 6 = 8#6) : decodeFields w = decode08 w := by
  unfold decodeFields; rw [h]; rfl
theorem decodeFields_09 (w : IWord) (h : fld w 26 6 = 9#6) : decodeFields w = decode09 w := by
  unfold decodeFields; rw [h]; rfl
theorem decodeFields_0A (w : IWord) (h : fld w 26 6 = 10#6) : decodeFields w = decode0A w := by
  unfold decodeFields; rw [h]; rfl
theorem decodeFields_0B (w : IWord) (h : fld w 26 6 = 11#6) : decodeFields w = decode0B w := by
  unfold decodeFields; rw [h]; rfl
theorem decodeFields_0C (w : IWord) (h : fld w 26 6 = 12#6) : decodeFields w = decode0C w := by
  unfold decodeFields; rw [h]; rfl
theorem decodeFields_0D (w : IWord) (h : fld w 26 6 = 13#6) : decodeFields w = decode0D w := by
  unfold decodeFields; rw [h]; rfl
theorem decodeFields_0E (w : IWord) (h : fld w 26 6 = 14#6) : decodeFields w = decode0E w := by
  unfold decodeFields; rw [h]; rfl
theorem decodeFields_0F (w : IWord) (h : fld w 26 6 = 15#6) : decodeFields w = decode0F w := by
  unfold decodeFields; rw [h]; rfl
theorem decodeFields_10 (w : IWord) (h : fld w 26 6 = 16#6) : decodeFields w = decode10 w := by
  unfold decodeFields; rw [h]; rfl
theorem decodeFields_11 (w : IWord) (h : fld w 26 6 = 17#6) : decodeFields w = decode11 w := by
  unfold decodeFields; rw [h]; rfl
theorem decodeFields_12 (w : IWord) (h : fld w 26 6 = 18#6) : decodeFields w = decode12 w := by
  unfold decodeFields; rw [h]; rfl
theorem decodeFields_13 (w : IWord) (h : fld w 26 6 = 19#6) : decodeFields w = decode13 w := by
  unfold decodeFields; rw [h]; rfl
theorem decodeFields_14 (w : IWord) (h : fld w 26 6 = 20#6) : decodeFields w = decode14 w := by
  unfold decodeFields; rw [h]; rfl
theorem decodeFields_15 (w : IWord) (h : fld w 26 6 = 21#6) : decodeFields w = decode15 w := by
  unfold decodeFields; rw [h]; rfl
theorem decodeFields_16 (w : IWord) (h : fld w 26 6 = 22#6) : decodeFields w = decode16 w := by
  unfold decodeFields; rw [h]; rfl
theorem decodeFields_17 (w : IWord) (h : fld w 26 6 = 23#6) : decodeFields w = decode17 w := by
  unfold decodeFields; rw [h]; rfl
theorem decodeFields_18 (w : IWord) (h : fld w 26 6 = 24#6) : decodeFields w = decode18 w := by
  unfold decodeFields; rw [h]; rfl
theorem decodeFields_19 (w : IWord) (h : fld w 26 6 = 25#6) : decodeFields w = decode19 w := by
  unfold decodeFields; rw [h]; rfl
theorem decodeFields_1A (w : IWord) (h : fld w 26 6 = 26#6) : decodeFields w = decode1A w := by
  unfold decodeFields; rw [h]; rfl
theorem decodeFields_1B (w : IWord) (h : fld w 26 6 = 27#6) : decodeFields w = decode1B w := by
  unfold decodeFields; rw [h]; rfl
theorem decodeFields_1C (w : IWord) (h : fld w 26 6 = 28#6) : decodeFields w = decode1C w := by
  unfold decodeFields; rw [h]; rfl
theorem decodeFields_1D (w : IWord) (h : fld w 26 6 = 29#6) : decodeFields w = decode1D w := by
  unfold decodeFields; rw [h]; rfl
theorem decodeFields_1E (w : IWord) (h : fld w 26 6 = 30#6) : decodeFields w = decode1E w := by
  unfold decodeFields; rw [h]; rfl
theorem decodeFields_1F (w : IWord) (h : fld w 26 6 = 31#6) : decodeFields w = decode1F w := by
  unfold decodeFields; rw [h]; rfl
theorem decodeFields_20 (w : IWord) (h : fld w 26 6 = 32#6) : decodeFields w = decode20 w := by
  unfold decodeFields; rw [h]; rfl
theorem decodeFields_21 (w : IWord) (h : fld w 26 6 = 33#6) : decodeFields w = decode21 w := by
  unfold decodeFields; rw [h]; rfl
theorem decodeFields_22 (w : IWord) (h : fld w 26 6 = 34#6) : decodeFields w = decode22 w := by
  unfold decodeFields; rw [h]; rfl
theorem decodeFields_23 (w : IWord) (h : fld w 26 6 = 35#6) : decodeFields w = decode23 w := by
  unfold decodeFields; rw [h]; rfl
theorem decodeFields_24 (w : IWord) (h : fld w 26 6 = 36#6) : decodeFields w = decode24 w := by
  unfold decodeFields; rw [h]; rfl
theorem decodeFields_25 (w : IWord) (h : fld w 26 6 = 37#6) : decodeFields w = decode25 w := by
  unfold decodeFields; rw [h]; rfl
theorem decodeFields_26 (w : IWord) (h : fld w 26 6 = 38#6) : decodeFields w = decode26 w := by
  unfold decodeFields; rw [h]; rfl
theorem decodeFields_27 (w : IWord) (h : fld w 26 6 = 39#6) : decodeFields w = decode27 w := by
  unfold decodeFields; rw [h]; rfl
theorem decodeFields_28 (w : IWord) (h : fld w 26 6 = 40#6) : decodeFields w = decode28 w := by
  unfold decodeFields; rw [h]; rfl
theorem decodeFields_29 (w : IWord) (h : fld w 26 6 = 41#6) : decodeFields w = decode29 w := by
  unfold decodeFields; rw [h]; rfl
theorem decodeFields_2A (w : IWord) (h : fld w 26 6 = 42#6) : decodeFields w = decode2A w := by
  unfold decodeFields; rw [h]; rfl
theorem decodeFields_2B (w : IWord) (h : fld w 26 6 = 43#6) : decodeFields w = decode2B w := by
  unfold decodeFields; rw [h]; rfl
theorem decodeFields_2C (w : IWord) (h : fld w 26 6 = 44#6) : decodeFields w = decode2C w := by
  unfold decodeFields; rw [h]; rfl
theorem decodeFields_2D (w : IWord) (h : fld w 26 6 = 45#6) : decodeFields w = decode2D w := by
  unfold decodeFields; rw [h]; rfl
theorem decodeFields_2E (w : IWord) (h : fld w 26 6 = 46#6) : decodeFields w = decode2E w := by
  unfold decodeFields; rw [h]; rfl
theorem decodeFields_2F (w : IWord) (h : fld w 26 6 = 47#6) : decodeFields w = decode2F w := by
  unfold decodeFields; rw [h]; rfl
theorem decodeFields_30 (w : IWord) (h : fld w 26 6 = 48#6) : decodeFields w = decode30 w := by
  unfold decodeFields; rw [h]; rfl
theorem decodeFields_31 (w : IWord) (h : fld w 26 6 = 49#6) : decodeFields w = decode31 w := by
  unfold decodeFields; rw [h]; rfl
theorem decodeFields_32 (w : IWord) (h : fld w 26 6 = 50#6) : decodeFields w = decode32 w := by
  unfold decodeFields; rw [h]; rfl
theorem decodeFields_33 (w : IWord) (h : fld w 26 6 = 51#6) : decodeFields w = decode33 w := by
  unfold decodeFields; rw [h]; rfl
theorem decodeFields_34 (w : IWord) (h : fld w 26 6 = 52#6) : decodeFields w = decode34 w := by
  unfold decodeFields; rw [h]; rfl
theorem decodeFields_35 (w : IWord) (h : fld w 26 6 = 53#6) : decodeFields w = decode35 w := by
  unfold decodeFields; rw [h]; rfl
theorem decodeFields_36 (w : IWord) (h : fld w 26 6 = 54#6) : decodeFields w = decode36 w := by
  unfold decodeFields; rw [h]; rfl
theorem decodeFields_37 (w : IWord) (h : fld w 26 6 = 55#6) : decodeFields w = decode37 w := by
  unfold decodeFields; rw [h]; rfl
theorem decodeFields_38 (w : IWord) (h : fld w 26 6 = 56#6) : decodeFields w = decode38 w := by
  unfold decodeFields; rw [h]; rfl
theorem decodeFields_39 (w : IWord) (h : fld w 26 6 = 57#6) : decodeFields w = decode39 w := by
  unfold decodeFields; rw [h]; rfl
theorem decodeFields_3A (w : IWord) (h : fld w 26 6 = 58#6) : decodeFields w = decode3A w := by
  unfold decodeFields; rw [h]; rfl
theorem decodeFields_3B (w : IWord) (h : fld w 26 6 = 59#6) : decodeFields w = decode3B w := by
  unfold decodeFields; rw [h]; rfl
theorem decodeFields_3F (w : IWord) (h : fld w 26 6 = 63#6) : decodeFields w = decode3F w := by
  unfold decodeFields; rw [h]; rfl

theorem Laws.RoundTrip.add (d : BitVec 5) (a : BitVec 5) (b : BitVec 5) (p : BitVec 1) (s : BitVec 1) (r : BitVec 1) : Laws.RoundTrip.Statement (.add d a b p s r) := by
  intro _ h
  refine decode_of_fields _ _ ?_ h
  unfold encode
  rw [decodeFields_01 _ (fld_packAlu_op ..)]
  unfold decode01
  rw [fld_packAlu_d, fld_packAlu_a, fld_packAlu_b, fld_packAlu_p, fld_packAlu_s, fld_packAlu_r, fld_packAlu_fn]
  rfl
theorem Laws.RoundTrip.sub (d : BitVec 5) (a : BitVec 5) (b : BitVec 5) (p : BitVec 1) (s : BitVec 1) (r : BitVec 1) : Laws.RoundTrip.Statement (.sub d a b p s r) := by
  intro _ h
  refine decode_of_fields _ _ ?_ h
  unfold encode
  rw [decodeFields_01 _ (fld_packAlu_op ..)]
  unfold decode01
  rw [fld_packAlu_d, fld_packAlu_a, fld_packAlu_b, fld_packAlu_p, fld_packAlu_s, fld_packAlu_r, fld_packAlu_fn]
  rfl
theorem Laws.RoundTrip.and (d : BitVec 5) (a : BitVec 5) (b : BitVec 5) (p : BitVec 1) (s : BitVec 1) (r : BitVec 1) : Laws.RoundTrip.Statement (.and d a b p s r) := by
  intro _ h
  refine decode_of_fields _ _ ?_ h
  unfold encode
  rw [decodeFields_01 _ (fld_packAlu_op ..)]
  unfold decode01
  rw [fld_packAlu_d, fld_packAlu_a, fld_packAlu_b, fld_packAlu_p, fld_packAlu_s, fld_packAlu_r, fld_packAlu_fn]
  rfl
theorem Laws.RoundTrip.or (d : BitVec 5) (a : BitVec 5) (b : BitVec 5) (p : BitVec 1) (s : BitVec 1) (r : BitVec 1) : Laws.RoundTrip.Statement (.or d a b p s r) := by
  intro _ h
  refine decode_of_fields _ _ ?_ h
  unfold encode
  rw [decodeFields_01 _ (fld_packAlu_op ..)]
  unfold decode01
  rw [fld_packAlu_d, fld_packAlu_a, fld_packAlu_b, fld_packAlu_p, fld_packAlu_s, fld_packAlu_r, fld_packAlu_fn]
  rfl
theorem Laws.RoundTrip.xor (d : BitVec 5) (a : BitVec 5) (b : BitVec 5) (p : BitVec 1) (s : BitVec 1) (r : BitVec 1) : Laws.RoundTrip.Statement (.xor d a b p s r) := by
  intro _ h
  refine decode_of_fields _ _ ?_ h
  unfold encode
  rw [decodeFields_01 _ (fld_packAlu_op ..)]
  unfold decode01
  rw [fld_packAlu_d, fld_packAlu_a, fld_packAlu_b, fld_packAlu_p, fld_packAlu_s, fld_packAlu_r, fld_packAlu_fn]
  rfl
theorem Laws.RoundTrip.andn (d : BitVec 5) (a : BitVec 5) (b : BitVec 5) (p : BitVec 1) (s : BitVec 1) (r : BitVec 1) : Laws.RoundTrip.Statement (.andn d a b p s r) := by
  intro _ h
  refine decode_of_fields _ _ ?_ h
  unfold encode
  rw [decodeFields_01 _ (fld_packAlu_op ..)]
  unfold decode01
  rw [fld_packAlu_d, fld_packAlu_a, fld_packAlu_b, fld_packAlu_p, fld_packAlu_s, fld_packAlu_r, fld_packAlu_fn]
  rfl
theorem Laws.RoundTrip.sll (d : BitVec 5) (a : BitVec 5) (b : BitVec 5) (p : BitVec 1) (s : BitVec 1) (r : BitVec 1) : Laws.RoundTrip.Statement (.sll d a b p s r) := by
  intro _ h
  refine decode_of_fields _ _ ?_ h
  unfold encode
  rw [decodeFields_01 _ (fld_packAlu_op ..)]
  unfold decode01
  rw [fld_packAlu_d, fld_packAlu_a, fld_packAlu_b, fld_packAlu_p, fld_packAlu_s, fld_packAlu_r, fld_packAlu_fn]
  rfl
theorem Laws.RoundTrip.srl (d : BitVec 5) (a : BitVec 5) (b : BitVec 5) (p : BitVec 1) (s : BitVec 1) (r : BitVec 1) : Laws.RoundTrip.Statement (.srl d a b p s r) := by
  intro _ h
  refine decode_of_fields _ _ ?_ h
  unfold encode
  rw [decodeFields_01 _ (fld_packAlu_op ..)]
  unfold decode01
  rw [fld_packAlu_d, fld_packAlu_a, fld_packAlu_b, fld_packAlu_p, fld_packAlu_s, fld_packAlu_r, fld_packAlu_fn]
  rfl
theorem Laws.RoundTrip.sra (d : BitVec 5) (a : BitVec 5) (b : BitVec 5) (p : BitVec 1) (s : BitVec 1) (r : BitVec 1) : Laws.RoundTrip.Statement (.sra d a b p s r) := by
  intro _ h
  refine decode_of_fields _ _ ?_ h
  unfold encode
  rw [decodeFields_01 _ (fld_packAlu_op ..)]
  unfold decode01
  rw [fld_packAlu_d, fld_packAlu_a, fld_packAlu_b, fld_packAlu_p, fld_packAlu_s, fld_packAlu_r, fld_packAlu_fn]
  rfl
theorem Laws.RoundTrip.mul (d : BitVec 5) (a : BitVec 5) (b : BitVec 5) (p : BitVec 1) (s : BitVec 1) (r : BitVec 1) : Laws.RoundTrip.Statement (.mul d a b p s r) := by
  intro _ h
  refine decode_of_fields _ _ ?_ h
  unfold encode
  rw [decodeFields_01 _ (fld_packAlu_op ..)]
  unfold decode01
  rw [fld_packAlu_d, fld_packAlu_a, fld_packAlu_b, fld_packAlu_p, fld_packAlu_s, fld_packAlu_r, fld_packAlu_fn]
  rfl
theorem Laws.RoundTrip.mulh (d : BitVec 5) (a : BitVec 5) (b : BitVec 5) (p : BitVec 1) (s : BitVec 1) (r : BitVec 1) : Laws.RoundTrip.Statement (.mulh d a b p s r) := by
  intro _ h
  refine decode_of_fields _ _ ?_ h
  unfold encode
  rw [decodeFields_01 _ (fld_packAlu_op ..)]
  unfold decode01
  rw [fld_packAlu_d, fld_packAlu_a, fld_packAlu_b, fld_packAlu_p, fld_packAlu_s, fld_packAlu_r, fld_packAlu_fn]
  rfl
theorem Laws.RoundTrip.div (d : BitVec 5) (a : BitVec 5) (b : BitVec 5) (p : BitVec 1) (s : BitVec 1) (r : BitVec 1) : Laws.RoundTrip.Statement (.div d a b p s r) := by
  intro _ h
  refine decode_of_fields _ _ ?_ h
  unfold encode
  rw [decodeFields_01 _ (fld_packAlu_op ..)]
  unfold decode01
  rw [fld_packAlu_d, fld_packAlu_a, fld_packAlu_b, fld_packAlu_p, fld_packAlu_s, fld_packAlu_r, fld_packAlu_fn]
  rfl
theorem Laws.RoundTrip.divu (d : BitVec 5) (a : BitVec 5) (b : BitVec 5) (p : BitVec 1) (s : BitVec 1) (r : BitVec 1) : Laws.RoundTrip.Statement (.divu d a b p s r) := by
  intro _ h
  refine decode_of_fields _ _ ?_ h
  unfold encode
  rw [decodeFields_01 _ (fld_packAlu_op ..)]
  unfold decode01
  rw [fld_packAlu_d, fld_packAlu_a, fld_packAlu_b, fld_packAlu_p, fld_packAlu_s, fld_packAlu_r, fld_packAlu_fn]
  rfl
theorem Laws.RoundTrip.rem (d : BitVec 5) (a : BitVec 5) (b : BitVec 5) (p : BitVec 1) (s : BitVec 1) (r : BitVec 1) : Laws.RoundTrip.Statement (.rem d a b p s r) := by
  intro _ h
  refine decode_of_fields _ _ ?_ h
  unfold encode
  rw [decodeFields_01 _ (fld_packAlu_op ..)]
  unfold decode01
  rw [fld_packAlu_d, fld_packAlu_a, fld_packAlu_b, fld_packAlu_p, fld_packAlu_s, fld_packAlu_r, fld_packAlu_fn]
  rfl
theorem Laws.RoundTrip.slt (d : BitVec 5) (a : BitVec 5) (b : BitVec 5) (p : BitVec 1) (s : BitVec 1) (r : BitVec 1) : Laws.RoundTrip.Statement (.slt d a b p s r) := by
  intro _ h
  refine decode_of_fields _ _ ?_ h
  unfold encode
  rw [decodeFields_01 _ (fld_packAlu_op ..)]
  unfold decode01
  rw [fld_packAlu_d, fld_packAlu_a, fld_packAlu_b, fld_packAlu_p, fld_packAlu_s, fld_packAlu_r, fld_packAlu_fn]
  rfl
theorem Laws.RoundTrip.sltu (d : BitVec 5) (a : BitVec 5) (b : BitVec 5) (p : BitVec 1) (s : BitVec 1) (r : BitVec 1) : Laws.RoundTrip.Statement (.sltu d a b p s r) := by
  intro _ h
  refine decode_of_fields _ _ ?_ h
  unfold encode
  rw [decodeFields_01 _ (fld_packAlu_op ..)]
  unfold decode01
  rw [fld_packAlu_d, fld_packAlu_a, fld_packAlu_b, fld_packAlu_p, fld_packAlu_s, fld_packAlu_r, fld_packAlu_fn]
  rfl
theorem Laws.RoundTrip.min (d : BitVec 5) (a : BitVec 5) (b : BitVec 5) (p : BitVec 1) (s : BitVec 1) (r : BitVec 1) : Laws.RoundTrip.Statement (.min d a b p s r) := by
  intro _ h
  refine decode_of_fields _ _ ?_ h
  unfold encode
  rw [decodeFields_01 _ (fld_packAlu_op ..)]
  unfold decode01
  rw [fld_packAlu_d, fld_packAlu_a, fld_packAlu_b, fld_packAlu_p, fld_packAlu_s, fld_packAlu_r, fld_packAlu_fn]
  rfl
theorem Laws.RoundTrip.max (d : BitVec 5) (a : BitVec 5) (b : BitVec 5) (p : BitVec 1) (s : BitVec 1) (r : BitVec 1) : Laws.RoundTrip.Statement (.max d a b p s r) := by
  intro _ h
  refine decode_of_fields _ _ ?_ h
  unfold encode
  rw [decodeFields_01 _ (fld_packAlu_op ..)]
  unfold decode01
  rw [fld_packAlu_d, fld_packAlu_a, fld_packAlu_b, fld_packAlu_p, fld_packAlu_s, fld_packAlu_r, fld_packAlu_fn]
  rfl
theorem Laws.RoundTrip.minu (d : BitVec 5) (a : BitVec 5) (b : BitVec 5) (p : BitVec 1) (s : BitVec 1) (r : BitVec 1) : Laws.RoundTrip.Statement (.minu d a b p s r) := by
  intro _ h
  refine decode_of_fields _ _ ?_ h
  unfold encode
  rw [decodeFields_01 _ (fld_packAlu_op ..)]
  unfold decode01
  rw [fld_packAlu_d, fld_packAlu_a, fld_packAlu_b, fld_packAlu_p, fld_packAlu_s, fld_packAlu_r, fld_packAlu_fn]
  rfl
theorem Laws.RoundTrip.maxu (d : BitVec 5) (a : BitVec 5) (b : BitVec 5) (p : BitVec 1) (s : BitVec 1) (r : BitVec 1) : Laws.RoundTrip.Statement (.maxu d a b p s r) := by
  intro _ h
  refine decode_of_fields _ _ ?_ h
  unfold encode
  rw [decodeFields_01 _ (fld_packAlu_op ..)]
  unfold decode01
  rw [fld_packAlu_d, fld_packAlu_a, fld_packAlu_b, fld_packAlu_p, fld_packAlu_s, fld_packAlu_r, fld_packAlu_fn]
  rfl
theorem Laws.RoundTrip.clz (d : BitVec 5) (a : BitVec 5) (p : BitVec 1) (r : BitVec 1) : Laws.RoundTrip.Statement (.clz d a p r) := by
  intro _ h
  refine decode_of_fields _ _ ?_ h
  unfold encode
  rw [decodeFields_01 _ (fld_packAlu_op ..)]
  unfold decode01
  rw [fld_packAlu_d, fld_packAlu_a, fld_packAlu_b, fld_packAlu_p, fld_packAlu_s, fld_packAlu_r, fld_packAlu_fn]
  rfl
theorem Laws.RoundTrip.popc (d : BitVec 5) (a : BitVec 5) (p : BitVec 1) (r : BitVec 1) : Laws.RoundTrip.Statement (.popc d a p r) := by
  intro _ h
  refine decode_of_fields _ _ ?_ h
  unfold encode
  rw [decodeFields_01 _ (fld_packAlu_op ..)]
  unfold decode01
  rw [fld_packAlu_d, fld_packAlu_a, fld_packAlu_b, fld_packAlu_p, fld_packAlu_s, fld_packAlu_r, fld_packAlu_fn]
  rfl
theorem Laws.RoundTrip.addi (d : BitVec 5) (a : BitVec 5) (i : BitVec 16) : Laws.RoundTrip.Statement (.addi d a i) := by
  intro _ h
  refine decode_of_fields _ _ ?_ h
  unfold encode
  rw [decodeFields_02 _ (fld_packI_op ..)]
  unfold decode02
  rw [fld_packI_d, fld_packI_a, fld_packI_i]
theorem Laws.RoundTrip.andi (d : BitVec 5) (a : BitVec 5) (i : BitVec 16) : Laws.RoundTrip.Statement (.andi d a i) := by
  intro _ h
  refine decode_of_fields _ _ ?_ h
  unfold encode
  rw [decodeFields_03 _ (fld_packI_op ..)]
  unfold decode03
  rw [fld_packI_d, fld_packI_a, fld_packI_i]
theorem Laws.RoundTrip.ori (d : BitVec 5) (a : BitVec 5) (i : BitVec 16) : Laws.RoundTrip.Statement (.ori d a i) := by
  intro _ h
  refine decode_of_fields _ _ ?_ h
  unfold encode
  rw [decodeFields_04 _ (fld_packI_op ..)]
  unfold decode04
  rw [fld_packI_d, fld_packI_a, fld_packI_i]
theorem Laws.RoundTrip.xori (d : BitVec 5) (a : BitVec 5) (i : BitVec 16) : Laws.RoundTrip.Statement (.xori d a i) := by
  intro _ h
  refine decode_of_fields _ _ ?_ h
  unfold encode
  rw [decodeFields_05 _ (fld_packI_op ..)]
  unfold decode05
  rw [fld_packI_d, fld_packI_a, fld_packI_i]
theorem Laws.RoundTrip.slli (d : BitVec 5) (a : BitVec 5) (n : BitVec 6) : Laws.RoundTrip.Statement (.slli d a n) := by
  intro _ h
  refine decode_of_fields _ _ ?_ h
  unfold encode
  rw [decodeFields_06 _ (fld_packShift_op ..)]
  unfold decode06
  rw [fld_packShift_d, fld_packShift_a, fld_packShift_z, fld_packShift_k, fld_packShift_n]
  rfl
theorem Laws.RoundTrip.srli (d : BitVec 5) (a : BitVec 5) (n : BitVec 6) : Laws.RoundTrip.Statement (.srli d a n) := by
  intro _ h
  refine decode_of_fields _ _ ?_ h
  unfold encode
  rw [decodeFields_06 _ (fld_packShift_op ..)]
  unfold decode06
  rw [fld_packShift_d, fld_packShift_a, fld_packShift_z, fld_packShift_k, fld_packShift_n]
  rfl
theorem Laws.RoundTrip.srai (d : BitVec 5) (a : BitVec 5) (n : BitVec 6) : Laws.RoundTrip.Statement (.srai d a n) := by
  intro _ h
  refine decode_of_fields _ _ ?_ h
  unfold encode
  rw [decodeFields_06 _ (fld_packShift_op ..)]
  unfold decode06
  rw [fld_packShift_d, fld_packShift_a, fld_packShift_z, fld_packShift_k, fld_packShift_n]
  rfl
theorem Laws.RoundTrip.rori (d : BitVec 5) (a : BitVec 5) (n : BitVec 6) : Laws.RoundTrip.Statement (.rori d a n) := by
  intro _ h
  refine decode_of_fields _ _ ?_ h
  unfold encode
  rw [decodeFields_06 _ (fld_packShift_op ..)]
  unfold decode06
  rw [fld_packShift_d, fld_packShift_a, fld_packShift_z, fld_packShift_k, fld_packShift_n]
  rfl
theorem Laws.RoundTrip.li (d : BitVec 5) (i : BitVec 16) : Laws.RoundTrip.Statement (.li d i) := by
  intro _ h
  refine decode_of_fields _ _ ?_ h
  unfold encode
  rw [decodeFields_07 _ (fld_packI_op ..)]
  unfold decode07
  rw [fld_packI_d, fld_packI_a, fld_packI_i]
  rfl
theorem Laws.RoundTrip.lih (d : BitVec 5) (a : BitVec 5) (i : BitVec 16) : Laws.RoundTrip.Statement (.lih d a i) := by
  intro _ h
  refine decode_of_fields _ _ ?_ h
  unfold encode
  rw [decodeFields_08 _ (fld_packI_op ..)]
  unfold decode08
  rw [fld_packI_d, fld_packI_a, fld_packI_i]
theorem Laws.RoundTrip.cskip (c : BitVec 3) (k : BitVec 2) (a : BitVec 5) (b : BitVec 5) : Laws.RoundTrip.Statement (.cskip c k a b) := by
  intro _ h
  refine decode_of_fields _ _ ?_ h
  unfold encode
  rw [decodeFields_09 _ (fld_packK_op ..)]
  unfold decode09
  rw [fld_packK_c, fld_packK_k, fld_packK_a, fld_packK_b, fld_packK_i]
  rfl
theorem Laws.RoundTrip.cskipi (c : BitVec 3) (k : BitVec 2) (a : BitVec 5) (i : BitVec 11) : Laws.RoundTrip.Statement (.cskipi c k a i) := by
  intro _ h
  refine decode_of_fields _ _ ?_ h
  unfold encode
  rw [decodeFields_0A _ (fld_packK_op ..)]
  unfold decode0A
  rw [fld_packK_c, fld_packK_k, fld_packK_a, fld_packK_b, fld_packK_i]
  rfl
theorem Laws.RoundTrip.br (o : BitVec 26) : Laws.RoundTrip.Statement (.br o) := by
  intro _ h
  refine decode_of_fields _ _ ?_ h
  unfold encode
  rw [decodeFields_0B _ (fld_packJ_op ..)]
  unfold decode0B
  rw [fld_packJ_o]
theorem Laws.RoundTrip.jal (o : BitVec 26) : Laws.RoundTrip.Statement (.jal o) := by
  intro _ h
  refine decode_of_fields _ _ ?_ h
  unfold encode
  rw [decodeFields_0C _ (fld_packJ_op ..)]
  unfold decode0C
  rw [fld_packJ_o]
theorem Laws.RoundTrip.jalr (d : BitVec 5) (a : BitVec 5) (o : BitVec 16) : Laws.RoundTrip.Statement (.jalr d a o) := by
  intro _ h
  refine decode_of_fields _ _ ?_ h
  unfold encode
  rw [decodeFields_0D _ (fld_packI_op ..)]
  unfold decode0D
  rw [fld_packI_d, fld_packI_a, fld_packI_i]
theorem Laws.RoundTrip.bz (a : BitVec 5) (o : BitVec 16) : Laws.RoundTrip.Statement (.bz a o) := by
  intro _ h
  refine decode_of_fields _ _ ?_ h
  unfold encode
  rw [decodeFields_0E _ (fld_packI_op ..)]
  unfold decode0E
  rw [fld_packI_d, fld_packI_a, fld_packI_i]
  rfl
theorem Laws.RoundTrip.bnz (a : BitVec 5) (o : BitVec 16) : Laws.RoundTrip.Statement (.bnz a o) := by
  intro _ h
  refine decode_of_fields _ _ ?_ h
  unfold encode
  rw [decodeFields_0F _ (fld_packI_op ..)]
  unfold decode0F
  rw [fld_packI_d, fld_packI_a, fld_packI_i]
  rfl
theorem Laws.RoundTrip.rep (z : BitVec 1) (y : BitVec 1) (x : BitVec 1) (s : BitVec 2) (c : BitVec 8) (l : BitVec 4) : Laws.RoundTrip.Statement (.rep z y x s c l) := by
  intro _ h
  refine decode_of_fields _ _ ?_ h
  unfold encode
  rw [decodeFields_10 _ (fld_packRep_op ..)]
  unfold decode10
  rw [fld_packRep_u, fld_packRep_z, fld_packRep_y, fld_packRep_x, fld_packRep_a, fld_packRep_s, fld_packRep_v, fld_packRep_c, fld_packRep_l]
  rfl
theorem Laws.RoundTrip.fork (d : BitVec 5) (a : BitVec 5) (b : BitVec 5) (j : BitVec 1) : Laws.RoundTrip.Statement (.fork d a b j) := by
  intro _ h
  refine decode_of_fields _ _ ?_ h
  unfold encode
  rw [decodeFields_11 _ (fld_packXj_op ..)]
  unfold decode11
  rw [fld_packXj_d, fld_packXj_a, fld_packXj_b, fld_packXj_z, fld_packXj_j, fld_packXj_f]
  rfl
theorem Laws.RoundTrip.join (a : BitVec 5) : Laws.RoundTrip.Statement (.join a) := by
  intro _ h
  refine decode_of_fields _ _ ?_ h
  unfold encode
  rw [decodeFields_11 _ (fld_packX_op ..)]
  unfold decode11
  rw [fld_packX_d, fld_packX_a, fld_packX_b, fld_packX_c, fld_packX_f]
  rfl
theorem Laws.RoundTrip.yield (n : BitVec 5) : Laws.RoundTrip.Statement (.yield n) := by
  intro _ h
  refine decode_of_fields _ _ ?_ h
  unfold encode
  rw [decodeFields_11 _ (fld_packX_op ..)]
  unfold decode11
  rw [fld_packX_d, fld_packX_a, fld_packX_b, fld_packX_c, fld_packX_f]
  rfl
theorem Laws.RoundTrip.ld (d : BitVec 5) (a : BitVec 5) (s : BitVec 3) (o : BitVec 13) : Laws.RoundTrip.Statement (.ld d a s o) := by
  intro _ h
  refine decode_of_fields _ _ ?_ h
  unfold encode
  rw [decodeFields_12 _ (fld_packL_op ..)]
  unfold decode12
  rw [fld_packL_d, fld_packL_a, fld_packL_s, fld_packL_o]
theorem Laws.RoundTrip.st (d : BitVec 5) (a : BitVec 5) (s : BitVec 2) (o : BitVec 13) : Laws.RoundTrip.Statement (.st d a s o) := by
  intro _ h
  refine decode_of_fields _ _ ?_ h
  unfold encode
  rw [decodeFields_13 _ (fld_packLs_op ..)]
  unfold decode13
  rw [fld_packLs_d, fld_packLs_a, fld_packLs_z, fld_packLs_s, fld_packLs_o]
  rfl
theorem Laws.RoundTrip.amoadd (d : BitVec 5) (a : BitVec 5) (b : BitVec 5) (w : BitVec 1) : Laws.RoundTrip.Statement (.amoadd d a b w) := by
  intro _ h
  refine decode_of_fields _ _ ?_ h
  unfold encode
  rw [decodeFields_14 _ (fld_packAmo_op ..)]
  unfold decode14
  rw [fld_packAmo_d, fld_packAmo_a, fld_packAmo_b, fld_packAmo_z, fld_packAmo_w, fld_packAmo_fn]
  rfl
theorem Laws.RoundTrip.amoswap (d : BitVec 5) (a : BitVec 5) (b : BitVec 5) (w : BitVec 1) : Laws.RoundTrip.Statement (.amoswap d a b w) := by
  intro _ h
  refine decode_of_fields _ _ ?_ h
  unfold encode
  rw [decodeFields_14 _ (fld_packAmo_op ..)]
  unfold decode14
  rw [fld_packAmo_d, fld_packAmo_a, fld_packAmo_b, fld_packAmo_z, fld_packAmo_w, fld_packAmo_fn]
  rfl
theorem Laws.RoundTrip.amocas (d : BitVec 5) (a : BitVec 5) (b : BitVec 5) (w : BitVec 1) : Laws.RoundTrip.Statement (.amocas d a b w) := by
  intro _ h
  refine decode_of_fields _ _ ?_ h
  unfold encode
  rw [decodeFields_14 _ (fld_packAmo_op ..)]
  unfold decode14
  rw [fld_packAmo_d, fld_packAmo_a, fld_packAmo_b, fld_packAmo_z, fld_packAmo_w, fld_packAmo_fn]
  rfl
theorem Laws.RoundTrip.amoand (d : BitVec 5) (a : BitVec 5) (b : BitVec 5) (w : BitVec 1) : Laws.RoundTrip.Statement (.amoand d a b w) := by
  intro _ h
  refine decode_of_fields _ _ ?_ h
  unfold encode
  rw [decodeFields_14 _ (fld_packAmo_op ..)]
  unfold decode14
  rw [fld_packAmo_d, fld_packAmo_a, fld_packAmo_b, fld_packAmo_z, fld_packAmo_w, fld_packAmo_fn]
  rfl
theorem Laws.RoundTrip.amoor (d : BitVec 5) (a : BitVec 5) (b : BitVec 5) (w : BitVec 1) : Laws.RoundTrip.Statement (.amoor d a b w) := by
  intro _ h
  refine decode_of_fields _ _ ?_ h
  unfold encode
  rw [decodeFields_14 _ (fld_packAmo_op ..)]
  unfold decode14
  rw [fld_packAmo_d, fld_packAmo_a, fld_packAmo_b, fld_packAmo_z, fld_packAmo_w, fld_packAmo_fn]
  rfl
theorem Laws.RoundTrip.amoxor (d : BitVec 5) (a : BitVec 5) (b : BitVec 5) (w : BitVec 1) : Laws.RoundTrip.Statement (.amoxor d a b w) := by
  intro _ h
  refine decode_of_fields _ _ ?_ h
  unfold encode
  rw [decodeFields_14 _ (fld_packAmo_op ..)]
  unfold decode14
  rw [fld_packAmo_d, fld_packAmo_a, fld_packAmo_b, fld_packAmo_z, fld_packAmo_w, fld_packAmo_fn]
  rfl
theorem Laws.RoundTrip.amomin (d : BitVec 5) (a : BitVec 5) (b : BitVec 5) (w : BitVec 1) : Laws.RoundTrip.Statement (.amomin d a b w) := by
  intro _ h
  refine decode_of_fields _ _ ?_ h
  unfold encode
  rw [decodeFields_14 _ (fld_packAmo_op ..)]
  unfold decode14
  rw [fld_packAmo_d, fld_packAmo_a, fld_packAmo_b, fld_packAmo_z, fld_packAmo_w, fld_packAmo_fn]
  rfl
theorem Laws.RoundTrip.amomax (d : BitVec 5) (a : BitVec 5) (b : BitVec 5) (w : BitVec 1) : Laws.RoundTrip.Statement (.amomax d a b w) := by
  intro _ h
  refine decode_of_fields _ _ ?_ h
  unfold encode
  rw [decodeFields_14 _ (fld_packAmo_op ..)]
  unfold decode14
  rw [fld_packAmo_d, fld_packAmo_a, fld_packAmo_b, fld_packAmo_z, fld_packAmo_w, fld_packAmo_fn]
  rfl
theorem Laws.RoundTrip.vld (d : BitVec 7) (a : BitVec 5) (b : BitVec 5) (t : BitVec 2) : Laws.RoundTrip.Statement (.vld d a b t) := by
  intro _ h
  refine decode_of_fields _ _ ?_ h
  unfold encode
  rw [decodeFields_15 _ (fld_packW_op ..)]
  unfold decode15
  rw [fld_packW_d, fld_packW_a, fld_packW_b, fld_packW_t, fld_packW_f]
  rfl
theorem Laws.RoundTrip.vst (d : BitVec 7) (a : BitVec 5) (b : BitVec 5) (t : BitVec 2) : Laws.RoundTrip.Statement (.vst d a b t) := by
  intro _ h
  refine decode_of_fields _ _ ?_ h
  unfold encode
  rw [decodeFields_15 _ (fld_packW_op ..)]
  unfold decode15
  rw [fld_packW_d, fld_packW_a, fld_packW_b, fld_packW_t, fld_packW_f]
  rfl
theorem Laws.RoundTrip.vlds (d : BitVec 7) (a : BitVec 5) (b : BitVec 5) (t : BitVec 2) : Laws.RoundTrip.Statement (.vlds d a b t) := by
  intro _ h
  refine decode_of_fields _ _ ?_ h
  unfold encode
  rw [decodeFields_15 _ (fld_packW_op ..)]
  unfold decode15
  rw [fld_packW_d, fld_packW_a, fld_packW_b, fld_packW_t, fld_packW_f]
  rfl
theorem Laws.RoundTrip.vsts (d : BitVec 7) (a : BitVec 5) (b : BitVec 5) (t : BitVec 2) : Laws.RoundTrip.Statement (.vsts d a b t) := by
  intro _ h
  refine decode_of_fields _ _ ?_ h
  unfold encode
  rw [decodeFields_15 _ (fld_packW_op ..)]
  unfold decode15
  rw [fld_packW_d, fld_packW_a, fld_packW_b, fld_packW_t, fld_packW_f]
  rfl
theorem Laws.RoundTrip.vgath (d : BitVec 7) (a : BitVec 5) (b : BitVec 5) (t : BitVec 2) : Laws.RoundTrip.Statement (.vgath d a b t) := by
  intro _ h
  refine decode_of_fields _ _ ?_ h
  unfold encode
  rw [decodeFields_16 _ (fld_packW_op ..)]
  unfold decode16
  rw [fld_packW_d, fld_packW_a, fld_packW_b, fld_packW_t, fld_packW_f]
  rfl
theorem Laws.RoundTrip.vscat (d : BitVec 7) (a : BitVec 5) (b : BitVec 5) (t : BitVec 2) : Laws.RoundTrip.Statement (.vscat d a b t) := by
  intro _ h
  refine decode_of_fields _ _ ?_ h
  unfold encode
  rw [decodeFields_16 _ (fld_packW_op ..)]
  unfold decode16
  rw [fld_packW_d, fld_packW_a, fld_packW_b, fld_packW_t, fld_packW_f]
  rfl
theorem Laws.RoundTrip.vldsh (d : BitVec 7) (a : BitVec 5) (b : BitVec 5) : Laws.RoundTrip.Statement (.vldsh d a b) := by
  intro _ h
  refine decode_of_fields _ _ ?_ h
  unfold encode
  rw [decodeFields_17 _ (fld_packW_op ..)]
  unfold decode17
  rw [fld_packW_d, fld_packW_a, fld_packW_b, fld_packW_t, fld_packW_f]
  rfl
theorem Laws.RoundTrip.vstsh (d : BitVec 7) (a : BitVec 5) (b : BitVec 5) : Laws.RoundTrip.Statement (.vstsh d a b) := by
  intro _ h
  refine decode_of_fields _ _ ?_ h
  unfold encode
  rw [decodeFields_17 _ (fld_packW_op ..)]
  unfold decode17
  rw [fld_packW_d, fld_packW_a, fld_packW_b, fld_packW_t, fld_packW_f]
  rfl
theorem Laws.RoundTrip.vadd (d : BitVec 7) (a : BitVec 7) (b : BitVec 7) (t : BitVec 2) : Laws.RoundTrip.Statement (.vadd d a b t) := by
  intro _ h
  refine decode_of_fields _ _ ?_ h
  unfold encode
  rw [decodeFields_18 _ (fld_packV_op ..)]
  unfold decode18
  rw [fld_packV_d, fld_packV_a, fld_packV_b, fld_packV_t, fld_packV_f]
  rfl
theorem Laws.RoundTrip.vsub (d : BitVec 7) (a : BitVec 7) (b : BitVec 7) (t : BitVec 2) : Laws.RoundTrip.Statement (.vsub d a b t) := by
  intro _ h
  refine decode_of_fields _ _ ?_ h
  unfold encode
  rw [decodeFields_18 _ (fld_packV_op ..)]
  unfold decode18
  rw [fld_packV_d, fld_packV_a, fld_packV_b, fld_packV_t, fld_packV_f]
  rfl
theorem Laws.RoundTrip.vmul (d : BitVec 7) (a : BitVec 7) (b : BitVec 7) (t : BitVec 2) : Laws.RoundTrip.Statement (.vmul d a b t) := by
  intro _ h
  refine decode_of_fields _ _ ?_ h
  unfold encode
  rw [decodeFields_18 _ (fld_packV_op ..)]
  unfold decode18
  rw [fld_packV_d, fld_packV_a, fld_packV_b, fld_packV_t, fld_packV_f]
  rfl
theorem Laws.RoundTrip.vmulh (d : BitVec 7) (a : BitVec 7) (b : BitVec 7) (t : BitVec 2) : Laws.RoundTrip.Statement (.vmulh d a b t) := by
  intro _ h
  refine decode_of_fields _ _ ?_ h
  unfold encode
  rw [decodeFields_18 _ (fld_packV_op ..)]
  unfold decode18
  rw [fld_packV_d, fld_packV_a, fld_packV_b, fld_packV_t, fld_packV_f]
  rfl
theorem Laws.RoundTrip.vmin (d : BitVec 7) (a : BitVec 7) (b : BitVec 7) (t : BitVec 2) : Laws.RoundTrip.Statement (.vmin d a b t) := by
  intro _ h
  refine decode_of_fields _ _ ?_ h
  unfold encode
  rw [decodeFields_18 _ (fld_packV_op ..)]
  unfold decode18
  rw [fld_packV_d, fld_packV_a, fld_packV_b, fld_packV_t, fld_packV_f]
  rfl
theorem Laws.RoundTrip.vmax (d : BitVec 7) (a : BitVec 7) (b : BitVec 7) (t : BitVec 2) : Laws.RoundTrip.Statement (.vmax d a b t) := by
  intro _ h
  refine decode_of_fields _ _ ?_ h
  unfold encode
  rw [decodeFields_18 _ (fld_packV_op ..)]
  unfold decode18
  rw [fld_packV_d, fld_packV_a, fld_packV_b, fld_packV_t, fld_packV_f]
  rfl
theorem Laws.RoundTrip.vadds (d : BitVec 7) (a : BitVec 7) (b : BitVec 7) (t : BitVec 2) : Laws.RoundTrip.Statement (.vadds d a b t) := by
  intro _ h
  refine decode_of_fields _ _ ?_ h
  unfold encode
  rw [decodeFields_18 _ (fld_packV_op ..)]
  unfold decode18
  rw [fld_packV_d, fld_packV_a, fld_packV_b, fld_packV_t, fld_packV_f]
  rfl
theorem Laws.RoundTrip.vsubs (d : BitVec 7) (a : BitVec 7) (b : BitVec 7) (t : BitVec 2) : Laws.RoundTrip.Statement (.vsubs d a b t) := by
  intro _ h
  refine decode_of_fields _ _ ?_ h
  unfold encode
  rw [decodeFields_18 _ (fld_packV_op ..)]
  unfold decode18
  rw [fld_packV_d, fld_packV_a, fld_packV_b, fld_packV_t, fld_packV_f]
  rfl
theorem Laws.RoundTrip.vand (d : BitVec 7) (a : BitVec 7) (b : BitVec 7) (t : BitVec 2) : Laws.RoundTrip.Statement (.vand d a b t) := by
  intro _ h
  refine decode_of_fields _ _ ?_ h
  unfold encode
  rw [decodeFields_19 _ (fld_packV_op ..)]
  unfold decode19
  rw [fld_packV_d, fld_packV_a, fld_packV_b, fld_packV_t, fld_packV_f]
  rfl
theorem Laws.RoundTrip.vor (d : BitVec 7) (a : BitVec 7) (b : BitVec 7) (t : BitVec 2) : Laws.RoundTrip.Statement (.vor d a b t) := by
  intro _ h
  refine decode_of_fields _ _ ?_ h
  unfold encode
  rw [decodeFields_19 _ (fld_packV_op ..)]
  unfold decode19
  rw [fld_packV_d, fld_packV_a, fld_packV_b, fld_packV_t, fld_packV_f]
  rfl
theorem Laws.RoundTrip.vxor (d : BitVec 7) (a : BitVec 7) (b : BitVec 7) (t : BitVec 2) : Laws.RoundTrip.Statement (.vxor d a b t) := by
  intro _ h
  refine decode_of_fields _ _ ?_ h
  unfold encode
  rw [decodeFields_19 _ (fld_packV_op ..)]
  unfold decode19
  rw [fld_packV_d, fld_packV_a, fld_packV_b, fld_packV_t, fld_packV_f]
  rfl
theorem Laws.RoundTrip.vandn (d : BitVec 7) (a : BitVec 7) (b : BitVec 7) (t : BitVec 2) : Laws.RoundTrip.Statement (.vandn d a b t) := by
  intro _ h
  refine decode_of_fields _ _ ?_ h
  unfold encode
  rw [decodeFields_19 _ (fld_packV_op ..)]
  unfold decode19
  rw [fld_packV_d, fld_packV_a, fld_packV_b, fld_packV_t, fld_packV_f]
  rfl
theorem Laws.RoundTrip.vsll (d : BitVec 7) (a : BitVec 7) (b : BitVec 7) (t : BitVec 2) : Laws.RoundTrip.Statement (.vsll d a b t) := by
  intro _ h
  refine decode_of_fields _ _ ?_ h
  unfold encode
  rw [decodeFields_19 _ (fld_packV_op ..)]
  unfold decode19
  rw [fld_packV_d, fld_packV_a, fld_packV_b, fld_packV_t, fld_packV_f]
  rfl
theorem Laws.RoundTrip.vsrl (d : BitVec 7) (a : BitVec 7) (b : BitVec 7) (t : BitVec 2) : Laws.RoundTrip.Statement (.vsrl d a b t) := by
  intro _ h
  refine decode_of_fields _ _ ?_ h
  unfold encode
  rw [decodeFields_19 _ (fld_packV_op ..)]
  unfold decode19
  rw [fld_packV_d, fld_packV_a, fld_packV_b, fld_packV_t, fld_packV_f]
  rfl
theorem Laws.RoundTrip.vsra (d : BitVec 7) (a : BitVec 7) (b : BitVec 7) (t : BitVec 2) : Laws.RoundTrip.Statement (.vsra d a b t) := by
  intro _ h
  refine decode_of_fields _ _ ?_ h
  unfold encode
  rw [decodeFields_19 _ (fld_packV_op ..)]
  unfold decode19
  rw [fld_packV_d, fld_packV_a, fld_packV_b, fld_packV_t, fld_packV_f]
  rfl
theorem Laws.RoundTrip.vcmp (d : BitVec 3) (a : BitVec 7) (b : BitVec 7) (t : BitVec 2) (c : BitVec 3) : Laws.RoundTrip.Statement (.vcmp d a b t c) := by
  intro _ h
  refine decode_of_fields _ _ ?_ h
  unfold encode
  rw [decodeFields_1A _ (fld_packVd_op ..)]
  unfold decode1A
  rw [fld_packVd_z, fld_packVd_d, fld_packVd_a, fld_packVd_b, fld_packVd_t, fld_packVd_f]
  rfl
theorem Laws.RoundTrip.vperm (d : BitVec 7) (a : BitVec 7) (b : BitVec 7) (t : BitVec 2) : Laws.RoundTrip.Statement (.vperm d a b t) := by
  intro _ h
  refine decode_of_fields _ _ ?_ h
  unfold encode
  rw [decodeFields_1B _ (fld_packV_op ..)]
  unfold decode1B
  rw [fld_packV_d, fld_packV_a, fld_packV_b, fld_packV_t, fld_packV_f]
  rfl
theorem Laws.RoundTrip.vsel (d : BitVec 7) (a : BitVec 7) (b : BitVec 7) (t : BitVec 2) : Laws.RoundTrip.Statement (.vsel d a b t) := by
  intro _ h
  refine decode_of_fields _ _ ?_ h
  unfold encode
  rw [decodeFields_1B _ (fld_packV_op ..)]
  unfold decode1B
  rw [fld_packV_d, fld_packV_a, fld_packV_b, fld_packV_t, fld_packV_f]
  rfl
theorem Laws.RoundTrip.vshuf (d : BitVec 7) (a : BitVec 7) (b : BitVec 7) (t : BitVec 2) : Laws.RoundTrip.Statement (.vshuf d a b t) := by
  intro _ h
  refine decode_of_fields _ _ ?_ h
  unfold encode
  rw [decodeFields_1B _ (fld_packV_op ..)]
  unfold decode1B
  rw [fld_packV_d, fld_packV_a, fld_packV_b, fld_packV_t, fld_packV_f]
  rfl
theorem Laws.RoundTrip.vslup (d : BitVec 7) (a : BitVec 7) (n : BitVec 7) (t : BitVec 2) : Laws.RoundTrip.Statement (.vslup d a n t) := by
  intro _ h
  refine decode_of_fields _ _ ?_ h
  unfold encode
  rw [decodeFields_1B _ (fld_packV_op ..)]
  unfold decode1B
  rw [fld_packV_d, fld_packV_a, fld_packV_b, fld_packV_t, fld_packV_f]
  rfl
theorem Laws.RoundTrip.vsldn (d : BitVec 7) (a : BitVec 7) (n : BitVec 7) (t : BitVec 2) : Laws.RoundTrip.Statement (.vsldn d a n t) := by
  intro _ h
  refine decode_of_fields _ _ ?_ h
  unfold encode
  rw [decodeFields_1B _ (fld_packV_op ..)]
  unfold decode1B
  rw [fld_packV_d, fld_packV_a, fld_packV_b, fld_packV_t, fld_packV_f]
  rfl
theorem Laws.RoundTrip.vbcast (d : BitVec 7) (a : BitVec 7) (n : BitVec 7) (t : BitVec 2) : Laws.RoundTrip.Statement (.vbcast d a n t) := by
  intro _ h
  refine decode_of_fields _ _ ?_ h
  unfold encode
  rw [decodeFields_1B _ (fld_packV_op ..)]
  unfold decode1B
  rw [fld_packV_d, fld_packV_a, fld_packV_b, fld_packV_t, fld_packV_f]
  rfl
theorem Laws.RoundTrip.vrsum (d : BitVec 7) (a : BitVec 7) (t : BitVec 2) : Laws.RoundTrip.Statement (.vrsum d a t) := by
  intro _ h
  refine decode_of_fields _ _ ?_ h
  unfold encode
  rw [decodeFields_1C _ (fld_packV_op ..)]
  unfold decode1C
  rw [fld_packV_d, fld_packV_a, fld_packV_b, fld_packV_t, fld_packV_f]
  rfl
theorem Laws.RoundTrip.vrmax (d : BitVec 7) (a : BitVec 7) (t : BitVec 2) : Laws.RoundTrip.Statement (.vrmax d a t) := by
  intro _ h
  refine decode_of_fields _ _ ?_ h
  unfold encode
  rw [decodeFields_1C _ (fld_packV_op ..)]
  unfold decode1C
  rw [fld_packV_d, fld_packV_a, fld_packV_b, fld_packV_t, fld_packV_f]
  rfl
theorem Laws.RoundTrip.vrmin (d : BitVec 7) (a : BitVec 7) (t : BitVec 2) : Laws.RoundTrip.Statement (.vrmin d a t) := by
  intro _ h
  refine decode_of_fields _ _ ?_ h
  unfold encode
  rw [decodeFields_1C _ (fld_packV_op ..)]
  unfold decode1C
  rw [fld_packV_d, fld_packV_a, fld_packV_b, fld_packV_t, fld_packV_f]
  rfl
theorem Laws.RoundTrip.vhist (d : BitVec 7) (a : BitVec 7) (t : BitVec 2) : Laws.RoundTrip.Statement (.vhist d a t) := by
  intro _ h
  refine decode_of_fields _ _ ?_ h
  unfold encode
  rw [decodeFields_1C _ (fld_packV_op ..)]
  unfold decode1C
  rw [fld_packV_d, fld_packV_a, fld_packV_b, fld_packV_t, fld_packV_f]
  rfl
theorem Laws.RoundTrip.vcmpr (d : BitVec 7) (a : BitVec 7) (t : BitVec 2) : Laws.RoundTrip.Statement (.vcmpr d a t) := by
  intro _ h
  refine decode_of_fields _ _ ?_ h
  unfold encode
  rw [decodeFields_1C _ (fld_packV_op ..)]
  unfold decode1C
  rw [fld_packV_d, fld_packV_a, fld_packV_b, fld_packV_t, fld_packV_f]
  rfl
theorem Laws.RoundTrip.vpopc (d : BitVec 7) (a : BitVec 3) (t : BitVec 2) : Laws.RoundTrip.Statement (.vpopc d a t) := by
  intro _ h
  refine decode_of_fields _ _ ?_ h
  unfold encode
  rw [decodeFields_1C _ (fld_packVa_op ..)]
  unfold decode1C
  rw [fld_packVa_d, fld_packVa_z, fld_packVa_a, fld_packVa_b, fld_packVa_t, fld_packVa_f]
  rfl
theorem Laws.RoundTrip.viota (d : BitVec 7) (a : BitVec 3) (t : BitVec 2) : Laws.RoundTrip.Statement (.viota d a t) := by
  intro _ h
  refine decode_of_fields _ _ ?_ h
  unfold encode
  rw [decodeFields_1C _ (fld_packVa_op ..)]
  unfold decode1C
  rw [fld_packVa_d, fld_packVa_z, fld_packVa_a, fld_packVa_b, fld_packVa_t, fld_packVa_f]
  rfl
theorem Laws.RoundTrip.vfadd (d : BitVec 7) (a : BitVec 7) (b : BitVec 7) (t : BitVec 2) : Laws.RoundTrip.Statement (.vfadd d a b t) := by
  intro _ h
  refine decode_of_fields _ _ ?_ h
  unfold encode
  rw [decodeFields_1D _ (fld_packV_op ..)]
  unfold decode1D
  rw [fld_packV_d, fld_packV_a, fld_packV_b, fld_packV_t, fld_packV_f]
  rfl
theorem Laws.RoundTrip.vfsub (d : BitVec 7) (a : BitVec 7) (b : BitVec 7) (t : BitVec 2) : Laws.RoundTrip.Statement (.vfsub d a b t) := by
  intro _ h
  refine decode_of_fields _ _ ?_ h
  unfold encode
  rw [decodeFields_1D _ (fld_packV_op ..)]
  unfold decode1D
  rw [fld_packV_d, fld_packV_a, fld_packV_b, fld_packV_t, fld_packV_f]
  rfl
theorem Laws.RoundTrip.vfmul (d : BitVec 7) (a : BitVec 7) (b : BitVec 7) (t : BitVec 2) : Laws.RoundTrip.Statement (.vfmul d a b t) := by
  intro _ h
  refine decode_of_fields _ _ ?_ h
  unfold encode
  rw [decodeFields_1D _ (fld_packV_op ..)]
  unfold decode1D
  rw [fld_packV_d, fld_packV_a, fld_packV_b, fld_packV_t, fld_packV_f]
  rfl
theorem Laws.RoundTrip.vfmin (d : BitVec 7) (a : BitVec 7) (b : BitVec 7) (t : BitVec 2) : Laws.RoundTrip.Statement (.vfmin d a b t) := by
  intro _ h
  refine decode_of_fields _ _ ?_ h
  unfold encode
  rw [decodeFields_1D _ (fld_packV_op ..)]
  unfold decode1D
  rw [fld_packV_d, fld_packV_a, fld_packV_b, fld_packV_t, fld_packV_f]
  rfl
theorem Laws.RoundTrip.vfmax (d : BitVec 7) (a : BitVec 7) (b : BitVec 7) (t : BitVec 2) : Laws.RoundTrip.Statement (.vfmax d a b t) := by
  intro _ h
  refine decode_of_fields _ _ ?_ h
  unfold encode
  rw [decodeFields_1D _ (fld_packV_op ..)]
  unfold decode1D
  rw [fld_packV_d, fld_packV_a, fld_packV_b, fld_packV_t, fld_packV_f]
  rfl
theorem Laws.RoundTrip.vfma (d : BitVec 7) (a : BitVec 7) (b : BitVec 7) (t : BitVec 2) : Laws.RoundTrip.Statement (.vfma d a b t) := by
  intro _ h
  refine decode_of_fields _ _ ?_ h
  unfold encode
  rw [decodeFields_1E _ (fld_packV_op ..)]
  unfold decode1E
  rw [fld_packV_d, fld_packV_a, fld_packV_b, fld_packV_t, fld_packV_f]
  rfl
theorem Laws.RoundTrip.vfms (d : BitVec 7) (a : BitVec 7) (b : BitVec 7) (t : BitVec 2) : Laws.RoundTrip.Statement (.vfms d a b t) := by
  intro _ h
  refine decode_of_fields _ _ ?_ h
  unfold encode
  rw [decodeFields_1E _ (fld_packV_op ..)]
  unfold decode1E
  rw [fld_packV_d, fld_packV_a, fld_packV_b, fld_packV_t, fld_packV_f]
  rfl
theorem Laws.RoundTrip.vfnma (d : BitVec 7) (a : BitVec 7) (b : BitVec 7) (t : BitVec 2) : Laws.RoundTrip.Statement (.vfnma d a b t) := by
  intro _ h
  refine decode_of_fields _ _ ?_ h
  unfold encode
  rw [decodeFields_1E _ (fld_packV_op ..)]
  unfold decode1E
  rw [fld_packV_d, fld_packV_a, fld_packV_b, fld_packV_t, fld_packV_f]
  rfl
theorem Laws.RoundTrip.vfnms (d : BitVec 7) (a : BitVec 7) (b : BitVec 7) (t : BitVec 2) : Laws.RoundTrip.Statement (.vfnms d a b t) := by
  intro _ h
  refine decode_of_fields _ _ ?_ h
  unfold encode
  rw [decodeFields_1E _ (fld_packV_op ..)]
  unfold decode1E
  rw [fld_packV_d, fld_packV_a, fld_packV_b, fld_packV_t, fld_packV_f]
  rfl
theorem Laws.RoundTrip.vexp2 (d : BitVec 7) (a : BitVec 7) (t : BitVec 2) : Laws.RoundTrip.Statement (.vexp2 d a t) := by
  intro _ h
  refine decode_of_fields _ _ ?_ h
  unfold encode
  rw [decodeFields_1F _ (fld_packV_op ..)]
  unfold decode1F
  rw [fld_packV_d, fld_packV_a, fld_packV_b, fld_packV_t, fld_packV_f]
  rfl
theorem Laws.RoundTrip.vlog2 (d : BitVec 7) (a : BitVec 7) (t : BitVec 2) : Laws.RoundTrip.Statement (.vlog2 d a t) := by
  intro _ h
  refine decode_of_fields _ _ ?_ h
  unfold encode
  rw [decodeFields_1F _ (fld_packV_op ..)]
  unfold decode1F
  rw [fld_packV_d, fld_packV_a, fld_packV_b, fld_packV_t, fld_packV_f]
  rfl
theorem Laws.RoundTrip.vrcp (d : BitVec 7) (a : BitVec 7) (t : BitVec 2) : Laws.RoundTrip.Statement (.vrcp d a t) := by
  intro _ h
  refine decode_of_fields _ _ ?_ h
  unfold encode
  rw [decodeFields_1F _ (fld_packV_op ..)]
  unfold decode1F
  rw [fld_packV_d, fld_packV_a, fld_packV_b, fld_packV_t, fld_packV_f]
  rfl
theorem Laws.RoundTrip.vrsq (d : BitVec 7) (a : BitVec 7) (t : BitVec 2) : Laws.RoundTrip.Statement (.vrsq d a t) := by
  intro _ h
  refine decode_of_fields _ _ ?_ h
  unfold encode
  rw [decodeFields_1F _ (fld_packV_op ..)]
  unfold decode1F
  rw [fld_packV_d, fld_packV_a, fld_packV_b, fld_packV_t, fld_packV_f]
  rfl
theorem Laws.RoundTrip.vtanh (d : BitVec 7) (a : BitVec 7) (t : BitVec 2) : Laws.RoundTrip.Statement (.vtanh d a t) := by
  intro _ h
  refine decode_of_fields _ _ ?_ h
  unfold encode
  rw [decodeFields_1F _ (fld_packV_op ..)]
  unfold decode1F
  rw [fld_packV_d, fld_packV_a, fld_packV_b, fld_packV_t, fld_packV_f]
  rfl
theorem Laws.RoundTrip.vsigm (d : BitVec 7) (a : BitVec 7) (t : BitVec 2) : Laws.RoundTrip.Statement (.vsigm d a t) := by
  intro _ h
  refine decode_of_fields _ _ ?_ h
  unfold encode
  rw [decodeFields_1F _ (fld_packV_op ..)]
  unfold decode1F
  rw [fld_packV_d, fld_packV_a, fld_packV_b, fld_packV_t, fld_packV_f]
  rfl
theorem Laws.RoundTrip.vcvt (d : BitVec 7) (a : BitVec 7) (p : BitVec 3) (s : BitVec 2) (t : BitVec 2) : Laws.RoundTrip.Statement (.vcvt d a p s t) := by
  intro _ h
  refine decode_of_fields _ _ ?_ h
  unfold encode
  rw [decodeFields_20 _ (fld_packVp_op ..)]
  unfold decode20
  rw [fld_packVp_d, fld_packVp_a, fld_packVp_z, fld_packVp_p, fld_packVp_s, fld_packVp_t, fld_packVp_f]
  rfl
theorem Laws.RoundTrip.vqmx (d : BitVec 7) (a : BitVec 7) (b : BitVec 7) (t : BitVec 2) : Laws.RoundTrip.Statement (.vqmx d a b t) := by
  intro _ h
  refine decode_of_fields _ _ ?_ h
  unfold encode
  rw [decodeFields_20 _ (fld_packV_op ..)]
  unfold decode20
  rw [fld_packV_d, fld_packV_a, fld_packV_b, fld_packV_t, fld_packV_f]
  rfl
theorem Laws.RoundTrip.vdqmx (d : BitVec 7) (a : BitVec 7) (b : BitVec 7) (t : BitVec 2) : Laws.RoundTrip.Statement (.vdqmx d a b t) := by
  intro _ h
  refine decode_of_fields _ _ ?_ h
  unfold encode
  rw [decodeFields_20 _ (fld_packV_op ..)]
  unfold decode20
  rw [fld_packV_d, fld_packV_a, fld_packV_b, fld_packV_t, fld_packV_f]
  rfl
theorem Laws.RoundTrip.vxpnd (d : BitVec 7) (a : BitVec 7) (p : BitVec 3) (k : BitVec 2) (t : BitVec 2) : Laws.RoundTrip.Statement (.vxpnd d a p k t) := by
  intro _ h
  refine decode_of_fields _ _ ?_ h
  unfold encode
  rw [decodeFields_20 _ (fld_packVp_op ..)]
  unfold decode20
  rw [fld_packVp_d, fld_packVp_a, fld_packVp_z, fld_packVp_p, fld_packVp_s, fld_packVp_t, fld_packVp_f]
  rfl
theorem Laws.RoundTrip.vord (d : BitVec 7) (a : BitVec 7) (t : BitVec 2) : Laws.RoundTrip.Statement (.vord d a t) := by
  intro _ h
  refine decode_of_fields _ _ ?_ h
  unfold encode
  rw [decodeFields_20 _ (fld_packV_op ..)]
  unfold decode20
  rw [fld_packV_d, fld_packV_a, fld_packV_b, fld_packV_t, fld_packV_f]
  rfl
theorem Laws.RoundTrip.vunord (d : BitVec 7) (a : BitVec 7) (t : BitVec 2) : Laws.RoundTrip.Statement (.vunord d a t) := by
  intro _ h
  refine decode_of_fields _ _ ?_ h
  unfold encode
  rw [decodeFields_20 _ (fld_packV_op ..)]
  unfold decode20
  rw [fld_packV_d, fld_packV_a, fld_packV_b, fld_packV_t, fld_packV_f]
  rfl
theorem Laws.RoundTrip.vins (d : BitVec 7) (a : BitVec 5) (b : BitVec 5) (t : BitVec 2) : Laws.RoundTrip.Statement (.vins d a b t) := by
  intro _ h
  refine decode_of_fields _ _ ?_ h
  unfold encode
  rw [decodeFields_21 _ (fld_packW_op ..)]
  unfold decode21
  rw [fld_packW_d, fld_packW_a, fld_packW_b, fld_packW_t, fld_packW_f]
  rfl
theorem Laws.RoundTrip.vext (d : BitVec 7) (a : BitVec 5) (b : BitVec 5) (t : BitVec 2) : Laws.RoundTrip.Statement (.vext d a b t) := by
  intro _ h
  refine decode_of_fields _ _ ?_ h
  unfold encode
  rw [decodeFields_21 _ (fld_packW_op ..)]
  unfold decode21
  rw [fld_packW_d, fld_packW_a, fld_packW_b, fld_packW_t, fld_packW_f]
  rfl
theorem Laws.RoundTrip.vsplt (d : BitVec 7) (a : BitVec 5) (t : BitVec 2) : Laws.RoundTrip.Statement (.vsplt d a t) := by
  intro _ h
  refine decode_of_fields _ _ ?_ h
  unfold encode
  rw [decodeFields_21 _ (fld_packW_op ..)]
  unfold decode21
  rw [fld_packW_d, fld_packW_a, fld_packW_b, fld_packW_t, fld_packW_f]
  rfl
theorem Laws.RoundTrip.vmrd (m : BitVec 3) (a : BitVec 5) (b : BitVec 5) : Laws.RoundTrip.Statement (.vmrd m a b) := by
  intro _ h
  refine decode_of_fields _ _ ?_ h
  unfold encode
  rw [decodeFields_21 _ (fld_packWm_op ..)]
  unfold decode21
  rw [fld_packWm_z, fld_packWm_m, fld_packWm_a, fld_packWm_b, fld_packWm_t, fld_packWm_f]
  rfl
theorem Laws.RoundTrip.vmwr (m : BitVec 3) (a : BitVec 5) (b : BitVec 5) : Laws.RoundTrip.Statement (.vmwr m a b) := by
  intro _ h
  refine decode_of_fields _ _ ?_ h
  unfold encode
  rw [decodeFields_21 _ (fld_packWm_op ..)]
  unfold decode21
  rw [fld_packWm_z, fld_packWm_m, fld_packWm_a, fld_packWm_b, fld_packWm_t, fld_packWm_f]
  rfl
theorem Laws.RoundTrip.shrd (s : BitVec 3) (a : BitVec 5) : Laws.RoundTrip.Statement (.shrd s a) := by
  intro _ h
  refine decode_of_fields _ _ ?_ h
  unfold encode
  rw [decodeFields_21 _ (fld_packWm_op ..)]
  unfold decode21
  rw [fld_packWm_z, fld_packWm_m, fld_packWm_a, fld_packWm_b, fld_packWm_t, fld_packWm_f]
  rfl
theorem Laws.RoundTrip.shwr (s : BitVec 3) (a : BitVec 5) : Laws.RoundTrip.Statement (.shwr s a) := by
  intro _ h
  refine decode_of_fields _ _ ?_ h
  unfold encode
  rw [decodeFields_21 _ (fld_packWm_op ..)]
  unfold decode21
  rw [fld_packWm_z, fld_packWm_m, fld_packWm_a, fld_packWm_b, fld_packWm_t, fld_packWm_f]
  rfl
theorem Laws.RoundTrip.vmand (d : BitVec 3) (a : BitVec 3) (b : BitVec 3) : Laws.RoundTrip.Statement (.vmand d a b) := by
  intro _ h
  refine decode_of_fields _ _ ?_ h
  unfold encode
  rw [decodeFields_22 _ (fld_packVm_op ..)]
  unfold decode22
  rw [fld_packVm_x, fld_packVm_d, fld_packVm_y, fld_packVm_a, fld_packVm_z, fld_packVm_b, fld_packVm_t, fld_packVm_f]
  rfl
theorem Laws.RoundTrip.vmor (d : BitVec 3) (a : BitVec 3) (b : BitVec 3) : Laws.RoundTrip.Statement (.vmor d a b) := by
  intro _ h
  refine decode_of_fields _ _ ?_ h
  unfold encode
  rw [decodeFields_22 _ (fld_packVm_op ..)]
  unfold decode22
  rw [fld_packVm_x, fld_packVm_d, fld_packVm_y, fld_packVm_a, fld_packVm_z, fld_packVm_b, fld_packVm_t, fld_packVm_f]
  rfl
theorem Laws.RoundTrip.vmxor (d : BitVec 3) (a : BitVec 3) (b : BitVec 3) : Laws.RoundTrip.Statement (.vmxor d a b) := by
  intro _ h
  refine decode_of_fields _ _ ?_ h
  unfold encode
  rw [decodeFields_22 _ (fld_packVm_op ..)]
  unfold decode22
  rw [fld_packVm_x, fld_packVm_d, fld_packVm_y, fld_packVm_a, fld_packVm_z, fld_packVm_b, fld_packVm_t, fld_packVm_f]
  rfl
theorem Laws.RoundTrip.vmandn (d : BitVec 3) (a : BitVec 3) (b : BitVec 3) : Laws.RoundTrip.Statement (.vmandn d a b) := by
  intro _ h
  refine decode_of_fields _ _ ?_ h
  unfold encode
  rw [decodeFields_22 _ (fld_packVm_op ..)]
  unfold decode22
  rw [fld_packVm_x, fld_packVm_d, fld_packVm_y, fld_packVm_a, fld_packVm_z, fld_packVm_b, fld_packVm_t, fld_packVm_f]
  rfl
theorem Laws.RoundTrip.vmnot (d : BitVec 3) (a : BitVec 3) : Laws.RoundTrip.Statement (.vmnot d a) := by
  intro _ h
  refine decode_of_fields _ _ ?_ h
  unfold encode
  rw [decodeFields_22 _ (fld_packVm_op ..)]
  unfold decode22
  rw [fld_packVm_x, fld_packVm_d, fld_packVm_y, fld_packVm_a, fld_packVm_z, fld_packVm_b, fld_packVm_t, fld_packVm_f]
  rfl
theorem Laws.RoundTrip.amsel (n : BitVec 3) : Laws.RoundTrip.Statement (.amsel n) := by
  intro _ h
  refine decode_of_fields _ _ ?_ h
  unfold encode
  rw [decodeFields_22 _ (fld_packVm_op ..)]
  unfold decode22
  rw [fld_packVm_x, fld_packVm_d, fld_packVm_y, fld_packVm_a, fld_packVm_z, fld_packVm_b, fld_packVm_t, fld_packVm_f]
  rfl
theorem Laws.RoundTrip.rng (a : BitVec 5) : Laws.RoundTrip.Statement (.rng a) := by
  intro _ h
  refine decode_of_fields _ _ ?_ h
  unfold encode
  rw [decodeFields_23 _ (fld_packW_op ..)]
  unfold decode23
  rw [fld_packW_d, fld_packW_a, fld_packW_b, fld_packW_t, fld_packW_f]
  rfl
theorem Laws.RoundTrip.vrng (d : BitVec 7) (k : BitVec 5) (t : BitVec 2) : Laws.RoundTrip.Statement (.vrng d k t) := by
  intro _ h
  refine decode_of_fields _ _ ?_ h
  unfold encode
  rw [decodeFields_23 _ (fld_packW_op ..)]
  unfold decode23
  rw [fld_packW_d, fld_packW_a, fld_packW_b, fld_packW_t, fld_packW_f]
  rfl
theorem Laws.RoundTrip.rngkey (a : BitVec 5) : Laws.RoundTrip.Statement (.rngkey a) := by
  intro _ h
  refine decode_of_fields _ _ ?_ h
  unfold encode
  rw [decodeFields_23 _ (fld_packW_op ..)]
  unfold decode23
  rw [fld_packW_d, fld_packW_a, fld_packW_b, fld_packW_t, fld_packW_f]
  rfl
theorem Laws.RoundTrip.mma (c : BitVec 3) (a : BitVec 5) (b : BitVec 5) (x : BitVec 3) (y : BitVec 3) (k : BitVec 1) : Laws.RoundTrip.Statement (.mma c a b x y k) := by
  intro _ h
  refine decode_of_fields _ _ ?_ h
  unfold encode
  rw [decodeFields_24 _ (fld_packM_op ..)]
  unfold decode24
  rw [fld_packM_c, fld_packM_a, fld_packM_b, fld_packM_x, fld_packM_y, fld_packM_k, fld_packM_f]
  rfl
theorem Laws.RoundTrip.mmat (c : BitVec 3) (a : BitVec 5) (b : BitVec 5) (x : BitVec 3) (y : BitVec 3) (k : BitVec 1) : Laws.RoundTrip.Statement (.mmat c a b x y k) := by
  intro _ h
  refine decode_of_fields _ _ ?_ h
  unfold encode
  rw [decodeFields_24 _ (fld_packM_op ..)]
  unfold decode24
  rw [fld_packM_c, fld_packM_a, fld_packM_b, fld_packM_x, fld_packM_y, fld_packM_k, fld_packM_f]
  rfl
theorem Laws.RoundTrip.mconv (c : BitVec 3) (a : BitVec 5) (b : BitVec 5) (x : BitVec 3) (y : BitVec 3) (k : BitVec 1) : Laws.RoundTrip.Statement (.mconv c a b x y k) := by
  intro _ h
  refine decode_of_fields _ _ ?_ h
  unfold encode
  rw [decodeFields_25 _ (fld_packM_op ..)]
  unfold decode25
  rw [fld_packM_c, fld_packM_a, fld_packM_b, fld_packM_x, fld_packM_y, fld_packM_k, fld_packM_f]
  rfl
theorem Laws.RoundTrip.mzero (c : BitVec 3) : Laws.RoundTrip.Statement (.mzero c) := by
  intro _ h
  refine decode_of_fields _ _ ?_ h
  unfold encode
  rw [decodeFields_26 _ (fld_packM_op ..)]
  unfold decode26
  rw [fld_packM_c, fld_packM_a, fld_packM_b, fld_packM_x, fld_packM_y, fld_packM_k, fld_packM_f]
  rfl
theorem Laws.RoundTrip.mldacc (c : BitVec 3) (a : BitVec 5) : Laws.RoundTrip.Statement (.mldacc c a) := by
  intro _ h
  refine decode_of_fields _ _ ?_ h
  unfold encode
  rw [decodeFields_26 _ (fld_packM_op ..)]
  unfold decode26
  rw [fld_packM_c, fld_packM_a, fld_packM_b, fld_packM_x, fld_packM_y, fld_packM_k, fld_packM_f]
  rfl
theorem Laws.RoundTrip.mstacc (c : BitVec 3) (a : BitVec 5) : Laws.RoundTrip.Statement (.mstacc c a) := by
  intro _ h
  refine decode_of_fields _ _ ?_ h
  unfold encode
  rw [decodeFields_26 _ (fld_packM_op ..)]
  unfold decode26
  rw [fld_packM_c, fld_packM_a, fld_packM_b, fld_packM_x, fld_packM_y, fld_packM_k, fld_packM_f]
  rfl
theorem Laws.RoundTrip.semwait (d : BitVec 5) (a : BitVec 5) (n : BitVec 5) (e : BitVec 5) : Laws.RoundTrip.Statement (.semwait d a n e) := by
  intro _ h
  refine decode_of_fields _ _ ?_ h
  unfold encode
  rw [decodeFields_27 _ (fld_packX_op ..)]
  unfold decode27
  rw [fld_packX_d, fld_packX_a, fld_packX_b, fld_packX_c, fld_packX_f]
  rfl
theorem Laws.RoundTrip.semsig (d : BitVec 5) (a : BitVec 5) (n : BitVec 5) (c : BitVec 5) : Laws.RoundTrip.Statement (.semsig d a n c) := by
  intro _ h
  refine decode_of_fields _ _ ?_ h
  unfold encode
  rw [decodeFields_27 _ (fld_packX_op ..)]
  unfold decode27
  rw [fld_packX_d, fld_packX_a, fld_packX_b, fld_packX_c, fld_packX_f]
  rfl
theorem Laws.RoundTrip.semset (d : BitVec 5) (a : BitVec 5) (n : BitVec 5) (c : BitVec 5) : Laws.RoundTrip.Statement (.semset d a n c) := by
  intro _ h
  refine decode_of_fields _ _ ?_ h
  unfold encode
  rw [decodeFields_27 _ (fld_packX_op ..)]
  unfold decode27
  rw [fld_packX_d, fld_packX_a, fld_packX_b, fld_packX_c, fld_packX_f]
  rfl
theorem Laws.RoundTrip.ringwait (d : BitVec 5) (r : BitVec 4) (n : BitVec 5) (e : BitVec 5) : Laws.RoundTrip.Statement (.ringwait d r n e) := by
  intro _ h
  refine decode_of_fields _ _ ?_ h
  unfold encode
  rw [decodeFields_28 _ (fld_packXr_op ..)]
  unfold decode28
  rw [fld_packXr_d, fld_packXr_z, fld_packXr_r, fld_packXr_b, fld_packXr_c, fld_packXr_f]
  rfl
theorem Laws.RoundTrip.ringrsv (d : BitVec 5) (r : BitVec 4) (n : BitVec 5) (e : BitVec 5) : Laws.RoundTrip.Statement (.ringrsv d r n e) := by
  intro _ h
  refine decode_of_fields _ _ ?_ h
  unfold encode
  rw [decodeFields_28 _ (fld_packXr_op ..)]
  unfold decode28
  rw [fld_packXr_d, fld_packXr_z, fld_packXr_r, fld_packXr_b, fld_packXr_c, fld_packXr_f]
  rfl
theorem Laws.RoundTrip.ringadvHead (d : BitVec 5) (r : BitVec 4) (n : BitVec 5) : Laws.RoundTrip.Statement (.ringadvHead d r n) := by
  intro _ h
  refine decode_of_fields _ _ ?_ h
  unfold encode
  rw [decodeFields_28 _ (fld_packXr_op ..)]
  unfold decode28
  rw [fld_packXr_d, fld_packXr_z, fld_packXr_r, fld_packXr_b, fld_packXr_c, fld_packXr_f]
  rfl
theorem Laws.RoundTrip.ringadvTail (d : BitVec 5) (r : BitVec 4) (n : BitVec 5) : Laws.RoundTrip.Statement (.ringadvTail d r n) := by
  intro _ h
  refine decode_of_fields _ _ ?_ h
  unfold encode
  rw [decodeFields_28 _ (fld_packXr_op ..)]
  unfold decode28
  rw [fld_packXr_d, fld_packXr_z, fld_packXr_r, fld_packXr_b, fld_packXr_c, fld_packXr_f]
  rfl
theorem Laws.RoundTrip.ringadvWrite (d : BitVec 5) (r : BitVec 4) : Laws.RoundTrip.Statement (.ringadvWrite d r) := by
  intro _ h
  refine decode_of_fields _ _ ?_ h
  unfold encode
  rw [decodeFields_28 _ (fld_packXr_op ..)]
  unfold decode28
  rw [fld_packXr_d, fld_packXr_z, fld_packXr_r, fld_packXr_b, fld_packXr_c, fld_packXr_f]
  rfl
theorem Laws.RoundTrip.ringadvRead (d : BitVec 5) (r : BitVec 4) : Laws.RoundTrip.Statement (.ringadvRead d r) := by
  intro _ h
  refine decode_of_fields _ _ ?_ h
  unfold encode
  rw [decodeFields_28 _ (fld_packXr_op ..)]
  unfold decode28
  rw [fld_packXr_d, fld_packXr_z, fld_packXr_r, fld_packXr_b, fld_packXr_c, fld_packXr_f]
  rfl
theorem Laws.RoundTrip.qfence (q : BitVec 2) : Laws.RoundTrip.Statement (.qfence q) := by
  intro _ h
  refine decode_of_fields _ _ ?_ h
  unfold encode
  rw [decodeFields_29 _ (fld_packXrm_op ..)]
  unfold decode29
  rw [fld_packXrm_d, fld_packXrm_z, fld_packXrm_r, fld_packXrm_b, fld_packXrm_y, fld_packXrm_m, fld_packXrm_f]
  rfl
theorem Laws.RoundTrip.cpy (d : BitVec 5) (a : BitVec 5) (b : BitVec 5) : Laws.RoundTrip.Statement (.cpy d a b) := by
  intro _ h
  refine decode_of_fields _ _ ?_ h
  unfold encode
  rw [decodeFields_2A _ (fld_packX_op ..)]
  unfold decode2A
  rw [fld_packX_d, fld_packX_a, fld_packX_b, fld_packX_c, fld_packX_f]
  rfl
theorem Laws.RoundTrip.cpysh (d : BitVec 5) (a : BitVec 5) (b : BitVec 5) (c : BitVec 5) : Laws.RoundTrip.Statement (.cpysh d a b c) := by
  intro _ h
  refine decode_of_fields _ _ ?_ h
  unfold encode
  rw [decodeFields_2A _ (fld_packX_op ..)]
  unfold decode2A
  rw [fld_packX_d, fld_packX_a, fld_packX_b, fld_packX_c, fld_packX_f]
  rfl
theorem Laws.RoundTrip.xput (d : BitVec 5) (a : BitVec 5) (b : BitVec 5) : Laws.RoundTrip.Statement (.xput d a b) := by
  intro _ h
  refine decode_of_fields _ _ ?_ h
  unfold encode
  rw [decodeFields_2B _ (fld_packX_op ..)]
  unfold decode2B
  rw [fld_packX_d, fld_packX_a, fld_packX_b, fld_packX_c, fld_packX_f]
  rfl
theorem Laws.RoundTrip.xget (d : BitVec 5) (a : BitVec 5) (b : BitVec 5) : Laws.RoundTrip.Statement (.xget d a b) := by
  intro _ h
  refine decode_of_fields _ _ ?_ h
  unfold encode
  rw [decodeFields_2B _ (fld_packX_op ..)]
  unfold decode2B
  rw [fld_packX_d, fld_packX_a, fld_packX_b, fld_packX_c, fld_packX_f]
  rfl
theorem Laws.RoundTrip.xdeal (d : BitVec 5) (a : BitVec 5) (b : BitVec 5) (c : BitVec 5) : Laws.RoundTrip.Statement (.xdeal d a b c) := by
  intro _ h
  refine decode_of_fields _ _ ?_ h
  unfold encode
  rw [decodeFields_2B _ (fld_packX_op ..)]
  unfold decode2B
  rw [fld_packX_d, fld_packX_a, fld_packX_b, fld_packX_c, fld_packX_f]
  rfl
theorem Laws.RoundTrip.xmcast (d : BitVec 5) (a : BitVec 5) (b : BitVec 5) (c : BitVec 5) : Laws.RoundTrip.Statement (.xmcast d a b c) := by
  intro _ h
  refine decode_of_fields _ _ ?_ h
  unfold encode
  rw [decodeFields_2B _ (fld_packX_op ..)]
  unfold decode2B
  rw [fld_packX_d, fld_packX_a, fld_packX_b, fld_packX_c, fld_packX_f]
  rfl
theorem Laws.RoundTrip.xred (d : BitVec 5) (a : BitVec 5) (b : BitVec 5) (o : BitVec 3) : Laws.RoundTrip.Statement (.xred d a b o) := by
  intro _ h
  refine decode_of_fields _ _ ?_ h
  unfold encode
  rw [decodeFields_2C _ (fld_packXo_op ..)]
  unfold decode2C
  rw [fld_packXo_d, fld_packXo_a, fld_packXo_b, fld_packXo_c, fld_packXo_z, fld_packXo_o]
  rfl
theorem Laws.RoundTrip.xhfill (d : BitVec 5) (a : BitVec 5) (b : BitVec 5) : Laws.RoundTrip.Statement (.xhfill d a b) := by
  intro _ h
  refine decode_of_fields _ _ ?_ h
  unfold encode
  rw [decodeFields_2D _ (fld_packX_op ..)]
  unfold decode2D
  rw [fld_packX_d, fld_packX_a, fld_packX_b, fld_packX_c, fld_packX_f]
  rfl
theorem Laws.RoundTrip.xhspill (d : BitVec 5) (a : BitVec 5) (b : BitVec 5) : Laws.RoundTrip.Statement (.xhspill d a b) := by
  intro _ h
  refine decode_of_fields _ _ ?_ h
  unfold encode
  rw [decodeFields_2D _ (fld_packX_op ..)]
  unfold decode2D
  rw [fld_packX_d, fld_packX_a, fld_packX_b, fld_packX_c, fld_packX_f]
  rfl
theorem Laws.RoundTrip.xhld (d : BitVec 5) (a : BitVec 5) (s : BitVec 3) : Laws.RoundTrip.Statement (.xhld d a s) := by
  intro _ h
  refine decode_of_fields _ _ ?_ h
  unfold encode
  rw [decodeFields_2D _ (fld_packXs_op ..)]
  unfold decode2D
  rw [fld_packXs_d, fld_packXs_a, fld_packXs_b, fld_packXs_z, fld_packXs_s, fld_packXs_f]
  rfl
theorem Laws.RoundTrip.xlsend (d : BitVec 5) (a : BitVec 5) (b : BitVec 5) (c : BitVec 5) : Laws.RoundTrip.Statement (.xlsend d a b c) := by
  intro _ h
  refine decode_of_fields _ _ ?_ h
  unfold encode
  rw [decodeFields_2E _ (fld_packX_op ..)]
  unfold decode2E
  rw [fld_packX_d, fld_packX_a, fld_packX_b, fld_packX_c, fld_packX_f]
  rfl
theorem Laws.RoundTrip.xlrecv (d : BitVec 5) (a : BitVec 5) (b : BitVec 5) (c : BitVec 5) : Laws.RoundTrip.Statement (.xlrecv d a b c) := by
  intro _ h
  refine decode_of_fields _ _ ?_ h
  unfold encode
  rw [decodeFields_2E _ (fld_packX_op ..)]
  unfold decode2E
  rw [fld_packX_d, fld_packX_a, fld_packX_b, fld_packX_c, fld_packX_f]
  rfl
theorem Laws.RoundTrip.xbar (d : BitVec 5) (a : BitVec 5) : Laws.RoundTrip.Statement (.xbar d a) := by
  intro _ h
  refine decode_of_fields _ _ ?_ h
  unfold encode
  rw [decodeFields_2F _ (fld_packX_op ..)]
  unfold decode2F
  rw [fld_packX_d, fld_packX_a, fld_packX_b, fld_packX_c, fld_packX_f]
  rfl
theorem Laws.RoundTrip.send (d : BitVec 5) (a : BitVec 5) (b : BitVec 5) : Laws.RoundTrip.Statement (.send d a b) := by
  intro _ h
  refine decode_of_fields _ _ ?_ h
  unfold encode
  rw [decodeFields_30 _ (fld_packX_op ..)]
  unfold decode30
  rw [fld_packX_d, fld_packX_a, fld_packX_b, fld_packX_c, fld_packX_f]
  rfl
theorem Laws.RoundTrip.spawn (d : BitVec 5) (a : BitVec 5) (b : BitVec 5) : Laws.RoundTrip.Statement (.spawn d a b) := by
  intro _ h
  refine decode_of_fields _ _ ?_ h
  unfold encode
  rw [decodeFields_30 _ (fld_packX_op ..)]
  unfold decode30
  rw [fld_packX_d, fld_packX_a, fld_packX_b, fld_packX_c, fld_packX_f]
  rfl
theorem Laws.RoundTrip.migrate (d : BitVec 5) (a : BitVec 5) : Laws.RoundTrip.Statement (.migrate d a) := by
  intro _ h
  refine decode_of_fields _ _ ?_ h
  unfold encode
  rw [decodeFields_30 _ (fld_packX_op ..)]
  unfold decode30
  rw [fld_packX_d, fld_packX_a, fld_packX_b, fld_packX_c, fld_packX_f]
  rfl
theorem Laws.RoundTrip.rupd (d : BitVec 5) (a : BitVec 5) (b : BitVec 5) (w : BitVec 1) (o : BitVec 4) : Laws.RoundTrip.Statement (.rupd d a b w o) := by
  intro _ h
  refine decode_of_fields _ _ ?_ h
  unfold encode
  rw [decodeFields_31 _ (fld_packXw_op ..)]
  unfold decode31
  rw [fld_packXw_d, fld_packXw_a, fld_packXw_b, fld_packXw_z, fld_packXw_w, fld_packXw_y, fld_packXw_o]
  rfl
theorem Laws.RoundTrip.tqpush (d : BitVec 5) (a : BitVec 5) (b : BitVec 5) (c : BitVec 5) : Laws.RoundTrip.Statement (.tqpush d a b c) := by
  intro _ h
  refine decode_of_fields _ _ ?_ h
  unfold encode
  rw [decodeFields_32 _ (fld_packX_op ..)]
  unfold decode32
  rw [fld_packX_d, fld_packX_a, fld_packX_b, fld_packX_c, fld_packX_f]
  rfl
theorem Laws.RoundTrip.tqdec (d : BitVec 5) (a : BitVec 5) : Laws.RoundTrip.Statement (.tqdec d a) := by
  intro _ h
  refine decode_of_fields _ _ ?_ h
  unfold encode
  rw [decodeFields_32 _ (fld_packX_op ..)]
  unfold decode32
  rw [fld_packX_d, fld_packX_a, fld_packX_b, fld_packX_c, fld_packX_f]
  rfl
theorem Laws.RoundTrip.mbxsend (d : BitVec 5) (a : BitVec 5) (b : BitVec 5) : Laws.RoundTrip.Statement (.mbxsend d a b) := by
  intro _ h
  refine decode_of_fields _ _ ?_ h
  unfold encode
  rw [decodeFields_33 _ (fld_packX_op ..)]
  unfold decode33
  rw [fld_packX_d, fld_packX_a, fld_packX_b, fld_packX_c, fld_packX_f]
  rfl
theorem Laws.RoundTrip.mbxrecv (d : BitVec 5) (a : BitVec 5) (n : BitVec 5) (e : BitVec 5) : Laws.RoundTrip.Statement (.mbxrecv d a n e) := by
  intro _ h
  refine decode_of_fields _ _ ?_ h
  unfold encode
  rw [decodeFields_33 _ (fld_packX_op ..)]
  unfold decode33
  rw [fld_packX_d, fld_packX_a, fld_packX_b, fld_packX_c, fld_packX_f]
  rfl
theorem Laws.RoundTrip.sfork (d : BitVec 5) (a : BitVec 5) (b : BitVec 5) (c : BitVec 5) : Laws.RoundTrip.Statement (.sfork d a b c) := by
  intro _ h
  refine decode_of_fields _ _ ?_ h
  unfold encode
  rw [decodeFields_34 _ (fld_packX_op ..)]
  unfold decode34
  rw [fld_packX_d, fld_packX_a, fld_packX_b, fld_packX_c, fld_packX_f]
  rfl
theorem Laws.RoundTrip.ssel (d : BitVec 5) (a : BitVec 5) : Laws.RoundTrip.Statement (.ssel d a) := by
  intro _ h
  refine decode_of_fields _ _ ?_ h
  unfold encode
  rw [decodeFields_34 _ (fld_packX_op ..)]
  unfold decode34
  rw [fld_packX_d, fld_packX_a, fld_packX_b, fld_packX_c, fld_packX_f]
  rfl
theorem Laws.RoundTrip.sadv (d : BitVec 5) (a : BitVec 5) : Laws.RoundTrip.Statement (.sadv d a) := by
  intro _ h
  refine decode_of_fields _ _ ?_ h
  unfold encode
  rw [decodeFields_34 _ (fld_packX_op ..)]
  unfold decode34
  rw [fld_packX_d, fld_packX_a, fld_packX_b, fld_packX_c, fld_packX_f]
  rfl
theorem Laws.RoundTrip.sactpop (d : BitVec 5) (a : BitVec 5) : Laws.RoundTrip.Statement (.sactpop d a) := by
  intro _ h
  refine decode_of_fields _ _ ?_ h
  unfold encode
  rw [decodeFields_34 _ (fld_packX_op ..)]
  unfold decode34
  rw [fld_packX_d, fld_packX_a, fld_packX_b, fld_packX_c, fld_packX_f]
  rfl
theorem Laws.RoundTrip.sactadd (d : BitVec 5) (a : BitVec 5) : Laws.RoundTrip.Statement (.sactadd d a) := by
  intro _ h
  refine decode_of_fields _ _ ?_ h
  unfold encode
  rw [decodeFields_34 _ (fld_packX_op ..)]
  unfold decode34
  rw [fld_packX_d, fld_packX_a, fld_packX_b, fld_packX_c, fld_packX_f]
  rfl
theorem Laws.RoundTrip.sret (a : BitVec 5) (b : BitVec 5) : Laws.RoundTrip.Statement (.sret a b) := by
  intro _ h
  refine decode_of_fields _ _ ?_ h
  unfold encode
  rw [decodeFields_34 _ (fld_packX_op ..)]
  unfold decode34
  rw [fld_packX_d, fld_packX_a, fld_packX_b, fld_packX_c, fld_packX_f]
  rfl
theorem Laws.RoundTrip.sprune (d : BitVec 5) (a : BitVec 5) : Laws.RoundTrip.Statement (.sprune d a) := by
  intro _ h
  refine decode_of_fields _ _ ?_ h
  unfold encode
  rw [decodeFields_34 _ (fld_packX_op ..)]
  unfold decode34
  rw [fld_packX_d, fld_packX_a, fld_packX_b, fld_packX_c, fld_packX_f]
  rfl
theorem Laws.RoundTrip.smigrate (d : BitVec 5) (a : BitVec 5) (b : BitVec 5) (c : BitVec 5) : Laws.RoundTrip.Statement (.smigrate d a b c) := by
  intro _ h
  refine decode_of_fields _ _ ?_ h
  unfold encode
  rw [decodeFields_34 _ (fld_packX_op ..)]
  unfold decode34
  rw [fld_packX_d, fld_packX_a, fld_packX_b, fld_packX_c, fld_packX_f]
  rfl
theorem Laws.RoundTrip.squery (d : BitVec 5) (a : BitVec 5) (n : BitVec 5) : Laws.RoundTrip.Statement (.squery d a n) := by
  intro _ h
  refine decode_of_fields _ _ ?_ h
  unfold encode
  rw [decodeFields_34 _ (fld_packX_op ..)]
  unfold decode34
  rw [fld_packX_d, fld_packX_a, fld_packX_b, fld_packX_c, fld_packX_f]
  rfl
theorem Laws.RoundTrip.selsub (d : BitVec 5) (a : BitVec 5) (b : BitVec 5) (c : BitVec 5) : Laws.RoundTrip.Statement (.selsub d a b c) := by
  intro _ h
  refine decode_of_fields _ _ ?_ h
  unfold encode
  rw [decodeFields_35 _ (fld_packX_op ..)]
  unfold decode35
  rw [fld_packX_d, fld_packX_a, fld_packX_b, fld_packX_c, fld_packX_f]
  rfl
theorem Laws.RoundTrip.selget (d : BitVec 5) (a : BitVec 5) (b : BitVec 5) : Laws.RoundTrip.Statement (.selget d a b) := by
  intro _ h
  refine decode_of_fields _ _ ?_ h
  unfold encode
  rw [decodeFields_35 _ (fld_packX_op ..)]
  unfold decode35
  rw [fld_packX_d, fld_packX_a, fld_packX_b, fld_packX_c, fld_packX_f]
  rfl
theorem Laws.RoundTrip.redsub (d : BitVec 5) (a : BitVec 5) (b : BitVec 5) (c : BitVec 5) : Laws.RoundTrip.Statement (.redsub d a b c) := by
  intro _ h
  refine decode_of_fields _ _ ?_ h
  unfold encode
  rw [decodeFields_35 _ (fld_packX_op ..)]
  unfold decode35
  rw [fld_packX_d, fld_packX_a, fld_packX_b, fld_packX_c, fld_packX_f]
  rfl
theorem Laws.RoundTrip.sjoin (d : BitVec 5) (a : BitVec 5) (b : BitVec 5) : Laws.RoundTrip.Statement (.sjoin d a b) := by
  intro _ h
  refine decode_of_fields _ _ ?_ h
  unfold encode
  rw [decodeFields_35 _ (fld_packX_op ..)]
  unfold decode35
  rw [fld_packX_d, fld_packX_a, fld_packX_b, fld_packX_c, fld_packX_f]
  rfl
theorem Laws.RoundTrip.umsub (a : BitVec 5) (b : BitVec 5) (c : BitVec 5) : Laws.RoundTrip.Statement (.umsub a b c) := by
  intro _ h
  refine decode_of_fields _ _ ?_ h
  unfold encode
  rw [decodeFields_36 _ (fld_packX_op ..)]
  unfold decode36
  rw [fld_packX_d, fld_packX_a, fld_packX_b, fld_packX_c, fld_packX_f]
  rfl
theorem Laws.RoundTrip.umcommit (a : BitVec 5) (b : BitVec 5) (c : BitVec 5) : Laws.RoundTrip.Statement (.umcommit a b c) := by
  intro _ h
  refine decode_of_fields _ _ ?_ h
  unfold encode
  rw [decodeFields_36 _ (fld_packX_op ..)]
  unfold decode36
  rw [fld_packX_d, fld_packX_a, fld_packX_b, fld_packX_c, fld_packX_f]
  rfl
theorem Laws.RoundTrip.umdirty (d : BitVec 5) (a : BitVec 5) (b : BitVec 5) : Laws.RoundTrip.Statement (.umdirty d a b) := by
  intro _ h
  refine decode_of_fields _ _ ?_ h
  unfold encode
  rw [decodeFields_36 _ (fld_packX_op ..)]
  unfold decode36
  rw [fld_packX_d, fld_packX_a, fld_packX_b, fld_packX_c, fld_packX_f]
  rfl
theorem Laws.RoundTrip.umstateConfigure (d : BitVec 5) (a : BitVec 5) (c : BitVec 5) : Laws.RoundTrip.Statement (.umstateConfigure d a c) := by
  intro _ h
  refine decode_of_fields _ _ ?_ h
  unfold encode
  rw [decodeFields_36 _ (fld_packX_op ..)]
  unfold decode36
  rw [fld_packX_d, fld_packX_a, fld_packX_b, fld_packX_c, fld_packX_f]
  rfl
theorem Laws.RoundTrip.umstateStatus (d : BitVec 5) (a : BitVec 5) (c : BitVec 5) : Laws.RoundTrip.Statement (.umstateStatus d a c) := by
  intro _ h
  refine decode_of_fields _ _ ?_ h
  unfold encode
  rw [decodeFields_36 _ (fld_packX_op ..)]
  unfold decode36
  rw [fld_packX_d, fld_packX_a, fld_packX_b, fld_packX_c, fld_packX_f]
  rfl
theorem Laws.RoundTrip.umstateMask (d : BitVec 5) (a : BitVec 5) (c : BitVec 5) : Laws.RoundTrip.Statement (.umstateMask d a c) := by
  intro _ h
  refine decode_of_fields _ _ ?_ h
  unfold encode
  rw [decodeFields_36 _ (fld_packX_op ..)]
  unfold decode36
  rw [fld_packX_d, fld_packX_a, fld_packX_b, fld_packX_c, fld_packX_f]
  rfl
theorem Laws.RoundTrip.umstateRelease (d : BitVec 5) (a : BitVec 5) (c : BitVec 5) : Laws.RoundTrip.Statement (.umstateRelease d a c) := by
  intro _ h
  refine decode_of_fields _ _ ?_ h
  unfold encode
  rw [decodeFields_36 _ (fld_packX_op ..)]
  unfold decode36
  rw [fld_packX_d, fld_packX_a, fld_packX_b, fld_packX_c, fld_packX_f]
  rfl
theorem Laws.RoundTrip.csrr (d : BitVec 5) (c : BitVec 12) : Laws.RoundTrip.Statement (.csrr d c) := by
  intro _ h
  refine decode_of_fields _ _ ?_ h
  unfold encode
  rw [decodeFields_37 _ (fld_packS_op ..)]
  unfold decode37
  rw [fld_packS_d, fld_packS_a, fld_packS_k, fld_packS_c]
  rfl
theorem Laws.RoundTrip.csrw (a : BitVec 5) (c : BitVec 12) : Laws.RoundTrip.Statement (.csrw a c) := by
  intro _ h
  refine decode_of_fields _ _ ?_ h
  unfold encode
  rw [decodeFields_37 _ (fld_packS_op ..)]
  unfold decode37
  rw [fld_packS_d, fld_packS_a, fld_packS_k, fld_packS_c]
  rfl
theorem Laws.RoundTrip.csrset (a : BitVec 5) (c : BitVec 12) : Laws.RoundTrip.Statement (.csrset a c) := by
  intro _ h
  refine decode_of_fields _ _ ?_ h
  unfold encode
  rw [decodeFields_37 _ (fld_packS_op ..)]
  unfold decode37
  rw [fld_packS_d, fld_packS_a, fld_packS_k, fld_packS_c]
  rfl
theorem Laws.RoundTrip.csrclr (a : BitVec 5) (c : BitVec 12) : Laws.RoundTrip.Statement (.csrclr a c) := by
  intro _ h
  refine decode_of_fields _ _ ?_ h
  unfold encode
  rw [decodeFields_37 _ (fld_packS_op ..)]
  unfold decode37
  rw [fld_packS_d, fld_packS_a, fld_packS_k, fld_packS_c]
  rfl
theorem Laws.RoundTrip.trap (a : BitVec 5) (c : BitVec 12) : Laws.RoundTrip.Statement (.trap a c) := by
  intro _ h
  refine decode_of_fields _ _ ?_ h
  unfold encode
  rw [decodeFields_38 _ (fld_packS_op ..)]
  unfold decode38
  rw [fld_packS_d, fld_packS_a, fld_packS_k, fld_packS_c]
  rfl
theorem Laws.RoundTrip.idle (a : BitVec 5) : Laws.RoundTrip.Statement (.idle a) := by
  intro _ h
  refine decode_of_fields _ _ ?_ h
  unfold encode
  rw [decodeFields_38 _ (fld_packS_op ..)]
  unfold decode38
  rw [fld_packS_d, fld_packS_a, fld_packS_k, fld_packS_c]
  rfl
theorem Laws.RoundTrip.dbrk (c : BitVec 12) : Laws.RoundTrip.Statement (.dbrk c) := by
  intro _ h
  refine decode_of_fields _ _ ?_ h
  unfold encode
  rw [decodeFields_38 _ (fld_packS_op ..)]
  unfold decode38
  rw [fld_packS_d, fld_packS_a, fld_packS_k, fld_packS_c]
  rfl
theorem Laws.RoundTrip.halt (a : BitVec 5) : Laws.RoundTrip.Statement (.halt a) := by
  intro _ h
  refine decode_of_fields _ _ ?_ h
  unfold encode
  rw [decodeFields_38 _ (fld_packS_op ..)]
  unfold decode38
  rw [fld_packS_d, fld_packS_a, fld_packS_k, fld_packS_c]
  rfl
theorem Laws.RoundTrip.capgive (d : BitVec 5) (a : BitVec 5) (b : BitVec 5) : Laws.RoundTrip.Statement (.capgive d a b) := by
  intro _ h
  refine decode_of_fields _ _ ?_ h
  unfold encode
  rw [decodeFields_39 _ (fld_packX_op ..)]
  unfold decode39
  rw [fld_packX_d, fld_packX_a, fld_packX_b, fld_packX_c, fld_packX_f]
  rfl
theorem Laws.RoundTrip.captake (d : BitVec 5) (a : BitVec 5) : Laws.RoundTrip.Statement (.captake d a) := by
  intro _ h
  refine decode_of_fields _ _ ?_ h
  unfold encode
  rw [decodeFields_39 _ (fld_packX_op ..)]
  unfold decode39
  rw [fld_packX_d, fld_packX_a, fld_packX_b, fld_packX_c, fld_packX_f]
  rfl
theorem Laws.RoundTrip.capq (d : BitVec 5) (a : BitVec 5) : Laws.RoundTrip.Statement (.capq d a) := by
  intro _ h
  refine decode_of_fields _ _ ?_ h
  unfold encode
  rw [decodeFields_39 _ (fld_packX_op ..)]
  unfold decode39
  rw [fld_packX_d, fld_packX_a, fld_packX_b, fld_packX_c, fld_packX_f]
  rfl
theorem Laws.RoundTrip.digest (d : BitVec 5) : Laws.RoundTrip.Statement (.digest d) := by
  intro _ h
  refine decode_of_fields _ _ ?_ h
  unfold encode
  rw [decodeFields_3A _ (fld_packS_op ..)]
  unfold decode3A
  rw [fld_packS_d, fld_packS_a, fld_packS_k, fld_packS_c]
  rfl
theorem Laws.RoundTrip.quotasetVquota (d : BitVec 5) (a : BitVec 5) : Laws.RoundTrip.Statement (.quotasetVquota d a) := by
  intro _ h
  refine decode_of_fields _ _ ?_ h
  unfold encode
  rw [decodeFields_3B _ (fld_packS_op ..)]
  unfold decode3B
  rw [fld_packS_d, fld_packS_a, fld_packS_k, fld_packS_c]
  rfl
theorem Laws.RoundTrip.quotasetHquota (d : BitVec 5) (a : BitVec 5) : Laws.RoundTrip.Statement (.quotasetHquota d a) := by
  intro _ h
  refine decode_of_fields _ _ ?_ h
  unfold encode
  rw [decodeFields_3B _ (fld_packS_op ..)]
  unfold decode3B
  rw [fld_packS_d, fld_packS_a, fld_packS_k, fld_packS_c]
  rfl
theorem Laws.RoundTrip.quotasetSpill (d : BitVec 5) (a : BitVec 5) : Laws.RoundTrip.Statement (.quotasetSpill d a) := by
  intro _ h
  refine decode_of_fields _ _ ?_ h
  unfold encode
  rw [decodeFields_3B _ (fld_packS_op ..)]
  unfold decode3B
  rw [fld_packS_d, fld_packS_a, fld_packS_k, fld_packS_c]
  rfl
theorem Laws.RoundTrip.quotasetPoolAdd (d : BitVec 5) (a : BitVec 5) : Laws.RoundTrip.Statement (.quotasetPoolAdd d a) := by
  intro _ h
  refine decode_of_fields _ _ ?_ h
  unfold encode
  rw [decodeFields_3B _ (fld_packS_op ..)]
  unfold decode3B
  rw [fld_packS_d, fld_packS_a, fld_packS_k, fld_packS_c]
  rfl
theorem Laws.RoundTrip.quotasetPoolRemove (d : BitVec 5) (a : BitVec 5) : Laws.RoundTrip.Statement (.quotasetPoolRemove d a) := by
  intro _ h
  refine decode_of_fields _ _ ?_ h
  unfold encode
  rw [decodeFields_3B _ (fld_packS_op ..)]
  unfold decode3B
  rw [fld_packS_d, fld_packS_a, fld_packS_k, fld_packS_c]
  rfl
theorem Laws.RoundTrip.quotasetSeqRange (d : BitVec 5) (a : BitVec 5) : Laws.RoundTrip.Statement (.quotasetSeqRange d a) := by
  intro _ h
  refine decode_of_fields _ _ ?_ h
  unfold encode
  rw [decodeFields_3B _ (fld_packS_op ..)]
  unfold decode3B
  rw [fld_packS_d, fld_packS_a, fld_packS_k, fld_packS_c]
  rfl
theorem Laws.RoundTrip.quotasetTaskRange (d : BitVec 5) (a : BitVec 5) : Laws.RoundTrip.Statement (.quotasetTaskRange d a) := by
  intro _ h
  refine decode_of_fields _ _ ?_ h
  unfold encode
  rw [decodeFields_3B _ (fld_packS_op ..)]
  unfold decode3B
  rw [fld_packS_d, fld_packS_a, fld_packS_k, fld_packS_c]
  rfl
theorem Laws.RoundTrip.keyselAssign (d : BitVec 5) (a : BitVec 5) : Laws.RoundTrip.Statement (.keyselAssign d a) := by
  intro _ h
  refine decode_of_fields _ _ ?_ h
  unfold encode
  rw [decodeFields_3B _ (fld_packS_op ..)]
  unfold decode3B
  rw [fld_packS_d, fld_packS_a, fld_packS_k, fld_packS_c]
  rfl
theorem Laws.RoundTrip.keyselRelease (d : BitVec 5) (a : BitVec 5) : Laws.RoundTrip.Statement (.keyselRelease d a) := by
  intro _ h
  refine decode_of_fields _ _ ?_ h
  unfold encode
  rw [decodeFields_3B _ (fld_packS_op ..)]
  unfold decode3B
  rw [fld_packS_d, fld_packS_a, fld_packS_k, fld_packS_c]
  rfl
theorem Laws.RoundTrip.keyselImport (d : BitVec 5) (a : BitVec 5) : Laws.RoundTrip.Statement (.keyselImport d a) := by
  intro _ h
  refine decode_of_fields _ _ ?_ h
  unfold encode
  rw [decodeFields_3B _ (fld_packS_op ..)]
  unfold decode3B
  rw [fld_packS_d, fld_packS_a, fld_packS_k, fld_packS_c]
  rfl
theorem Laws.RoundTrip.modesetFeatures (d : BitVec 5) (a : BitVec 5) : Laws.RoundTrip.Statement (.modesetFeatures d a) := by
  intro _ h
  refine decode_of_fields _ _ ?_ h
  unfold encode
  rw [decodeFields_3B _ (fld_packS_op ..)]
  unfold decode3B
  rw [fld_packS_d, fld_packS_a, fld_packS_k, fld_packS_c]
  rfl
theorem Laws.RoundTrip.modesetSeed (d : BitVec 5) (a : BitVec 5) : Laws.RoundTrip.Statement (.modesetSeed d a) := by
  intro _ h
  refine decode_of_fields _ _ ?_ h
  unfold encode
  rw [decodeFields_3B _ (fld_packS_op ..)]
  unfold decode3B
  rw [fld_packS_d, fld_packS_a, fld_packS_k, fld_packS_c]
  rfl
theorem Laws.RoundTrip.modesetRoot (d : BitVec 5) (a : BitVec 5) : Laws.RoundTrip.Statement (.modesetRoot d a) := by
  intro _ h
  refine decode_of_fields _ _ ?_ h
  unfold encode
  rw [decodeFields_3B _ (fld_packS_op ..)]
  unfold decode3B
  rw [fld_packS_d, fld_packS_a, fld_packS_k, fld_packS_c]
  rfl
theorem Laws.RoundTrip.modesetSystemFlag (d : BitVec 5) (a : BitVec 5) : Laws.RoundTrip.Statement (.modesetSystemFlag d a) := by
  intro _ h
  refine decode_of_fields _ _ ?_ h
  unfold encode
  rw [decodeFields_3B _ (fld_packS_op ..)]
  unfold decode3B
  rw [fld_packS_d, fld_packS_a, fld_packS_k, fld_packS_c]
  rfl
theorem Laws.RoundTrip.modesetComputeBudget (d : BitVec 5) (a : BitVec 5) : Laws.RoundTrip.Statement (.modesetComputeBudget d a) := by
  intro _ h
  refine decode_of_fields _ _ ?_ h
  unfold encode
  rw [decodeFields_3B _ (fld_packS_op ..)]
  unfold decode3B
  rw [fld_packS_d, fld_packS_a, fld_packS_k, fld_packS_c]
  rfl
theorem Laws.RoundTrip.modesetExchangeBudget (d : BitVec 5) (a : BitVec 5) : Laws.RoundTrip.Statement (.modesetExchangeBudget d a) := by
  intro _ h
  refine decode_of_fields _ _ ?_ h
  unfold encode
  rw [decodeFields_3B _ (fld_packS_op ..)]
  unfold decode3B
  rw [fld_packS_d, fld_packS_a, fld_packS_k, fld_packS_c]
  rfl
theorem Laws.RoundTrip.modesetFrameMap (d : BitVec 5) (a : BitVec 5) : Laws.RoundTrip.Statement (.modesetFrameMap d a) := by
  intro _ h
  refine decode_of_fields _ _ ?_ h
  unfold encode
  rw [decodeFields_3B _ (fld_packS_op ..)]
  unfold decode3B
  rw [fld_packS_d, fld_packS_a, fld_packS_k, fld_packS_c]
  rfl
theorem Laws.RoundTrip.modesetLeaf (d : BitVec 5) (a : BitVec 5) : Laws.RoundTrip.Statement (.modesetLeaf d a) := by
  intro _ h
  refine decode_of_fields _ _ ?_ h
  unfold encode
  rw [decodeFields_3B _ (fld_packS_op ..)]
  unfold decode3B
  rw [fld_packS_d, fld_packS_a, fld_packS_k, fld_packS_c]
  rfl
theorem Laws.RoundTrip.modesetRegister (d : BitVec 5) (a : BitVec 5) : Laws.RoundTrip.Statement (.modesetRegister d a) := by
  intro _ h
  refine decode_of_fields _ _ ?_ h
  unfold encode
  rw [decodeFields_3B _ (fld_packS_op ..)]
  unfold decode3B
  rw [fld_packS_d, fld_packS_a, fld_packS_k, fld_packS_c]
  rfl
theorem Laws.RoundTrip.modesetUnregister (d : BitVec 5) (a : BitVec 5) : Laws.RoundTrip.Statement (.modesetUnregister d a) := by
  intro _ h
  refine decode_of_fields _ _ ?_ h
  unfold encode
  rw [decodeFields_3B _ (fld_packS_op ..)]
  unfold decode3B
  rw [fld_packS_d, fld_packS_a, fld_packS_k, fld_packS_c]
  rfl
theorem Laws.RoundTrip.pfx (i : BitVec 26) : Laws.RoundTrip.Statement (.pfx i) := by
  intro _ h
  refine decode_of_fields _ _ ?_ h
  unfold encode
  rw [decodeFields_3F _ (fld_packJ_op ..)]
  unfold decode3F
  rw [fld_packJ_o]
theorem Laws.RoundTrip.budgetExpiry (tid : Nat) : Laws.RoundTrip.Statement (.budgetExpiry tid) :=
  fun h _ => Bool.noConfusion h
theorem Laws.RoundTrip.messageAccept (tid : Nat) (src : Nat) : Laws.RoundTrip.Statement (.messageAccept tid src) :=
  fun h _ => Bool.noConfusion h
theorem Laws.RoundTrip.handlerPreemption (tid : Nat) (core : Nat) : Laws.RoundTrip.Statement (.handlerPreemption tid core) :=
  fun h _ => Bool.noConfusion h
theorem Laws.RoundTrip.spillFullRecord (tid : Nat) (src : Nat) : Laws.RoundTrip.Statement (.spillFullRecord tid src) :=
  fun h _ => Bool.noConfusion h
theorem Laws.RoundTrip.continuationTake (tid : Nat) (core : Nat) : Laws.RoundTrip.Statement (.continuationTake tid core) :=
  fun h _ => Bool.noConfusion h
theorem Laws.RoundTrip.remoteUpdateApply (tid : Nat) (core : Nat) (idx : Nat) : Laws.RoundTrip.Statement (.remoteUpdateApply tid core idx) :=
  fun h _ => Bool.noConfusion h
theorem Laws.RoundTrip.mailboxDelivery (tid : Nat) (src : Nat) : Laws.RoundTrip.Statement (.mailboxDelivery tid src) :=
  fun h _ => Bool.noConfusion h
theorem Laws.RoundTrip.capabilityMessageDelivery (tid : Nat) : Laws.RoundTrip.Statement (.capabilityMessageDelivery tid) :=
  fun h _ => Bool.noConfusion h
theorem Laws.RoundTrip.sharingCountRaise (tid : Nat) : Laws.RoundTrip.Statement (.sharingCountRaise tid) :=
  fun h _ => Bool.noConfusion h
theorem Laws.RoundTrip.referenceRelease (tid : Nat) : Laws.RoundTrip.Statement (.referenceRelease tid) :=
  fun h _ => Bool.noConfusion h
theorem Laws.RoundTrip.exchangeUnitLanding (tid : Nat) (core : Nat) (op : Nat) : Laws.RoundTrip.Statement (.exchangeUnitLanding tid core op) :=
  fun h _ => Bool.noConfusion h
theorem Laws.RoundTrip.transferComplete (tid : Nat) (core : Nat) (op : Nat) : Laws.RoundTrip.Statement (.transferComplete tid core op) :=
  fun h _ => Bool.noConfusion h
theorem Laws.RoundTrip.copyComplete (tid : Nat) (core : Nat) : Laws.RoundTrip.Statement (.copyComplete tid core) :=
  fun h _ => Bool.noConfusion h
theorem Laws.RoundTrip.matrixOpComplete (tid : Nat) (core : Nat) : Laws.RoundTrip.Statement (.matrixOpComplete tid core) :=
  fun h _ => Bool.noConfusion h
theorem Laws.RoundTrip.hbmAccessComplete (tid : Nat) (core : Nat) (slot : Nat) (excess : BitVec 64) : Laws.RoundTrip.Statement (.hbmAccessComplete tid core slot excess) :=
  fun h _ => Bool.noConfusion h
theorem Laws.RoundTrip.waitExpired (tid : Nat) (core : Nat) (slot : Nat) : Laws.RoundTrip.Statement (.waitExpired tid core slot) :=
  fun h _ => Bool.noConfusion h
theorem Laws.RoundTrip.linkTimeout (tid : Nat) (core : Nat) (slot : Nat) : Laws.RoundTrip.Statement (.linkTimeout tid core slot) :=
  fun h _ => Bool.noConfusion h
theorem Laws.RoundTrip.linkTransferComplete (tid : Nat) (core : Nat) (slot : Nat) : Laws.RoundTrip.Statement (.linkTransferComplete tid core slot) :=
  fun h _ => Bool.noConfusion h
theorem Laws.RoundTrip.xbarRelease (tid : Nat) (rect : BitVec 24) (inst : Nat) : Laws.RoundTrip.Statement (.xbarRelease tid rect inst) :=
  fun h _ => Bool.noConfusion h
theorem Laws.RoundTrip.finialRound (tid : Nat) : Laws.RoundTrip.Statement (.finialRound tid) :=
  fun h _ => Bool.noConfusion h
theorem Laws.RoundTrip.oculusRound (tid : Nat) (seq : Nat) : Laws.RoundTrip.Statement (.oculusRound tid seq) :=
  fun h _ => Bool.noConfusion h
theorem Laws.RoundTrip.queueEntryFetch (queue : Nat) : Laws.RoundTrip.Statement (.queueEntryFetch queue) :=
  fun h _ => Bool.noConfusion h
theorem Laws.RoundTrip.streamTableRequest (tid : Nat) (core : Nat) (slot : Nat) : Laws.RoundTrip.Statement (.streamTableRequest tid core slot) :=
  fun h _ => Bool.noConfusion h
theorem Laws.RoundTrip.streamTableReply (tid : Nat) (core : Nat) (slot : Nat) : Laws.RoundTrip.Statement (.streamTableReply tid core slot) :=
  fun h _ => Bool.noConfusion h
theorem Laws.RoundTrip.taskTableRequest (tid : Nat) (core : Nat) (slot : Nat) : Laws.RoundTrip.Statement (.taskTableRequest tid core slot) :=
  fun h _ => Bool.noConfusion h
theorem Laws.RoundTrip.taskTableReply (tid : Nat) (core : Nat) (slot : Nat) : Laws.RoundTrip.Statement (.taskTableReply tid core slot) :=
  fun h _ => Bool.noConfusion h
theorem Laws.RoundTrip.privilegedOperationReply (tid : Nat) (core : Nat) (slot : Nat) : Laws.RoundTrip.Statement (.privilegedOperationReply tid core slot) :=
  fun h _ => Bool.noConfusion h
theorem Laws.RoundTrip.quit : Laws.RoundTrip.Statement .quit := by
  intro _ h
  refine decode_of_fields _ _ ?_ h
  unfold encode
  rw [decodeFields_11 _ (fld_packX_op ..)]
  unfold decode11
  rw [fld_packX_d, fld_packX_a, fld_packX_b, fld_packX_c, fld_packX_f]
  rfl
theorem Laws.RoundTrip.mwait : Laws.RoundTrip.Statement .mwait := by
  intro _ h
  refine decode_of_fields _ _ ?_ h
  unfold encode
  rw [decodeFields_26 _ (fld_packM_op ..)]
  unfold decode26
  rw [fld_packM_c, fld_packM_a, fld_packM_b, fld_packM_x, fld_packM_y, fld_packM_k, fld_packM_f]
  rfl
theorem Laws.RoundTrip.fence : Laws.RoundTrip.Statement .fence := by
  intro _ h
  refine decode_of_fields _ _ ?_ h
  unfold encode
  rw [decodeFields_29 _ (fld_packX_op ..)]
  unfold decode29
  rw [fld_packX_d, fld_packX_a, fld_packX_b, fld_packX_c, fld_packX_f]
  rfl
theorem Laws.RoundTrip.sync : Laws.RoundTrip.Statement .sync := by
  intro _ h
  refine decode_of_fields _ _ ?_ h
  unfold encode
  rw [decodeFields_2F _ (fld_packX_op ..)]
  unfold decode2F
  rw [fld_packX_d, fld_packX_a, fld_packX_b, fld_packX_c, fld_packX_f]
  rfl
theorem Laws.RoundTrip.xend : Laws.RoundTrip.Statement .xend := by
  intro _ h
  refine decode_of_fields _ _ ?_ h
  unfold encode
  rw [decodeFields_2F _ (fld_packX_op ..)]
  unfold decode2F
  rw [fld_packX_d, fld_packX_a, fld_packX_b, fld_packX_c, fld_packX_f]
  rfl
theorem Laws.RoundTrip.eret : Laws.RoundTrip.Statement .eret := by
  intro _ h
  refine decode_of_fields _ _ ?_ h
  unfold encode
  rw [decodeFields_38 _ (fld_packS_op ..)]
  unfold decode38
  rw [fld_packS_d, fld_packS_a, fld_packS_k, fld_packS_c]
  rfl
theorem Laws.RoundTrip.phaseBoundary : Laws.RoundTrip.Statement .phaseBoundary :=
  fun h _ => Bool.noConfusion h
theorem Laws.RoundTrip.pageWalkComplete (tid : Nat) (core : Nat) (va : BitVec 64) : Laws.RoundTrip.Statement (.pageWalkComplete tid core va) :=
  fun h _ => Bool.noConfusion h
theorem Laws.RoundTrip.linkPartnerStop (tid : Nat) (core : Nat) (slot : Nat) (moved : Nat) : Laws.RoundTrip.Statement (.linkPartnerStop tid core slot moved) :=
  fun h _ => Bool.noConfusion h
theorem Laws.RoundTrip.smigrateReply (tid : Nat) (port : Nat) (result : Nat) (newId : BitVec 18) : Laws.RoundTrip.Statement (.smigrateReply tid port result newId) :=
  fun h _ => Bool.noConfusion h
theorem Laws.RoundTrip.launchComplete : Laws.RoundTrip.Statement .launchComplete :=
  fun h _ => Bool.noConfusion h
theorem Laws.RoundTrip.replicaFlit (far : FarEnd) (ordinal : BitVec 64) (exchange : Bool) (sum : BitVec 64) : Laws.RoundTrip.Statement (.replicaFlit far ordinal exchange sum) :=
  fun h _ => Bool.noConfusion h
theorem Laws.RoundTrip.refreshDue (stack : Nat) (group : Nat) (bank : Nat) (queued : Bool) (postpone : Bool) : Laws.RoundTrip.Statement (.refreshDue stack group bank queued postpone) :=
  fun h _ => Bool.noConfusion h
theorem Laws.RoundTrip.postponedRefreshIssue (stack : Nat) (group : Nat) (bank : Nat) : Laws.RoundTrip.Statement (.postponedRefreshIssue stack group bank) :=
  fun h _ => Bool.noConfusion h
theorem Laws.RoundTrip.arbiterInterval (amps : Nat) (c0 : Nat) (c1 : Nat) (c2 : Nat) (c3 : Nat) : Laws.RoundTrip.Statement (.arbiterInterval amps c0 c1 c2 c3) :=
  fun h _ => Bool.noConfusion h
theorem Laws.RoundTrip.thermalInterval (t0 : Nat) (t1 : Nat) (t2 : Nat) (t3 : Nat) : Laws.RoundTrip.Statement (.thermalInterval t0 t1 t2 t3) :=
  fun h _ => Bool.noConfusion h
theorem Laws.RoundTrip.thermalHold (die : Nat) : Laws.RoundTrip.Statement (.thermalHold die) :=
  fun h _ => Bool.noConfusion h
theorem Laws.RoundTrip.thermalTrip (die : Nat) : Laws.RoundTrip.Statement (.thermalTrip die) :=
  fun h _ => Bool.noConfusion h
theorem Laws.RoundTrip.patrolScrub (found : ScrubFinding) : Laws.RoundTrip.Statement (.patrolScrub found) :=
  fun h _ => Bool.noConfusion h
theorem Laws.RoundTrip.wearSample (m0 : Nat) (m1 : Nat) (m2 : Nat) (m3 : Nat) : Laws.RoundTrip.Statement (.wearSample m0 m1 m2 m3) :=
  fun h _ => Bool.noConfusion h
theorem Laws.RoundTrip.qtailDoorbell (fn : Nat) (queue : Nat) (tail : BitVec 16) : Laws.RoundTrip.Statement (.qtailDoorbell fn queue tail) :=
  fun h _ => Bool.noConfusion h
theorem Laws.RoundTrip.launch : Laws.RoundTrip.Statement .launch :=
  fun h _ => Bool.noConfusion h
theorem Laws.RoundTrip.preempt : Laws.RoundTrip.Statement .preempt :=
  fun h _ => Bool.noConfusion h
theorem Laws.RoundTrip.contextSaveComplete : Laws.RoundTrip.Statement .contextSaveComplete :=
  fun h _ => Bool.noConfusion h
theorem Laws.RoundTrip.restore : Laws.RoundTrip.Statement .restore :=
  fun h _ => Bool.noConfusion h
theorem Laws.RoundTrip.hold : Laws.RoundTrip.Statement .hold :=
  fun h _ => Bool.noConfusion h
theorem Laws.RoundTrip.release : Laws.RoundTrip.Statement .release :=
  fun h _ => Bool.noConfusion h
theorem Laws.RoundTrip.attest : Laws.RoundTrip.Statement .attest :=
  fun h _ => Bool.noConfusion h
theorem Laws.RoundTrip.attestationReportDone : Laws.RoundTrip.Statement .attestationReportDone :=
  fun h _ => Bool.noConfusion h
theorem Laws.RoundTrip.register : Laws.RoundTrip.Statement .register :=
  fun h _ => Bool.noConfusion h
theorem Laws.RoundTrip.unregister : Laws.RoundTrip.Statement .unregister :=
  fun h _ => Bool.noConfusion h
theorem Laws.RoundTrip.debug : Laws.RoundTrip.Statement .debug :=
  fun h _ => Bool.noConfusion h
theorem Laws.RoundTrip.create : Laws.RoundTrip.Statement .create :=
  fun h _ => Bool.noConfusion h
theorem Laws.RoundTrip.destroy : Laws.RoundTrip.Statement .destroy :=
  fun h _ => Bool.noConfusion h
theorem Laws.RoundTrip.bindvf : Laws.RoundTrip.Statement .bindvf :=
  fun h _ => Bool.noConfusion h
theorem Laws.RoundTrip.bindlink : Laws.RoundTrip.Statement .bindlink :=
  fun h _ => Bool.noConfusion h
theorem Laws.RoundTrip.importkey : Laws.RoundTrip.Statement .importkey :=
  fun h _ => Bool.noConfusion h
theorem Laws.RoundTrip.warm : Laws.RoundTrip.Statement .warm :=
  fun h _ => Bool.noConfusion h
theorem Laws.RoundTrip.windowRead (fn : Nat) (off : BitVec 32) (len : Nat) : Laws.RoundTrip.Statement (.windowRead fn off len) :=
  fun h _ => Bool.noConfusion h
theorem Laws.RoundTrip.windowWrite (fn : Nat) (off : BitVec 32) (data : List (BitVec 8)) : Laws.RoundTrip.Statement (.windowWrite fn off data) :=
  fun h _ => Bool.noConfusion h
theorem Laws.RoundTrip.bar0RegisterWrite (fn : Nat) (off : BitVec 24) (value : BitVec 64) : Laws.RoundTrip.Statement (.bar0RegisterWrite fn off value) :=
  fun h _ => Bool.noConfusion h
theorem Laws.RoundTrip.flitCrcReplay (port : Nat) : Laws.RoundTrip.Statement (.flitCrcReplay port) :=
  fun h _ => Bool.noConfusion h
theorem Laws.RoundTrip.portDown (port : Nat) : Laws.RoundTrip.Statement (.portDown port) :=
  fun h _ => Bool.noConfusion h
theorem Laws.RoundTrip.portUp (port : Nat) : Laws.RoundTrip.Statement (.portUp port) :=
  fun h _ => Bool.noConfusion h
theorem Laws.RoundTrip.coldStart (env : StartEnv) : Laws.RoundTrip.Statement (.coldStart env) :=
  fun h _ => Bool.noConfusion h
theorem Laws.RoundTrip.warmStart (env : StartEnv) : Laws.RoundTrip.Statement (.warmStart env) :=
  fun h _ => Bool.noConfusion h
theorem Laws.RoundTrip.illegalInstructionWord (w : BitVec 32) : Laws.RoundTrip.Statement (.illegalInstructionWord w) :=
  fun h _ => Bool.noConfusion h
theorem Laws.RoundTrip.instructionFetchFault : Laws.RoundTrip.Statement .instructionFetchFault :=
  fun h _ => Bool.noConfusion h
theorem Laws.RoundTrip.migratedStreamAdmission (port : Nat) (arrival : StreamArrival) : Laws.RoundTrip.Statement (.migratedStreamAdmission port arrival) :=
  fun h _ => Bool.noConfusion h
theorem Laws.RoundTrip.linkPartnerIssue (port : Nat) (far : FarEnd) (sends : Bool) (tag : BitVec 16) (len : Nat) (data : List (BitVec 8)) : Laws.RoundTrip.Statement (.linkPartnerIssue port far sends tag len data) :=
  fun h _ => Bool.noConfusion h
theorem Laws.RoundTrip.refreshComplete (stack : Nat) (group : Nat) (bank : Nat) : Laws.RoundTrip.Statement (.refreshComplete stack group bank) :=
  fun h _ => Bool.noConfusion h

end Sys2Proof
end

