-- ==== Sys2Proof/Laws/Signature.lean ====
section
/-! SUPPORT. Signatures of the Keep: their length, and that a message's signature verifies under the public key
(spec/15_isolation.md R314, R315). -/

namespace Sys2Proof.Machine

@[simp] theorem natBe_length (n v : Nat) : (natBe n v).length = n := by simp [natBe]

theorem shaInit_length : shaInit.length = 8 := by decide

theorem shaRound_length (h : List (BitVec 32)) (kw : BitVec 32) : (shaRound h kw).length = h.length := by
  unfold shaRound
  split <;> rfl

theorem shaBlock_length (h : List (BitVec 32)) (b : List Byte) : (shaBlock h b).length = h.length := by
  have rounds (l : List (BitVec 32)) : ∀ h : List (BitVec 32), (l.foldl shaRound h).length = h.length := by
    induction l with
    | nil => intro h; rfl
    | cons x l ih => intro h; rw [List.foldl_cons, ih, shaRound_length]
  simp [shaBlock, rounds]

theorem shaBlocks_length (n : Nat) : ∀ (h : List (BitVec 32)) (bs : List Byte), (shaBlocks n h bs).length = h.length := by
  induction n with
  | zero => intro h bs; rfl
  | succ n ih => intro h bs; rw [shaBlocks, ih, shaBlock_length]

@[simp] theorem sha256_length (bs : List Byte) : (sha256 bs).length = 32 := by
  simp [sha256, shaBlocks_length, shaInit_length]

@[simp] theorem slhHash_length (seed : List Byte) (a : SlhAdrs) (m : List Byte) : (slhHash seed a m).length = 16 := by
  simp [slhHash]

theorem slhChain_length (seed : List Byte) (a : SlhAdrs) (n : Nat) :
    ∀ (i : Nat) (x : List Byte), x.length = 16 → (slhChain seed a n i x).length = 16 := by
  induction n with
  | zero => exact fun _ _ h => h
  | succ n ih => exact fun i x _ => ih (i + 1) _ (slhHash_length ..)

/-- A chain goes on from where it stood. -/
theorem slhChain_add (seed : List Byte) (a : SlhAdrs) (d n : Nat) :
    ∀ (i : Nat) (x : List Byte), slhChain seed a n (i + d) (slhChain seed a d i x) = slhChain seed a (d + n) i x := by
  induction d with
  | zero => intro i x; simp [slhChain]
  | succ d ih =>
    intro i x
    rw [slhChain, show i + (d + 1) = i + 1 + d by omega, ih, show d + 1 + n = d + n + 1 by omega, slhChain]

theorem slhDigits_length (b count : Nat) (x : List Byte) : (slhDigits b count x).length = count := by simp [slhDigits]

theorem slhDigits_lt (b count : Nat) (x : List Byte) : ∀ d ∈ slhDigits b count x, d < 2 ^ b := by
  simp only [slhDigits, List.mem_map]
  rintro d ⟨i, -, rfl⟩
  exact Nat.mod_lt _ (by positivity)

theorem wotsDigits_length (m : List Byte) : (wotsDigits m).length = 35 := by simp [wotsDigits, slhDigits_length]

theorem wotsDigits_lt (m : List Byte) (d : Nat) (h : d ∈ wotsDigits m) : d < 16 := by
  simp only [wotsDigits, List.mem_append] at h
  exact h.elim (slhDigits_lt 4 _ _ d) (slhDigits_lt 4 _ _ d)

theorem wotsSign_length (k : SlhKey) (a : SlhAdrs) (m : List Byte) : (wotsSign k a m).length = 35 := by
  simp [wotsSign, wotsDigits_length]

/-- A one-time signature gives back the leaf of its tree. -/
theorem wotsKey_wotsSign (k : SlhKey) (a : SlhAdrs) (i : Nat) (m : List Byte) :
    wotsKey k.seed { a with word1 := i } (wotsSign k { a with word1 := i } m) m = xmssLeaf k a i := by
  simp only [wotsKey, xmssLeaf, List.flatMap]
  congr 2
  apply List.ext_getElem
  · simp [wotsSign, wotsDigits_length]
  · intro j h1 h2
    have hj : j < (wotsDigits m).length := by simpa [wotsDigits_length] using h2
    have hd : (wotsDigits m)[j] < 16 := wotsDigits_lt m _ (List.getElem_mem _)
    have := slhChain_add k.seed { a with word1 := i, kind := 0, word2 := j } (wotsDigits m)[j] (15 - (wotsDigits m)[j]) 0
      (k.value { a with word1 := i, kind := 5, word2 := j, word3 := 0 })
    rw [Nat.zero_add, Nat.add_sub_cancel' (by omega)] at this
    simpa only [List.getElem_map, List.getElem_zipIdx, List.getElem_zip, wotsSign, List.getElem_range, Nat.zero_add] using this

/-- A path leads from a node to the one above it by as many levels. -/
theorem slhClimb_node (seed : List Byte) (a : SlhAdrs) (leaf : Nat → List Byte) (i n : Nat) : ∀ h,
    slhClimb seed a h (i / 2 ^ h) (slhNode seed a leaf h (i / 2 ^ h))
      ((List.range' h n).map (fun h => slhNode seed a leaf h (if i / 2 ^ h % 2 = 0 then i / 2 ^ h + 1 else i / 2 ^ h - 1)))
      = slhNode seed a leaf (h + n) (i / 2 ^ (h + n)) := by
  induction n with
  | zero => intro h; simp [slhClimb]
  | succ n ih =>
    intro h
    rw [List.range'_succ, List.map_cons, slhClimb]
    have e : i / 2 ^ h / 2 = i / 2 ^ (h + 1) := by rw [Nat.div_div_eq_div_mul, pow_succ]
    have := ih (h + 1)
    rw [show h + 1 + n = h + (n + 1) by omega] at this
    rw [← this, e]
    congr 1
    rw [slhNode, ← e]
    congr 1
    split
    · congr 2 <;> omega
    · congr 2 <;> omega

/-- A path leads from a leaf to the root. -/
theorem slhClimb_path (seed : List Byte) (a : SlhAdrs) (leaf : Nat → List Byte) (n i : Nat) :
    slhClimb seed a 0 i (leaf i) (slhPath seed a leaf n i) = slhNode seed a leaf n (i / 2 ^ n) := by
  have := slhClimb_node seed a leaf i n 0
  rwa [pow_zero, Nat.div_one, Nat.zero_add, ← List.range_eq_range'] at this

theorem slhNode_length (seed : List Byte) (a : SlhAdrs) (leaf : Nat → List Byte) (hl : ∀ i, (leaf i).length = 16)
    (h i : Nat) : (slhNode seed a leaf h i).length = 16 := by
  cases h with
  | zero => exact hl i
  | succ h => exact slhHash_length ..

/-- The signature of one tree leads to its root. -/
theorem xmssRoot_xmssSign (k : SlhKey) (a : SlhAdrs) (i : Nat) (hi : i < 512) (m : List Byte) :
    xmssRoot k.seed a i (xmssSign k a i m) m = slhNode k.seed { a with kind := 2, word1 := 0 } (xmssLeaf k a) 9 0 := by
  have l := wotsSign_length k { a with word1 := i } m
  rw [xmssRoot, xmssSign, List.take_left' l, List.drop_left' l, wotsKey_wotsSign, slhClimb_path,
    Nat.div_eq_of_lt (show i < 2 ^ 9 from hi)]

theorem xmssSign_length (k : SlhKey) (a : SlhAdrs) (i : Nat) (m : List Byte) : (xmssSign k a i m).length = 44 := by
  simp [xmssSign, wotsSign_length, slhPath]

/-- The signature of the hypertree leads to the root of its topmost tree. -/
theorem hyperRoot_hyperSign (k : SlhKey) (n : Nat) : ∀ (layer tree leaf : Nat) (m : List Byte), leaf < 512 →
    hyperRoot k.seed (n + 1) layer tree leaf (hyperSign k (n + 1) layer tree leaf m) m =
      slhNode k.seed { layer := layer + n, tree := tree / 512 ^ n, kind := 2 }
        (xmssLeaf k { layer := layer + n, tree := tree / 512 ^ n }) 9 0 := by
  induction n with
  | zero =>
    intro layer tree leaf m h
    simp only [hyperRoot, hyperSign, List.append_nil]
    rw [List.take_of_length_le (by rw [xmssSign_length]), xmssRoot_xmssSign _ _ _ h]
    simp
  | succ n ih =>
    intro layer tree leaf m h
    have l := xmssSign_length k { layer := layer, tree := tree } leaf m
    rw [hyperRoot, hyperSign, List.take_left' l, List.drop_left' l, ih _ _ _ _ (Nat.mod_lt _ (by decide)),
      show layer + 1 + n = layer + (n + 1) by omega, Nat.div_div_eq_div_mul, pow_succ']

theorem slhNodes_flatten (l : List (List Byte)) (h : ∀ x ∈ l, x.length = 16) : slhNodes l.flatten = l := by
  have len (l : List (List Byte)) (h : ∀ x ∈ l, x.length = 16) : l.flatten.length = 16 * l.length := by
    induction l with
    | nil => rfl
    | cons x l ih =>
      rw [List.flatten_cons, List.length_append, h x (by simp), ih (fun y hy => h y (by simp [hy])), List.length_cons]
      omega
  induction l with
  | nil => rfl
  | cons x l ih =>
    have hx : x.length = 16 := h x (by simp)
    have hl : ∀ y ∈ l, y.length = 16 := fun y hy => h y (by simp [hy])
    rw [slhNodes, len _ h, List.length_cons, Nat.mul_div_cancel_left _ (by decide), List.range_succ_eq_map, List.map_cons,
      List.map_map, List.flatten_cons]
    congr 1
    · simp [List.take_left' hx]
    · refine Eq.trans ?_ (ih hl)
      rw [slhNodes, len _ hl, Nat.mul_div_cancel_left _ (by decide)]
      apply List.map_congr_left
      intro i _
      show ((x ++ l.flatten).drop (16 * (i + 1))).take 16 = _
      rw [show 16 * (i + 1) = x.length + 16 * i by omega, List.drop_length_add_append]

theorem slhPath_length (seed : List Byte) (a : SlhAdrs) (leaf : Nat → List Byte) (h i : Nat) :
    (slhPath seed a leaf h i).length = h := by simp [slhPath]

theorem slhPath_each (seed : List Byte) (a : SlhAdrs) (leaf : Nat → List Byte) (hl : ∀ i, (leaf i).length = 16)
    (h i : Nat) : ∀ x ∈ slhPath seed a leaf h i, x.length = 16 := by
  simp only [slhPath, List.mem_map]
  rintro x ⟨j, -, rfl⟩
  exact slhNode_length _ _ _ hl _ _

theorem hyperSign_each (k : SlhKey) (n : Nat) : ∀ (layer tree leaf : Nat) (m : List Byte),
    ∀ x ∈ hyperSign k n layer tree leaf m, x.length = 16 := by
  induction n with
  | zero => intro layer tree leaf m x hx; simp [hyperSign] at hx
  | succ n ih =>
    intro layer tree leaf m x hx
    rw [hyperSign, List.mem_append, xmssSign, List.mem_append] at hx
    obtain (hx | hx) | hx := hx
    · simp only [wotsSign, List.mem_map] at hx
      obtain ⟨p, -, rfl⟩ := hx
      exact slhChain_length _ _ _ _ _ (slhHash_length ..)
    · exact slhPath_each _ _ _ (fun _ => slhHash_length ..) _ _ x hx
    · exact ih _ _ _ _ x hx

theorem hyperSign_length (k : SlhKey) (n : Nat) : ∀ (layer tree leaf : Nat) (m : List Byte),
    (hyperSign k n layer tree leaf m).length = 44 * n := by
  induction n with
  | zero => intro layer tree leaf m; rfl
  | succ n ih => intro layer tree leaf m; rw [hyperSign, List.length_append, xmssSign_length, ih]; omega

theorem forsSign_each (k : SlhKey) (a : SlhAdrs) (md : List Byte) : ∀ x ∈ forsSign k a md, x.length = 16 := by
  simp only [forsSign, List.mem_flatMap, List.mem_cons]
  rintro x ⟨p, -, rfl | hx⟩
  · exact slhHash_length ..
  · exact slhPath_each _ _ _ (fun _ => slhHash_length ..) _ _ x hx

theorem forsSign_length (k : SlhKey) (a : SlhAdrs) (md : List Byte) : (forsSign k a md).length = 182 := by
  simp [forsSign, List.length_flatMap, slhPath_length, slhDigits_length]

/-- A signature is of 7,856 bytes. -/
theorem slhSign_length (k : SlhKey) (random msg : List Byte) : (slhSign k random msg).length = 7856 := by
  have len (l : List (List Byte)) (h : ∀ x ∈ l, x.length = 16) : l.flatten.length = 16 * l.length := by
    simp [List.length_flatten, List.map_congr_left h]
    omega
  rw [slhSign]
  simp only [List.length_append, List.length_take, hmac256, sha256_length]
  rw [len _ (by
    intro x hx
    exact (List.mem_append.mp hx).elim (forsSign_each _ _ _ x) (hyperSign_each _ _ _ _ _ _ x)),
    List.length_append, forsSign_length, hyperSign_length]
  rfl

/-- A signature of a message verifies under the public key (FIPS 205). -/
theorem slhVerify_slhSign (k : SlhKey) (hs : k.seed.length = 16) (random msg : List Byte) :
    slhVerify k.public msg (slhSign k random msg) = true := by
  have hl := slhSign_length k random msg
  have hr : ((hmac256 k.prf (random ++ [0#8, 0#8] ++ msg)).take 16).length = 16 := by simp [hmac256]
  rw [slhVerify, hl]
  rw [slhSign, List.take_left' hr, List.drop_left' hr]
  generalize (hmac256 k.prf (random ++ [0#8, 0#8] ++ msg)).take 16 = r
  have ht : (slhDigest k.public r msg).2.1 < 2 ^ 54 := Nat.mod_lt _ (by decide)
  have hf : (slhDigest k.public r msg).2.2 < 512 := Nat.mod_lt _ (by decide)
  generalize slhDigest k.public r msg = d at ht hf ⊢
  obtain ⟨md, tree, leaf⟩ := d
  dsimp only at ht hf ⊢
  have hk : k.public.take 16 = k.seed := List.take_left' hs
  have hq : k.public.drop 16 = slhNode k.seed { layer := 6, kind := 2 } (xmssLeaf k { layer := 6 }) 9 0 := List.drop_left' hs
  have hv := forsSign_length k { tree := tree, word1 := leaf } md
  rw [slhNodes_flatten _ (by
    intro x hx
    exact (List.mem_append.mp hx).elim (forsSign_each _ _ _ x) (hyperSign_each _ _ _ _ _ _ x)),
    List.take_left' hv, List.drop_left' hv, hk, hq, hyperRoot_hyperSign k 6 0 tree leaf _ hf,
    Nat.div_eq_of_lt (show tree < 512 ^ 6 by omega)]
  simp

end Sys2Proof.Machine
end

