-- ==== Sys2Proof/Laws/Vector.lean ====
section
/-! SUPPORT. Elements of a vector register: reading what was packed (spec/02_state.md R34, R6). -/

namespace Sys2Proof.Machine

theorem vpack_lt (w : Nat) (es : List Nat) : vpack w es < 2 ^ (w * es.length) := by
  induction es with
  | nil => simp [vpack]
  | cons e t ih =>
    have h1 : e % 2 ^ w < 2 ^ w := Nat.mod_lt _ (by positivity)
    have h2 : 2 ^ w * (vpack w t + 1) ≤ 2 ^ w * 2 ^ (w * t.length) := Nat.mul_le_mul_left _ ih
    simp only [vpack, List.length_cons, Nat.mul_add, Nat.mul_one]
    rw [Nat.pow_add, Nat.mul_comm (2 ^ (w * t.length))]
    rw [Nat.mul_add] at h2
    omega

theorem vpack_div_mod (w : Nat) (es : List Nat) (k : Nat) (hk : k < es.length) :
    vpack w es / 2 ^ (w * k) % 2 ^ w = es.getD k 0 % 2 ^ w := by
  induction es generalizing k with
  | nil => simp at hk
  | cons e t ih =>
    cases k with
    | zero => simp [vpack]
    | succ k =>
      have hp : 0 < 2 ^ w := by positivity
      simp only [vpack, List.getD_cons_succ]
      rw [Nat.mul_add, Nat.mul_one, Nat.add_comm (w * k), Nat.pow_add, ← Nat.div_div_eq_div_mul]
      rw [Nat.add_mul_div_left _ _ hp, Nat.div_eq_of_lt (Nat.mod_lt _ hp), Nat.zero_add]
      exact ih k (by simpa using hk)

/-- Element `k` of a register made from a list is the list's element `k`, in its width. -/
theorem velem_vof (w : Nat) (es : List Nat) (k : Nat) (hk : k < es.length) (hw : w * es.length ≤ 1024) :
    velem (vof w es) w k = es.getD k 0 % 2 ^ w := by
  have h : vpack w es % 2 ^ 1024 = vpack w es :=
    Nat.mod_eq_of_lt (lt_of_lt_of_le (vpack_lt w es) (Nat.pow_le_pow_right (by decide) hw))
  simp only [velem, vof, BitVec.toNat_ushiftRight, BitVec.toNat_ofNat, h, Nat.shiftRight_eq_div_pow]
  exact vpack_div_mod w es k hk

theorem velem_lt (x : VReg) (w k : Nat) : velem x w k < 2 ^ w := Nat.mod_lt _ (by positivity)

/-- A merge writes the results given and keeps the old elements elsewhere. -/
theorem velem_vmerge (old : VReg) (w : Nat) (rs : List (Option Nat)) (k : Nat) (hk : k < rs.length)
    (hw : w * rs.length ≤ 1024) :
    velem (vmerge old w rs) w k = ((rs.getD k none).getD (velem old w k)) % 2 ^ w := by
  unfold vmerge
  rw [velem_vof _ _ _ (by simpa using hk) (by simpa using hw)]
  congr 1
  simp [List.getD_eq_getElem?_getD, hk]

end Sys2Proof.Machine
end

