-- ==== Sys2Proof/Tests/Slice0.lean ====
section
/-! SUPPORT. Tests of the model: ill-formed instructions refused, words written out from the manual's encodings, single
instructions against the manual's rules, and a state that meets the hypotheses of each statement, clause by clause. Every
expected value comes from the manual's tables or is worked out from them by hand. -/

open Sys2Proof Sys2Proof.Machine

namespace Sys2Proof.Tests

set_option Elab.async false

/-! ### Helpers -/

/-- What `f` sees of the next state. -/
def after {α : Type} (f : State → α) (o : Out) : Option α :=
  match o with
  | .next s => some (f s)
  | _ => none

theorem next_of {α : Type} [DecidableEq α] {f : State → α} {o : Out} {x : α} (h : after f o = some x) : ∃ t, o = .next t ∧ f t = x := by
  cases o with
  | next s => exact ⟨s, rfl, by simpa [after] using h⟩
  | fault r => simp [after] at h
  | refused r => simp [after] at h

/-- An access is granted with what `p` asks. -/
def granted {α : Type} (p : α → Bool) (x : Acc α) : Bool :=
  match x with
  | .ok v => p v
  | _ => false

theorem ok_of_granted {α : Type} {p : α → Bool} {x : Acc α} (h : granted p x = true) : ∃ v, x = .ok v ∧ p v = true := by
  cases x with
  | ok v => exact ⟨v, rfl, h⟩
  | trap t => simp [granted] at h
  | lost a => simp [granted] at h

theorem decode_of {w : BitVec 32} {i : Instr} (h : (decode w).toOption = some i) : decode w = .ok i := by
  cases hd : decode w with
  | ok j => rw [hd] at h; simp [Except.toOption] at h; rw [h]
  | error e => rw [hd] at h; simp [Except.toOption] at h

/-- `Issues` as one Boolean, which the kernel evaluates at once. -/
def issuesB (i : Instr) (s : State) : Bool :=
  s.mayIssue && i.wf && (featuresOf i).all (fun b => s.myLaunch.feats.getLsbD b) &&
    (!(privilegedOf i || highCsr i) || s.myLaunch.priv) && classOk s (classOf i) && (regsUsed s i).all (regOk s) && comboOk i &&
    decide (check7 s i = .ok ())
theorem issues_of {i : Instr} {s : State} (h : issuesB i s = true) : Issues i s := by
  simp only [issuesB, Bool.and_eq_true, Bool.or_eq_true, Bool.not_eq_true', decide_eq_true_eq] at h
  obtain ⟨⟨⟨⟨⟨⟨⟨h1, h2⟩, h3⟩, h4⟩, h5⟩, h6⟩, h7⟩, h8⟩ := h
  exact ⟨h1, h2, h3, fun hp => h4.resolve_left (by simp [hp]), h5, h6, h7, h8⟩

/-- A privileged thread of tenant 1 in slot 0 of core 0, at local address 0, in a compute phase; page 0 is in frame 0,
which the core holds, and frames 1 and 2 are in reserve. -/
def base : State := { placeWord 0#32 State.reset with actor := { tid := 1, core := 0, slot := 0 } }
/-- The same in an exchange phase. -/
def baseX : State := { base with phase := 1#64 }

def regs (ws : List (BitVec 5 × Word)) (s : State) : State := ws.foldl (fun s w => s.setReg w.1 w.2) s
def slotWith (f : Slot → Slot) (s : State) : State := s.modSlot f
def thrWith (f : Thread → Thread) (s : State) : State := s.modThr f
def coreWith (f : TCore → TCore) (s : State) : State := s.modHere f
/-- Shadow register `n` holds the format and rounding mode `v`. -/
def sh (n : Nat) (v : Word) (s : State) : State := s.modSlot (fun x => { x with sh := x.sh.set n v })
/-- Tenant 1 changed both as it stands and as committed. -/
def both (f : TenantDev → TenantDev) (s : State) : State := modBoth 1 f s
/-- Bytes of frame 0 of core 0. -/
def bytesAt (a : Nat) (bs : List Byte) (s : State) : State := both (fun d => { d with vault := d.vault.writeBytes a bs }) s
/-- Words of the program at local address `a`. -/
def code (a : Nat) (ws : List (BitVec 32)) (s : State) : State := bytesAt a (ws.flatMap bytesOfWord) s
def tenantWith (f : Tenant → Tenant) (s : State) : State := s.modTenant 1 f
def launchWith (f : Launch → Launch) (s : State) : State := s.modLaunch 1 f

/-! ### Well-formedness: one ill-formed instruction for each check -/

theorem test_wf_flag_a : (Instr.add 1 4 0 0 0 1).wf = false := by decide
theorem test_wf_flag_b : (Instr.sub 1 0 4 0 1 0).wf = false := by decide
theorem test_wf_flag_d : (Instr.popc 4 0 1 0).wf = false := by decide
theorem test_wf_skip_count : (Instr.cskip 0 0 1 2).wf = false ∧ (Instr.cskipi 0 0 1 2).wf = false := by decide
theorem test_wf_fork_join : (Instr.fork 1 2 3 0).wf = false := by decide
theorem test_wf_load_size : (Instr.ld 1 2 7 0).wf = false ∧ (Instr.xhld 1 2 7).wf = false := by decide
theorem test_wf_compare : (Instr.vcmp 1 2 3 0 6).wf = false := by decide
theorem test_wf_vrng : (Instr.vrng 1 3 0).wf = false := by decide
theorem test_wf_matrix_types : (Instr.mma 0 1 2 7 0 0).wf = false ∧ (Instr.mmat 0 1 2 0 7 0).wf = false ∧
    (Instr.mconv 0 1 2 7 7 1).wf = false := by decide
theorem test_wf_expiry : (Instr.semwait 1 2 3 21).wf = false ∧ (Instr.ringwait 1 2 3 21).wf = false ∧
    (Instr.ringrsv 1 2 3 21).wf = false ∧ (Instr.mbxrecv 1 2 3 21).wf = false := by decide
theorem test_wf_qfence : (Instr.qfence 0).wf = false := by decide
theorem test_wf_xred : (Instr.xred 1 2 3 6).wf = false := by decide
theorem test_wf_rupd : (Instr.rupd 1 2 3 0 7).wf = false ∧ (Instr.rupd 1 2 3 1 6).wf = false := by decide
theorem test_wf_squery : (Instr.squery 1 2 16).wf = false := by decide
theorem test_wf_accepts : (Instr.add 3 31 31 1 0 0).wf = true ∧ (Instr.semwait 1 2 3 20).wf = true ∧
    (Instr.squery 1 2 15).wf = true ∧ (Instr.rupd 1 2 3 0 6).wf = true := by decide

/-! ### Words written out from the encodings of Tables 3.2 to 3.5, and words of the manual's examples -/

def reads (w : BitVec 32) (i : Instr) : Bool := (decode w).toOption == some i

/-- Major, d, a, b, funct: R format (Table 3.2). -/
theorem test_decode_alu : reads 0b00000100011000100000100000000000#32 (.add 3 2 1 0 0 0) = true := by decide
theorem test_decode_immediate : reads 0x08613456#32 (.addi 3 1 0x3456) = true := by decide
theorem test_decode_li : reads 0x1C20000C#32 (.li 1 12) = true := by decide
theorem test_decode_skip : reads 0x2943000A#32 (.cskipi 2 2 3 10) = true := by decide
theorem test_decode_rep : reads 0x40608021#32 (.rep 0 1 1 2 2 1) = true := by decide
theorem test_decode_load : reads 0x49076000#32 (.ld 8 7 3 0) = true := by decide
theorem test_decode_store : reads 0x4CC56000#32 (.st 6 5 3 0) = true := by decide
theorem test_decode_vector : reads 0x60000029#32 (.vsub 0 0 1 1) = true := by decide
theorem test_decode_compare : reads 0x68082064#32 (.vcmp 1 2 3 0 4) = true := by decide
theorem test_decode_permute : reads 0x7000000E#32 (.viota 0 0 1) = true := by decide
theorem test_decode_reduce : reads 0x70284000#32 (.vrsum 5 4 0) = true := by decide
theorem test_decode_float : reads 0x74202042#32 (.vfmul 4 2 2 0) = true := by decide
theorem test_decode_convert : reads 0x80100020#32 (.vcvt 2 0 0 1 0) = true := by decide
theorem test_decode_move : reads 0x84004006#32 (.shwr 0 1) = true := by decide
theorem test_decode_mask : reads 0x88001005#32 (.amsel 1) = true := by decide
theorem test_decode_semaphore : reads 0x9C020B00#32 (.semwait 0 2 1 12) = true := by decide
theorem test_decode_ring : reads 0xA0A30A81#32 (.ringrsv 5 3 1 10) = true := by decide
theorem test_decode_transfer : reads 0xAC221903#32 (.xmcast 1 2 3 4) = true := by decide
theorem test_decode_barrier : reads 0xBD480002#32 (.xbar 10 8) = true := by decide
theorem test_decode_prefix : reads 0xFC013C40#32 (.pfx 0x13C40) = true := by decide
/-- A reserved major, a reserved funct and a reserved field are no instruction. -/
theorem test_decode_refuses : (decode 0x00000000#32).toOption = none ∧ (decode 0xF0000000#32).toOption = none ∧
    (decode 0xFBFFFFFF#32).toOption = none ∧ (decode 0xBC000002#32).toOption ≠ some .sync := by decide
/-- One instruction of every other family, through its own word and back. -/
theorem test_round_trip : ∀ i ∈ [Instr.andi 1 2 3, .br 5, .jal 0x3FFFFFF, .jalr 1 2 0xFFFF, .bnz 3 4, .fork 1 2 3 1, .join 2, .quit,
    .yield 31, .amocas 1 2 3 1, .vldsh 127 2 3, .vstsh 5 6 7, .vqmx 1 8 3 0, .vunord 1 2 3, .vmandn 1 2 3, .rng 4,
    .mma 7 1 2 5 5 0, .mmat 1 2 3 6 6 0, .mconv 0 1 2 1 0 1, .mwait, .fence, .qfence 3, .cpysh 1 2 3 4, .xdeal 1 2 3 4,
    .xlrecv 1 2 3 4, .xend, .rupd 1 2 3 0 6, .mbxrecv 1 2 3 20, .tqpush 1 2 3 4, .tqdec 1 2, .sfork 1 2 3 4, .ssel 1 2, .smigrate 1 2 3 4,
    .squery 1 2 15, .selget 1 2 3, .umstateMask 1 2 3, .umcommit 1 2 3, .csrclr 1 0xFFF, .eret, .idle 3, .halt 31,
    .capgive 1 2 3, .digest 9, .quotasetPoolAdd 1 2, .keyselImport 1 2, .modesetUnregister 1 2], reads (encode i) i = true := by
  decide +kernel

/-! ### Single instructions -/

theorem test_add_wraps : after (fun t => t.reg 1) (exec (.add 1 2 3 0 0 0) (regs [(2, 0xFFFFFFFFFFFFFFFF#64), (3, 2#64)] base)) =
    some 1#64 := by decide +kernel
theorem test_g0_discards : after (fun t => (t.reg 0, t.thr.pc)) (exec (.addi 0 0 5) base) = some (0#64, 4#20) := by decide +kernel
theorem test_sra_sign : after (fun t => t.reg 1) (exec (.srai 1 2 4) (regs [(2, 0x8000000000000000#64)] base)) =
    some 0xF800000000000000#64 := by decide +kernel
theorem test_div_zero : after (fun t => t.reg 1) (exec (.div 1 2 3 0 0 0) (regs [(2, 7#64)] base)) =
    some 0xFFFFFFFFFFFFFFFF#64 := by decide +kernel
theorem test_queue_order : after (fun t => (t.reg 1, t.queue 2)) (exec (.sub 1 2 2 0 1 1)
    (coreWith (fun k => { k with queues := k.queues.set 2 [9#64, 4#64, 1#64] }) base)) = some (5#64, [1#64]) := by decide +kernel
theorem test_jalr_reads_first : after (fun t => (t.reg 1, t.thr.pc)) (exec (.jalr 1 1 8) (regs [(1, 0x100#64)] base)) =
    some (4#64, 0x108#20) := by decide +kernel
theorem test_skip_over_prefix : after (fun t => t.thr.pc) (exec (.cskip 0 1 2 3) (code 4 [0xFC000001#32, 0x08613456#32] base)) =
    some 0xC#20 := by decide +kernel
theorem test_load_sign : after (fun t => t.reg 1) (exec (.ld 1 2 0 0) (bytesAt 0x81 [0x80#8] (regs [(2, 0x81#64)] base))) =
    some 0xFFFFFFFFFFFFFF80#64 := by decide +kernel
theorem test_store_bytes : after (fun t => (t.dev 1).vault.readBytes 0x0FF 4) (exec (.st 1 2 1 0)
    (regs [(1, 0xAABBCCDD#64), (2, 0x100#64)] base)) = some [0#8, 0xDD#8, 0xCC#8, 0#8] := by decide +kernel
theorem test_amocas_differs : after (fun t => (t.reg 1, (t.dev 1).vault.readBytes 0x100 1)) (exec (.amocas 1 2 3 1)
    (bytesAt 0x100 [7#8] (regs [(1, 6#64), (2, 0x100#64), (3, 9#64)] base))) = some (7#64, [7#8]) := by decide +kernel
theorem test_vadds_clamps : after (fun t => (velem (t.vreg 1) 8 0, t.slotHere.flags)) (exec (.vadds 1 2 3 0)
    (((sh 0 0#64 base).setVreg 2 0x7F#1024).setVreg 3 1#1024)) = some (0x7F, 0x20#64) := by decide +kernel
theorem test_float_one_plus_one : after (fun t => velem (t.vreg 1) 32 0) (exec (.vfadd 1 2 2 0)
    ((sh 0 12#64 base).setVreg 2 0x3F800000#1024)) = some 0x40000000 := by decide +kernel
theorem test_semsig_saturates : after (fun t => (t.sem 2, t.reg 3)) (exec (.semsig 1 2 1 3)
    ((regs [(1, 0#64)] base).setSem 2 0xFFFFFFFF#32)) = some (0xFFFFFFFF#32, 0xFFFFFFFF#64) := by decide +kernel
theorem test_trap_entry : after (fun t => (t.slotHere.cause, t.slotHere.trappc, t.slotHere.trapval, t.slotHere.h, t.thr.pc))
    (exec (.ld 1 2 3 0) (slotWith (fun x => { x with trapvec := 0x200#64 }) (regs [(2, 0x81#64)] base))) =
    some (5#64, 0#64, 0x81#64, true, 0x200#20) := by decide +kernel
theorem test_trap_code : after (fun t => (t.slotHere.cause, t.slotHere.trappc, t.slotHere.trapval, t.slotHere.trapaux))
    (exec (.trap 3 0x123) (slotWith (fun x => { x with trapvec := 0x200#64 }) (regs [(3, 77#64)] base))) =
    some (0x18#64, 4#64, 0x123#64, 77#64) := by decide +kernel
theorem test_eret : after (fun t => (t.slotHere.h, t.thr.pc)) (exec .eret
    (slotWith (fun x => { x with h := true, trappc := 0x40#64, trapvec := 0x200#64 }) base)) = some (false, 0x40#20) := by
  decide +kernel
/-- A word placed for the next step is fetched and run (R55). -/
theorem test_step_runs : after (fun t => t.reg 1) (exec (.li 1 12) { (State.reset.withFetchWord 32 0x1C20000C) with
      actor := { tid := 1, core := 0, slot := 0 } }) =
    match step (State.reset.withFetchWord 32 0x1C20000C) with
    | .next t => some ((t.coreOf 1 0).slot 0 |>.thread.reg 1)
    | _ => none := by decide +kernel
theorem test_reset_canonical : State.reset.memWf = true := by decide

/-! ### Witnesses: a state that meets the hypotheses of each statement, clause by clause -/

/-- Slot 0 of core 0 of tenant 1. -/
def here : Party := { tid := 1, core := 0, slot := 0 }

theorem witness_EncodeDecode : (Instr.vcmp 7 127 127 3 5).hasWord = true ∧ (Instr.vcmp 7 127 127 3 5).wf = true := by decide
theorem witness_WordDetermined : decode 0x1C20000C#32 = .ok (.li 1 12) := decode_of (by decide)

/-- A thread whose PC lies in a page that no frame serves. -/
def lostPc : State := thrWith (fun th => { th with pc := 0x1000#20 }) base
theorem witness_IllegalWords : (0xFBFFFFFF#32).extractLsb' 26 6 ∈ ([0x00, 0x3C, 0x3D, 0x3E] : List (BitVec 6)) ∧
    base.mayIssue = true ∧ lostPc.mayIssue = true ∧
    fetchFrom lostPc lostPc.actor.tid lostPc.actor.core lostPc.thr.pc = none := by decide +kernel

/-- The state in which slot 0 has its turn, and the words it meets there. -/
def turn (s0 : State) : State :=
  { tickTock { s0 with agenda := [] } with rot := s0.rot.set 0 { s0.rot.get 0 {} with turn := (s0.rot.get 0 {}).turn + 1 }, actor := here }
def plainTurn : State := placeWord 0x1C20000C#32 State.reset
def prefixTurn : State := { thrWith (fun th => { th with pfx := some 1#26, pfxWord := 0x1C20000C#32 })
  { placeWord 0#32 State.reset with actor := here } with agenda := [.turn 0] }
def lastReplay : RepFrame := { base := 0#20, len := 1, cnt := 2, st := 1, fd := true, fa := false, fb := false, k := 1, i := 0 }
def frameTurn : State := { thrWith (fun th => { th with frame := some lastReplay })
  { placeWord 0x602001C0#32 State.reset with actor := here } with agenda := [.turn 0] }
/-- Core 0's next turn is slot 0's, and its thread is ready. -/
def turnDue (s0 : State) : Bool :=
  let ct := s0.rot.get 0 {}
  decide (forcedMove s0 = none) && decide (s0.agenda = [.turn 0]) && decide (ct.turn % slotCount (turn s0) 0 = 0) &&
    decide (slotHolder (turn s0) 0 0 = some 1) && (turn s0).thr.live && decide ((turn s0).thr.status = .ready) &&
    (match readiness ct ct.turn (turn s0) with | .yes => true | _ => false)
theorem witness_StepRunsDecoded_plain : turnDue plainTurn = true ∧ (decode 0x1C20000C#32).toOption = some (.li 1 12) ∧
    (turn plainTurn).thr.pfx = none ∧ fetchHere (turn plainTurn) (turn plainTurn).thr.pc = .ok 0x1C20000C#32 ∧
    (turn plainTurn).thr.frame = none := by decide +kernel
theorem witness_StepRunsDecoded_prefix : turnDue prefixTurn = true ∧ (turn prefixTurn).thr.pfx.isSome = true ∧
    (turn prefixTurn).thr.pfxWord = 0x1C20000C#32 ∧ (turn prefixTurn).thr.frame = none := by decide +kernel
theorem witness_StepRunsDecoded_frame : turnDue frameTurn = true ∧ (turn frameTurn).thr.pfx = none ∧
    fetchHere (turn frameTurn) (turn frameTurn).thr.pc = .ok 0x602001C0#32 ∧
    (decode 0x602001C0#32).toOption = some (.vadd 4 0 14 0) ∧
    (match (turn frameTurn).thr.frame with
      | some f => staggered f f.k (.vadd 4 0 14 0)
      | none => none) = some (.vadd 5 0 14 0) := by decide +kernel
/-- A pop of an empty queue keeps its instruction from issuing, and the turn of a deterministic slot is empty. -/
def stallTurn : State := launchWith (fun l => { l with det := true }) (placeWord (encode (.add 1 0 2 0 1 0)) State.reset)
theorem witness_StepRunsDecoded_stall : turnDue stallTurn = true ∧ mayStall (.add 1 0 2 0 1 0) = true ∧
    slotDet (turn stallTurn) here = true ∧
    after (fun t => decide ((t.slotOf here).top = (turn stallTurn).thr)) (exec (.add 1 0 2 0 1 0) (turn stallTurn)) = some true := by
  decide +kernel

theorem witness_StepKeepsCanonical : (placeWord 0x1C20000C#32 State.reset).memWf = true ∧
    ∃ t, step (placeWord 0x1C20000C#32 State.reset) = .next t ∧ t.phase = 0#64 :=
  ⟨by decide +kernel, next_of (by decide +kernel)⟩

/-- IssueOrder: each check in turn is the first to fail. -/
theorem witness_IssueOrder_fields : base.mayIssue = true ∧ (Instr.cskip 0 0 1 2).hasWord = true ∧
    (Instr.cskip 0 0 1 2).wf = false := by decide +kernel
theorem witness_IssueOrder_features : let s := launchWith (fun l => { l with feats := 1#32 }) base
    s.mayIssue = true ∧ ∃ b ∈ featuresOf (.rng 1), s.myLaunch.feats.getLsbD b = false := by decide +kernel
theorem witness_IssueOrder_privilege : let s := launchWith (fun l => { l with priv := false }) base
    s.mayIssue = true ∧ (∀ b ∈ featuresOf (.halt 1), s.myLaunch.feats.getLsbD b = true) ∧ s.myLaunch.priv = false ∧
      (privilegedOf (.halt 1) || highCsr (.halt 1)) = true ∧ (privilegedOf (.csrr 1 0x100) || highCsr (.csrr 1 0x100)) = true ∧
      (privilegedOf (.csrr 1 0x0FF) || highCsr (.csrr 1 0x0FF)) = false := by decide +kernel
theorem witness_IssueOrder_phase : base.mayIssue = true ∧ classOk base (classOf (.xput 1 2 3)) = false ∧
    classOk baseX (classOf .sync) = false ∧ (∀ b ∈ featuresOf (.xput 1 2 3), base.myLaunch.feats.getLsbD b = true) := by
  decide +kernel
theorem witness_IssueOrder_register : let s := coreWith (fun k => { k with share := { k.share with sem := 0x7FFFFFFF#32 } }) base
    s.mayIssue = true ∧ classOk s (classOf (.semset 1 31 0 2)) = true ∧
      ∃ r ∈ regsUsed s (.semset 1 31 0 2), regOk s r = false := by decide +kernel
theorem witness_IssueOrder_types : base.mayIssue = true ∧ classOk base (classOf (.mma 0 1 2 0 2 0)) = true ∧
    (∀ r ∈ regsUsed base (.mma 0 1 2 0 2 0), regOk base r = true) ∧ comboOk (.mma 0 1 2 0 2 0) = false := by decide +kernel
theorem witness_IssueOrder_record : let s := sh 0 12#64 base
    s.mayIssue = true ∧ classOk s (classOf (.vadd 1 2 3 0)) = true ∧ comboOk (.vadd 1 2 3 0) = true ∧
      (∀ r ∈ regsUsed s (.vadd 1 2 3 0), regOk s r = true) ∧ check7 s (.vadd 1 2 3 0) = .trap (illegalAt7 s (.vadd 1 2 3 0)) := by
  decide +kernel

theorem witness_TrapEntry_taken : let s := slotWith (fun x => { x with trapvec := 4#64 }) base
    s.thr.level = 0 ∧ s.slotHere.handlers = [] ∧ s.slotHere.h = false ∧ s.slotHere.trapvec.extractLsb' 0 20 ≠ 0#20 := by
  decide +kernel
theorem witness_TrapEntry_ends : (base.launches.find base.thr.launch).isSome = true ∧
    base.slotHere.handlers = [] ∧ base.thr.level = 0 ∧ base.slotHere.trapvec.extractLsb' 0 20 = 0#20 ∧
    (let s := slotWith (fun x => { x with h := true, trapvec := 4#64 }) base
     (s.launches.find s.thr.launch).isSome = true ∧ s.slotHere.handlers = [] ∧ s.thr.level = 0 ∧ s.slotHere.h = true) ∧
    (let s := slotWith (fun x => { x with handlers := [{ live := true, level := 3, launch := 1 }] }) base
     (s.launches.find s.thr.launch).isSome = true ∧ (s.tenant s.actor.tid).trapped = [] ∧
       s.slotHere.handlers = [{ live := true, level := 3, launch := 1 }]) := by decide +kernel

def handling (pc : Word) : State := slotWith (fun x => { x with h := true, trappc := pc, trapvec := 4#64 }) base
theorem witness_EretReturns : Issues .eret (handling 0xFFFFC#64) ∧ (handling 0xFFFFC#64).thr.level = 0 ∧
    (handling 0xFFFFC#64).slotHere.handlers = [] ∧ ((handling 0xFFFFC#64).tenant 1).trapped = [] ∧
    (handling 0xFFFFC#64).slotHere.h = true ∧ (handling 0xFFFFC#64).slotHere.trappc.extractLsb' 0 2 = 0#2 ∧
    (handling 0xFFFFC#64).slotHere.trapaux.getLsbD 60 = false ∧ Issues .eret base ∧ base.slotHere.h = false ∧
    Issues .eret (handling 3#64) ∧ (handling 3#64).slotHere.trappc.extractLsb' 0 2 ≠ 0#2 := by decide +kernel

theorem witness_ZeroRegisters : base.mayIssue = true ∧ (Instr.vcmp 0 1 2 0 0).wf = true ∧
    (∀ b ∈ featuresOf (.vcmp 0 1 2 0 0), base.myLaunch.feats.getLsbD b = true) ∧
    classOk base (classOf (.vcmp 0 1 2 0 0)) = true ∧ base.slotHere.amask = 0#3 := by decide +kernel

theorem witness_ScalarResults : (∀ op ∈ twoSource ++ oneSource, Issues (op.1 31 1 2 0 0 0) base) ∧
    (∀ i ∈ [Instr.addi 1 2 0x8000, .andi 1 2 3, .ori 1 2 3, .xori 1 2 3, .slli 1 2 63, .srli 1 2 0, .srai 1 2 63, .rori 1 2 63,
      .li 1 0x8000, .lih 1 2 0xFFFF], Issues i base) := by decide +kernel
theorem witness_DivisionCorners : base.reg 3 = 0#64 ∧ Issues (.div 1 2 3 0 0 0) base ∧ Issues (.divu 1 2 3 0 0 0) base ∧
    Issues (.rem 1 2 3 0 0 0) base ∧
    (let s := regs [(2, BitVec.ofInt 64 (-2 ^ 63)), (3, BitVec.ofInt 64 (-1))] base
     s.reg 2 = BitVec.ofInt 64 (-2 ^ 63) ∧ s.reg 3 = BitVec.ofInt 64 (-1) ∧ Issues (.div 1 2 3 0 0 0) s ∧
       Issues (.rem 1 2 3 0 0 0) s) := by decide +kernel
/-- One queue holds two entries for both sources; the destination's holds fifteen. -/
def queued : State := coreWith (fun k => { k with queues := [(2, [5#64, 6#64]), (3, List.replicate 15 1#64)] }) base
theorem witness_QueueOperands : (∀ op ∈ twoSource, Issues (op.1 3 2 2 1 1 1) queued) ∧
    (∀ op ∈ oneSource, Issues (op.1 3 2 0 1 0 1) queued) ∧ (queued.queue 2).length = 2 ∧ (queued.queue 3).length < 16 ∧
    Issues (.add 3 1 1 1 1 1) queued ∧ (queued.queue 1).length < 2 := by decide +kernel

def target (v : Word) : State := regs [(2, v)] base
theorem witness_BranchesAndSkips_branches : (∀ i ∈ [Instr.br 0x3FFFFFF, .jal 2, .bz 1 0x8000, .bnz 1 0x7FFF, .jalr 1 2 0],
      Issues i (target 0xFFFFC#64)) ∧
    (((target 0xFFFFC#64).reg 2 + 0#64).setWidth 20 : LAddr).extractLsb' 0 2 = 0#2 ∧ Issues (.jalr 1 2 0) (target 2#64) ∧
    (((target 2#64).reg 2 + 0#64).setWidth 20 : LAddr).extractLsb' 0 2 ≠ 0#2 := by decide +kernel
def skips : State := code 4 [0xFC000001#32, 0x08613456#32, 0x1C20000C#32] base
theorem witness_BranchesAndSkips_skips : Issues (.cskip 1 3 0 0) skips ∧ Issues (.cskip 0 3 0 0) skips ∧
    Issues (.cskipi 0 2 0 0) skips ∧ skips.reg 0 = skips.reg 0 ∧ fetchHere skips 4#20 = .ok 0xFC000001#32 ∧
    (0xFC000001#32).extractLsb' 26 6 = 0x3F#6 ∧ fetchHere skips 12#20 = .ok 0x1C20000C#32 ∧
    (0x1C20000C#32).extractLsb' 26 6 ≠ 0x3F#6 ∧ fetchHere skips 16#20 = .ok 0#32 := by decide +kernel
/-- At the last word of the page the skipped word does not translate. -/
theorem witness_BranchesAndSkips_unmapped : let s := thrWith (fun th => { th with pc := 0xFFC#20 }) base
    Issues (.cskip 0 1 0 0) s ∧ fetchHere s 0x1000#20 = .trap (unmapped 0x1000#20) := by decide +kernel

theorem witness_RepeatAndPrefix : base.mayIssue = true ∧ fetchHere (code 4 [0x08613456#32] base) 4#20 = .ok 0x08613456#32 ∧
    (decode 0x08613456#32).toOption = some (.addi 3 1 0x3456) ∧ takesPrefix 1 (.addi 3 1 0x3456) = true ∧
    takesPrefix 1 (.slli 3 1 5) = false ∧ takesPrefix 0x3FF0000 (.lih 3 1 5) = false ∧
    Issues (.rep 0 0 1 1 255 0) (code 4 [0x602001C0#32] base) ∧
    granted (fun _ => true) (checkFrame (code 4 [0x602001C0#32] base)
      { base := 4#20, len := 1, cnt := 2, st := 1, fd := true, fa := false, fb := false, k := 0, i := 0 } 4#20 1) = true ∧
    Issues (.rep 0 0 1 1 1 0) base ∧ granted (fun _ => true) (checkFrame base
      { base := 4#20, len := 1, cnt := 2, st := 1, fd := true, fa := false, fb := false, k := 0, i := 0 } 4#20 1) = false := by
  decide +kernel

theorem witness_ThreadOps_fork : Issues (.fork 1 2 3 1) (target 2#64) ∧ ((target 2#64).reg 2).extractLsb' 0 2 ≠ 0#2 ∧
    (∀ j, Issues (.fork 1 2 (if j = 0#1 then 0 else 3) j) (target 0x40#64)) ∧ ((target 0x40#64).reg 2).extractLsb' 0 2 = 0#2 ∧
    (target 0x40#64).here.deque.length < (target 0x40#64).here.share.deq ∧ (target 0x40#64).sem 3 ≠ BitVec.allOnes 32 ∧
    ((target 0x40#64).setSem 3 (BitVec.allOnes 32)).sem 3 = BitVec.allOnes 32 ∧
    Issues (.fork 1 2 3 1) ((target 0x40#64).setSem 3 (BitVec.allOnes 32)) ∧
    (let s := coreWith (fun k => { k with share := { k.share with deq := 0 } }) (target 0x40#64)
     Issues (.fork 1 2 3 1) s ∧ s.here.share.deq ≤ s.here.deque.length) := by decide +kernel
/-- A copy of the thread is queued. -/
def aCopy : CopyOp :=
  { id := 0, order := 0, slot := 0, level := 0, instr := .cpy 1 2 3, d := 0#64, a := 0#64, b := 0#64, c := 0#64, recs := [], resume := false }
def copying : State := coreWith (fun k => { k with cq := [aCopy] }) base
theorem witness_ThreadOps_others : Issues (.join 2) base ∧ base.sem 2 = 0#32 ∧ Issues (.join 2) (base.setSem 2 1#32) ∧
    (base.setSem 2 1#32).sem 2 ≠ 0#32 ∧ Issues .quit base ∧ (base.tenant base.actor.tid).trapped = [] ∧
    Issues (.yield 0) base ∧ Issues (.yield 31) base := by decide +kernel
theorem witness_ThreadOps_quit : base.here.xq.isEmpty = true ∧ base.here.mq.isEmpty = true ∧ base.here.cq.isEmpty = true ∧
    base.here.links.isEmpty = true ∧ Issues .quit copying ∧
    copying.here.cq.any (fun x => x.slot == copying.actor.slot) = true := by decide +kernel

/-! #### Local memory -/

theorem witness_LocalLoads_places : 0x7C ≤ (0x7C000#20).toNat / 4096 ∧ (0x7FFFF#20).toNat / 4096 < 0x80 ∧
    xlate base 1 0 base.thr 0x7FFFF#20 = some (.control 16383) ∧ xlate base 1 0 base.thr 0xFFF#20 = some (.vault 0 4095) ∧
    xlate base 1 0 base.thr 0x1000#20 = none ∧ (0xFF000#20).toNat / 4096 = 0xFF ∧ base.thr.stream.getLsbD 31 = false ∧
    place base 0x1000#20 = .trap (unmapped 0x1000#20) := by decide +kernel
theorem witness_LocalLoads_load : (∀ sz ∈ [0, 1, 2, 3, 4, 5, 6], Issues (.ld 1 2 sz 0) (target 0xFF8#64)) ∧
    place (target 0xFF8#64) 0xFF8#20 = .ok (.vault 0 0xFF8) ∧ (0xFF8#20).toNat % 8 = 0 ∧ Issues (.ld 1 2 3 0) (target 0xFFC#64) ∧
    (0xFFC#20).toNat % 8 ≠ 0 ∧ Issues (.ld 1 2 0 0) (target 0x1000#64) ∧
    place (target 0x1000#64) 0x1000#20 = .trap (unmapped 0x1000#20) ∧
    (let s := { target 0xFF8#64 with lostFrames := [(0, 0)] }
     Issues (.ld 1 2 3 0) s ∧ place s 0xFF8#20 = .lost 0xFF8#64) := by decide +kernel

/-- Frame 0 with another entry. -/
def frame0 (e : Word) (s : State) : State := coreWith (fun k => k.setFrame 0 e) s
theorem witness_StoreChecks_refused : (0xFFC#20).toNat % 8 ≠ 0 ∧ xlate base 1 0 base.thr 0x1000#20 = none ∧
    xlate base 1 0 base.thr 0x7C000#20 = some (.control 0) ∧ xlate base 1 0 base.thr 0xFF8#20 = some (.vault 0 0xFF8) ∧
    (0, 0) ∉ base.lostFrames ∧
    ((frame0 (mkFm 0 true true false false false 1 0 true 1) base).here.frame 0).getLsbD 9 = false ∧
    ((frame0 (mkFm 0 true true true false false 1 0 false 1) base).here.frame 0).getLsbD 30 = false ∧
    (((frame0 (mkFm 0 true true true false false 1 3071 true 1) base).here.frame 0).extractLsb' 18 12).toNat ≠ 0 ∧
    (base.here.frame 0).getLsbD 9 = true ∧ (base.here.frame 0).getLsbD 30 = true ∧
    ((base.here.frame 0).extractLsb' 18 12).toNat = 0 := by decide +kernel
/-- A live stream 5 of one table that has spent its quota of one frame, selected by a thread of a packet. -/
def spent : State := thrWith (fun th => { th with stream := 0x80000005#64 }) (frame0 (mkFm 0 true true true true false 1 0 true 2)
  (both (fun d => { d with streams := [(5, { state := 1#2, vquota := 1#16, vused := 1#16 })] }) base))
theorem witness_StoreChecks_quota : chargeTo spent 1 spent.thr = some 5 ∧
    quotaOf spent 5 false ((spent.old 1).streams.get 5 {}).vquota.toNat ≤
      ((spent.old 1).streams.get 5 {}).vused.toNat + spent.here.charged.get 5 0 ∧ (spent.here.frame 0).getLsbD 10 = true ∧
    1 < ((spent.here.frame 0).extractLsb' 32 16).toNat ∧ granted (fun _ => true) (prepareStore spent 0xFF8#20 8) = false := by
  decide +kernel
theorem witness_StoreChecks_granted : (base.here.allow = 2 ∧ base.here.used + 1 ≤ base.here.allow ∧ reserveOf base 1 0 ≠ []) ∧
    (let s := coreWith (fun k => { k with allow := 0 }) base
     s.here.allow < s.here.used + 1) ∧
    (let s := coreWith (fun k => { k with shadows := [(0, 1)] }) base
     (s.here.shadows.find 0).isSome = true ∧ granted (fun v => v.2.1 == 0) (prepareStore s 0xFF8#20 8) = true) ∧
    (let s := frame0 (mkFm 0 true true true true false 1 0 true 2) base
     (s.here.frame 0).getLsbD 10 = true ∧ 1 < ((s.here.frame 0).extractLsb' 32 16).toNat ∧
       granted (fun _ => true) (prepareStore s 0xFF8#20 8) = true) := by decide +kernel

/-- The operand registers of a store to the last word of page 0. -/
def storing : State := regs [(1, 0x1122334455667788#64), (2, 0xFF8#64), (3, 9#64)] base
theorem witness_StoresAndAtomics_put : (storing.dev 1).vault.wf = true ∧ (storing.here.frame 0).getLsbD 30 = true ∧
    ((storing.here.frame 0).extractLsb' 18 12).toNat = storing.actor.core ∧
    readHere (putHere storing 0xFF8#20 0 0xFF8 [1#8, 2#8]) (.vault 0 0xFF8) 2 = [1#8, 2#8] := by decide +kernel
theorem witness_StoresAndAtomics : (∀ sz ∈ [0, 1, 2, 3], Issues (.st 1 2 sz 0) storing) ∧
    granted (fun v => v.2.1 == 0 && v.2.2 == 0xFF8) (prepareStore storing 0xFF8#20 8) = true ∧
    (∀ i ∈ [Instr.amoadd 1 2 3 0, .amoswap 1 2 3 1, .amoand 1 2 3 0, .amoor 1 2 3 1, .amoxor 1 2 3 0, .amomin 1 2 3 1,
      .amomax 1 2 3 0, .amocas 1 2 3 1, .amocas 1 2 3 0], Issues i storing) ∧
    storeCheck storing 0xFF8#20 8 = .ok (0, 0xFF8) ∧ prepareStore storing 0xFF9#20 8 = .trap
      { cause := .misaligned, val := 0xFF9#64 } ∧
    leNat (readHere storing (.vault 0 0xFF8) 8) = 0 ∧ storing.reg 1 ≠ 0#64 ∧
    (let s := bytesAt 0xFF8 (natLe 8 0x1122334455667788) storing
     leNat (readHere s (.vault 0 0xFF8) 8) = (s.reg 1).toNat) := by decide +kernel
theorem witness_StoreFrame : Issues (.st 1 2 3 0) storing ∧ effAddr storing 2 0 = 0xFF8#20 ∧
    (∃ x, prepareStore storing 0xFF8#20 8 = .ok x ∧ (x.2.1 == 0 && x.2.2 == 0xFF8) = true) ∧
    (∃ t, exec (.st 1 2 3 0) storing = .next t ∧ t.thr.pc = 4#20) ∧ Issues (.amoadd 1 2 3 0) storing ∧
    (∃ t, exec (.amoadd 1 2 3 0) storing = .next t ∧ t.reg 1 = 0#64) :=
  ⟨by decide +kernel, by decide +kernel, ok_of_granted (by decide +kernel), next_of (by decide +kernel), by decide +kernel,
    next_of (by decide +kernel)⟩


/-! #### Vectors -/

/-- Formats 12 (f32), 0 (i8) and 13 (mx4) in sh0 to sh2, v1 and v2 with values. -/
def vec : State := ((sh 2 13#64 (sh 1 0#64 (sh 0 12#64 (regs [(1, 0x100#64), (2, 4#64)] base)))).setVreg 1 0x3F800000#1024).setVreg 2 1#1024
/-- A shape record (Table 2.11) of one dimension of `n` elements of format `f` with base `b` and stride `st`. -/
def shapeBytes (f n st b pad : Nat) : List Byte :=
  natLe 32 (n + st * 2 ^ 64 + f * 2 ^ 128 + pad * 2 ^ 192 + b * 2 ^ 224)
/-- Records at 0x200 (32 elements f32) and 0x220 (64 elements mx4, its scales at 0x400). -/
def shaped : State := bytesAt 0x200 (shapeBytes 12 32 4 0x300 0) (bytesAt 0x220 (shapeBytes 13 64 0 0x300 (0x400 * 2 ^ 12))
  (regs [(1, 0x200#64), (2, 0x220#64), (3, 32#64), (4, 33#64)] vec))

theorem witness_VectorLoads : (∀ i ∈ [Instr.vld 3 1 2 0, .vlds 3 1 2 0, .vgath 3 1 2 0, .vld 3 1 0 1, .vld 3 1 0 2], Issues i vec) ∧
    vec.amask.getLsbD 31 = true ∧
    (∀ i < 32, (0x100 + i * 4) % 4 = 0 ∧ place vec (BitVec.ofNat 20 (0x100 + i * 4)) = .ok (.vault 0 (0x100 + i * 4))) ∧
    Issues (.vld 3 1 0 0) (regs [(1, 0xFFE#64)] vec) ∧ (0xFFE#20).toNat % 4 ≠ 0 ∧ Issues (.vld 3 1 0 0) (regs [(1, 0xFFC#64)] vec) ∧
    place vec 0x1000#20 = .trap (unmapped 0x1000#20) := by decide +kernel
theorem witness_VectorLoads_shape : Issues (.vldsh 3 1 0) shaped ∧ place shaped 0x200#20 = .ok (.vault 0 0x200) ∧
    (let r := Shape.ofBytes (readHere shaped (.vault 0 0x200) 32)
     r.fmt = 12 ∧ r.index 31 = some [31, 0, 0, 0] ∧ r.index 32 = none ∧
       ∀ i < 32, (r.addr [i, 0, 0, 0]).toNat % 4 = 0 ∧ place shaped (r.addr [i, 0, 0, 0]) = .ok (.vault 0 (0x300 + 4 * i))) := by
  decide +kernel
theorem witness_VectorLoads_blocks : Issues (.vldsh 3 2 0) shaped ∧ Issues (.vldsh 3 2 3) shaped ∧ Issues (.vldsh 3 2 4) shaped ∧
    shaped.vectorCount = 128 ∧ (shaped.reg 3).toNat % 32 = 0 ∧ (shaped.reg 4).toNat % 32 ≠ 0 ∧
    (let r := Shape.ofBytes (readHere shaped (.vault 0 0x220) 32)
     r.fmt = 13 ∧ r.index 0 = some [0, 0, 0, 0] ∧ r.index 32 = some [32, 0, 0, 0] ∧ r.index 64 = none ∧
       (r.addr [32, 0, 0, 0]).toNat % 16 = 0 ∧ place shaped (r.addr [32, 0, 0, 0]) = .ok (.vault 0 0x310) ∧
       place shaped (r.scaleAddr [32, 0, 0, 0]) = .ok (.vault 0 0x401)) := by decide +kernel
theorem witness_VectorLoads_group : shaped.mayIssue = true ∧
    (∀ i ∈ [Instr.vldsh 127 2 3, .vstsh 127 2 3], (featuresOf i).all (fun f => shaped.myLaunch.feats.getLsbD f) = true ∧
      classOk shaped (classOf i) = true) ∧ (shaped.reg 2).extractLsb' 0 5 = 0#5 ∧
    place shaped ((shaped.reg 2).setWidth 20) = .ok (.vault 0 0x220) ∧
    (Shape.ofBytes (readHere shaped (.vault 0 0x220) 32)).fmt = 13 ∧ shaped.vectorCount ≤ 127 + 1 := by decide +kernel

theorem witness_VectorStores : (∀ i ∈ [Instr.vst 1 1 2 0, .vsts 1 1 2 0, .vscat 1 1 2 0, .vst 1 1 0 2], Issues i vec) ∧
    granted (fun _ => true) (storeAll vec [(0x100#20, natLe 4 1), (0x104#20, natLe 4 2)]) = true ∧
    granted (fun _ => true) (storeAll vec [(0xFFC#20, natLe 4 1), (0x1000#20, natLe 4 2)]) = false ∧
    Issues (.vstsh 1 1 0) shaped ∧ place shaped 0x200#20 = .ok (.vault 0 0x200) ∧ Issues (.vstsh 1 2 3) shaped ∧
    place shaped 0x220#20 = .ok (.vault 0 0x220) := by decide +kernel
/-- A frame that the core has written in this phase: its stores change no table. -/
def ready : State := coreWith (fun k => { k with shadows := [(0, 1)] }) base
theorem witness_VectorStores_ready : granted (fun v => v.2 == (0, 0x100) && v.1.cur == ready.cur) (prepareStore ready 0x100#20 4) = true ∧
    granted (fun v => v.2 == (0, 0x104) && v.1.cur == ready.cur) (prepareStore ready 0x104#20 4) = true ∧
    prepareStore ready 0x1000#20 4 = .trap (unmapped 0x1000#20) := by
  refine ⟨?_, ?_, ?_⟩ <;> decide +kernel

theorem witness_VectorInteger : (∀ i ∈ [Instr.vadd 3 1 2 1, .vsub 3 1 2 1, .vmul 3 1 2 1, .vmulh 3 1 2 1, .vmin 3 1 2 1,
      .vmax 3 1 2 1, .vand 3 1 2 1, .vor 3 1 2 1, .vxor 3 1 2 1, .vandn 3 1 2 1, .vsll 3 1 2 1, .vsrl 3 1 2 1, .vsra 3 1 2 1,
      .vadds 3 1 2 1, .vsubs 3 1 2 1], Issues i vec) ∧ vec.fmt 1 = 0 ∧
    (let s := vec.setVreg 1 0x7F#1024
     Issues (.vadds 3 1 2 1) s ∧ velem (s.vreg 1) 8 0 = 127 ∧ velem (s.vreg 2) 8 0 = 1 ∧ s.amask.getLsbD 0 = true) := by
  decide +kernel
theorem witness_PermutesAndMoves : (∀ i ∈ [Instr.vperm 3 1 2 1, .vshuf 3 1 2 1, .vslup 3 1 2 1, .vsldn 3 1 2 1, .vbcast 3 1 2 1,
      .viota 3 0 1, .vsplt 3 1 1, .vsel 3 1 2 1, .vins 3 1 2 1, .vext 3 1 2 1, .vmrd 0 1 2, .vmwr 7 1 2, .shrd 0 1, .shwr 7 1,
      .vmand 1 0 7, .vmor 1 0 7, .vmxor 1 0 7, .vmandn 1 0 7, .vmnot 1 0, .amsel 7], Issues i vec) := by decide +kernel
theorem witness_ComparesAndReductions : (∀ i ∈ [Instr.vcmp 1 1 2 0 0, .vcmp 1 1 2 1 5, .vrsum 3 1 0, .vrsum 3 1 1, .vrmax 3 1 0,
      .vrmax 3 1 1, .vrmin 3 1 0, .vrmin 3 1 1, .vhist 3 1 1, .vcmpr 3 1 0, .vpopc 3 0 1], Issues i vec) ∧ vec.fmt 0 = 12 ∧
    vec.slotHere.rngctr.toNat + 1 < 2 ^ 64 ∧ isSignalling 12 0x7F800001 = true ∧
    Issues (.vcmp 1 1 2 0 0) (vec.setVreg 1 0x7F800001#1024) := by decide +kernel
/-- Stochastic rounding with no counter value left. -/
def drained : State := slotWith (fun x => { x with rngctr := 0xFFFFFFFFFFFFFFFF#64 }) (sh 0 0x4C#64 vec)
theorem witness_ComparesAndReductions_drained : Issues (.vrsum 3 1 0) drained ∧ drained.rnd 0 = 4 ∧
    2 ^ 64 ≤ drained.slotHere.rngctr.toNat + 1 := by decide +kernel

theorem witness_VectorFloat : (∀ i ∈ [Instr.vfadd 3 1 2 0, .vfsub 3 1 2 0, .vfmul 3 1 2 0, .vfmin 3 1 2 0, .vfmax 3 1 2 0,
      .vfma 3 1 2 0, .vfms 3 1 2 0, .vfnma 3 1 2 0, .vfnms 3 1 2 0, .vexp2 3 1 0, .vlog2 3 1 0, .vrcp 3 1 0, .vrsq 3 1 0,
      .vtanh 3 1 0, .vsigm 3 1 0], Issues i vec ∧ Issues i drained) ∧ vec.slotHere.rngctr.toNat + 0 < 2 ^ 64 ∧
    2 ^ 64 ≤ drained.slotHere.rngctr.toNat + 16 ∧ drained.rnd 0 = 4 := by decide +kernel
/-- One and a half units of the last place below 1 in f32, a tie. -/
theorem witness_RoundsToNearest : let x : Machine.Real := { neg := false, m := 2 ^ 25 + 1, e := -25, sticky := false }
    fvalue 12 (maxCode 12) = .fin { neg := false, m := 0xFFFFFF, e := 104 } ∧ x.sticky = false ∧ (-149 : Int) ≤ x.e ∧ (-149 : Int) ≤ leastExp 12 ∧
      (x.scaled (-149)).natAbs ≤ (({ neg := false, m := 0xFFFFFF, e := 104 } : Machine.Real).scaled (-149)).natAbs := by decide +kernel
theorem witness_FloatCorners : isNan 12 0x7FC00000 = true ∧ isNan 12 0x7F800001 = true ∧ isNan 12 0 = false ∧
    infCode 12 = some 0x7F800000 ∧ infCode 8 = none ∧ maxCode 8 < 2 ^ 8 ∧ 0x80000001 < 2 ^ fmtWidth 12 ∧
    2 ^ (fmtWidth 12 - 1) < 0x80000001 ∧ isNan 12 0x80000001 = false := by decide +kernel
/-- An f32 register quantised to mx4, and element formats in sh1 and sh3. -/
def converting : State := sh 3 8#64 (sh 1 10#64 vec)
theorem witness_Conversions : (∀ i ∈ [Instr.vcvt 3 1 1 0 1, .vcvt 3 1 1 1 0, .vxpnd 3 1 0 1 3, .vord 3 1 0, .vunord 3 1 0,
      .vqmx 3 8 4 2, .vdqmx 8 3 4 2], Issues i converting) ∧ converting.amask.getLsbD 7 = true ∧
    converting.slotHere.rngctr.toNat + 128 < 2 ^ 64 := by decide +kernel
theorem witness_Conversions_drained : Issues (.vcvt 3 1 1 1 0) (sh 1 10#64 drained) ∧ (sh 1 10#64 drained).rnd 0 = 4 ∧
    2 ^ 64 ≤ (sh 1 10#64 drained).slotHere.rngctr.toNat + 16 ∧ Issues (.vqmx 3 8 4 2) (sh 2 0x4D#64 drained) ∧
    (sh 2 0x4D#64 drained).rnd 2 = 4 := by decide +kernel
theorem witness_RandomNumbers : (∀ i ∈ [Instr.rng 1, .rngkey 1, .vrng 3 0 1, .vrng 3 1 0, .vrng 3 2 0],
      Issues i vec ∧ Issues i drained) ∧ vec.slotHere.rngctr.toNat + 32 < 2 ^ 64 ∧
    ¬(drained.slotHere.rngctr.toNat + 1 < 2 ^ 64) := by decide +kernel

/-! #### The matrix engine -/

/-- Two operations queued. -/
def anOp (i : Instr) : MatOp := { id := 0, order := 0, slot := 0, launch := 1, instr := i, a := 0#64, b := 0#64, recs := [], resume := false }
def full : State := coreWith (fun k => { k with mq := [anOp (.mzero 0), anOp (.mzero 1)], nextOp := 2 }) base
/-- Records for the matrix instructions: scales at 0, shapes of a tensor and a filter of bytes at 0x200 and 0x220. -/
def conv : State := bytesAt 0x200 (shapeBytes 0 32 1 0x300 0) (bytesAt 0x220 (shapeBytes 0 32 1 0x400 0)
  (regs [(1, 0x200#64), (2, 0x220#64)] base))
theorem witness_MatrixOperations_issue : (∀ i ∈ [Instr.mma 0 1 2 0 0 1, .mma 0 1 2 2 2 0, .mmat 0 1 2 0 0 1, .mldacc 0 1,
      .mstacc 0 1, .mzero 7, .mwait], Issues i base ∧ Issues i full) ∧ matrixQueued base 0 = 0 ∧ matrixQueued full 0 = 2 ∧
    Issues (.mmat 0 1 2 6 6 0) base ∧ scaleRecord base = .ok 0 ∧ base.here.mq = [] ∧ full.here.nextOp = 2 ∧
    (anOp (.mzero 0)).id < 2 := by decide +kernel
theorem witness_MatrixOperations_convolution : Issues (.mconv 0 1 2 0 0 1) conv ∧ loadBytes conv 0x200#20 32 = .ok (shapeBytes 0 32 1 0x300 0) ∧
    loadBytes conv 0x220#20 32 = .ok (shapeBytes 0 32 1 0x400 0) := by decide +kernel
theorem witness_MatrixOperations_completion : (full.coreOf 1 0).mq = [anOp (.mzero 0), anOp (.mzero 1)] ∧
    (full.tenant 1).phase.issues = true ∧ (base.coreOf 1 0).mq = [] ∧
    (granted (fun bs => bs.length == 128) (loadRange base 0xF80#20 128) = true) ∧
    granted (fun _ => true) (storeAll base ((List.range 32).map (fun j => (0x100#20 + BitVec.ofNat 20 (4 * j), natLe 4 j)))) = true := by
  decide +kernel
theorem witness_MatrixElements : let row : List Elem := [{ code := 255 }]
    let col : List Elem := [{ code := 128 }]
    row.length = col.length ∧ row ≠ [] ∧ 0xFFFFFFFF < 2 ^ 32 ∧ (∀ e ∈ row ++ col, e.code < 256) ∧ 0 ∈ [0, 4] ∧
      13 ∈ [8, 9, 10, 11, 13] := by decide +kernel

/-! #### Rings, fences, copies and transfers -/

/-- Ring 3 and g1 hold `w`: a ring of two entries of 8 bytes at 0x200, full where HEAD is 0xFFFF and TAIL is 1. -/
def ringed (w : Word) : State := regs [(1, w)] (base.setRing 3 w)
theorem witness_RingsAndFences_rings : (∀ i ∈ [Instr.ringwait 1 3 1 20, .ringrsv 1 3 1 20, .ringadvHead 1 3 1, .ringadvTail 1 3 1,
      .ringadvWrite 1 3, .ringadvRead 1 3], Issues i (ringed 0x0001FFFF00004008#64) ∧ Issues i (ringed 0x0005000500004008#64)) ∧
    ((ringed 0x0001FFFF00004008#64).ring 3).extractLsb' 48 16 - ((ringed 0x0001FFFF00004008#64).ring 3).extractLsb' 32 16 = 2#16 := by
  decide +kernel
theorem witness_RingsAndFences_invalid : (∀ i ∈ [Instr.ringwait 1 3 1 20, .ringrsv 1 3 1 20, .ringadvHead 1 3 1, .ringadvTail 1 3 1],
      Issues i (ringed 0x34000#64)) ∧ ¬(((ringed 0x34000#64).ring 3).extractLsb' 14 4).toNat ≤ 12 ∧
    Issues (.ringadvWrite 1 3) (ringed 0x34000#64) := by decide +kernel
/-- A copy to the core's own memory waits in the copy queue in an exchange phase. -/
def aPut : XferOp := { id := 0, order := 0, slot := 0, instr := .xput 1 2 3, d := 0x0000FE0000000100#64, a := 0#64, b := 64#64, c := 0#64, ctx := {} }
def sending : State := coreWith (fun k => { k with xq := [aPut], nextOp := 1 }) baseX
theorem witness_RingsAndFences_fences : (∀ i ∈ [Instr.fence, .qfence 3], Issues i base ∧ Issues i sending) ∧ Issues .sync base ∧
    Issues .xend baseX ∧ Issues .xend sending ∧ (sending.tenant 1).trapped = [] ∧ (base.tenant 1).trapped = [] ∧
    base.here.links.isEmpty = true ∧ (∃ o ∈ sending.here.xq, o.id < 1 ∧ o.slot = sending.actor.slot) := by
  refine ⟨?_, ?_, ?_, ?_, ?_, ?_, ?_, ?_⟩ <;> decide +kernel

/-- g1: 0x100, g2: 0x200, g3: 64 bytes with a signal of semaphore 0, g4: 0. -/
def copies : State := bytesAt 0x200 (shapeBytes 0 32 1 0x300 0) (bytesAt 0x100 (shapeBytes 0 32 1 0x300 0)
  (regs [(1, 0x100#64), (2, 0x200#64), (3, 0x4000020#64)] base))
theorem witness_Copies_issue : Issues (.cpy 1 2 3) copies ∧ Issues (.cpysh 1 2 3 4) copies ∧ copyQueued copies 0 = 0 ∧
    loadBytes copies 0x100#20 32 = .ok (shapeBytes 0 32 1 0x300 0) ∧ copies.here.share.sem.getLsbD 0 = true ∧
    Issues (.cpy 1 2 3) (copies.setReg 1 0x101#64) ∧ ((copies.setReg 1 0x101#64).reg 1).toNat % 8 ≠ 0 ∧
    (let s := coreWith (fun k => { k with cq := [aCopy, aCopy] }) copies
     Issues (.cpy 1 2 3) s ∧ copyQueued s 0 = 2) := by
  refine ⟨?_, ?_, ?_, ?_, ?_, ?_, ?_, ?_⟩ <;> decide +kernel
theorem witness_Copies_completion : (copying.coreOf 1 0).cq = [aCopy] ∧ (base.coreOf 1 0).cq = [] ∧
    (copying.tenant 1).phase.issues = true ∧ granted (fun _ => true) (loadRange copies 0x200#20 64) = true ∧
    granted (fun _ => true) (prepareStore copies 0x100#20 1) = true := by decide +kernel

/-- Operands of the transfers: g1 a vault page of core 0, g2 local, g3 the length, g4 the rectangle of core 0 or group 0
with its first member, g5 a page of HBM. -/
def moving : State := regs [(1, 0x0000FE0000000100#64), (2, 0x200#64), (3, 0x4000040#64), (4, 0#64), (5, 0x10000#64),
  (6, 0x100#64)] (both (fun d => { d with groups := [(0, [0])] }) baseX)
theorem witness_TransferIssue_goes : (∀ i ∈ [Instr.xput 1 2 3, .xget 2 1 3, .xdeal 6 5 3 4, .xmcast 6 2 3 6, .xred 1 2 3 0,
      .xhfill 2 5 3, .xhspill 5 2 3], Issues i moving) ∧ copyQueued moving 0 = 0 ∧ moving.here.xq.length < moving.here.share.ct ∧
    localRange moving 0x200#20 64 = .ok () ∧ vaultRange (moving.reg 1) 64 = true ∧ hbmRange (moving.reg 5) 64 = true ∧
    0 ∈ moving.myLaunch.cores ∧ (moving.dev 1).groups.get 0 [] = [0] := by
  refine ⟨?_, ?_, ?_, ?_, ?_, ?_, ?_, ?_⟩ <;> decide +kernel
theorem witness_TransferIssue_refused : (∀ i ∈ [Instr.xput 5 2 3, .xget 2 5 3, .xdeal 6 1 3 4, .xmcast 6 2 3 4, .xred 5 2 3 0,
      .xhfill 2 1 3, .xhspill 1 2 3], Issues i moving) ∧ vaultRange (moving.reg 5) 64 = false ∧ hbmRange (moving.reg 1) 64 = false ∧
    localRange moving 0x1000#20 64 = .trap (unmapped 0x1000#20) ∧
    (let s := coreWith (fun k => { k with share := { k.share with ct := 0 } }) moving
     Issues (.xput 1 2 3) s ∧ s.here.share.ct ≤ s.here.xq.length) := by
  refine ⟨?_, ?_, ?_, ?_, ?_⟩ <;> decide +kernel

/-! #### Messages, tasks, streams -/

/-- g1: core 0; g2: an entry point; g3: a word of core 0's vault; g4: a type that only a privileged launch may send. -/
def posting : State := regs [(1, 0#64), (2, 0x40#64), (3, 0x0000FE0000000100#64), (4, 0x38000#64), (5, 3072#64)] base
theorem witness_Sends : (∀ i ∈ [Instr.send 9 1 1, .send 9 1 24, .send 9 1 25, .send 9 5 1, .spawn 9 1 2, .spawn 9 1 1, .migrate 9 3,
      .migrate 9 2, .rupd 9 3 2 0 0, .rupd 9 2 2 0 0, .mbxsend 9 1 25, .mbxsend 9 1 26, .mbxsend 9 3 1], Issues i posting) ∧
    0 ∈ posting.myLaunch.cores ∧ posting.here.sendq.length < posting.here.share.sendq ∧ posting.here.spawns < 64 ∧
    posting.thr.level = 0 ∧ (posting.reg 3).toNat % 8 = 0 ∧ Issues (.rupd 9 6 2 0 0) (posting.setReg 6 0x0000FE0000000104#64) ∧
    (let s := coreWith (fun k => { k with spawns := 64, share := { k.share with sendq := 0 } }) posting
     Issues (.spawn 0 1 2) s ∧ 64 ≤ s.here.spawns ∧ s.here.share.sendq ≤ s.here.sendq.length) := by
  refine ⟨?_, ?_, ?_, ?_, ?_, ?_, ?_, ?_⟩ <;> decide +kernel
theorem witness_Sends_user : let s := launchWith (fun l => { l with priv := false }) posting
    Issues (.send 9 4 1) s ∧ s.myLaunch.priv = false ∧ 56 ≤ ((s.reg 4).extractLsb' 12 6).toNat := by decide +kernel

/-- Stream 5 is live, with two actions and a mailbox at 0x800; entry 9 of the task table waits for two; g2 names the stream. -/
def desc5 : Desc := { state := 1#2, actlogn := 2#4, acthead := 0xFFFF#16, acttail := 1#16, actbase := 8#42, mbx := 0x800#20,
                      mbxlogn := 2#4, horizon := 3#32 }
def streaming : State := regs [(2, 5#64), (3, 9#64), (4, 10#64), (5, 0x200#64), (6, 0#64)]
  (tenantWith (fun t => { t with taskCount := 16 })
    (both (fun d => { d with streams := [(5, desc5)], tasks := [(9, { recs := [], count := 2#32 })] }) base))
theorem witness_Requests_tasks : Issues (.tqpush 1 5 2 4) streaming ∧ Issues (.tqpush 1 5 2 3) streaming ∧
    Issues (.tqdec 1 3) streaming ∧ loadBytes streaming 0x200#20 64 = .ok (List.replicate 64 0#8) ∧
    (0x200#64).toNat % 64 = 0 ∧ leNat ((List.replicate 64 0#8).take 1) % 4 < 2 ∧
    (streaming.tenant 1).taskBase + (streaming.tenant 1).taskCount = 16 ∧ (streaming.dev 1).tasks.find 10 = none := by
  refine ⟨?_, ?_, ?_, ?_, ?_, ?_, ?_, ?_⟩ <;> decide +kernel
theorem witness_Requests_streams : (∀ i ∈ [Instr.squery 1 2 15, .sprune 1 2, .sadv 1 2, .sret 2 3, .sactpop 1 2, .sactadd 1 2,
      .smigrate 1 2 6 6, .sfork 1 2 5 7], Issues i streaming) ∧ (streaming.old 1).streams.find 5 = some desc5 ∧
    streaming.actor.core = desc5.home.toNat ∧ 0 ∈ streaming.myLaunch.cores ∧ desc5.acthead ≠ desc5.acttail ∧
    loadBytes streaming 0x200#20 16 = .ok (List.replicate 16 0#8) ∧ forkRecordBad 0#64 0#64 = false ∧
    freeSid streaming 0 = some 0 := by
  refine ⟨?_, ?_, ?_, ?_, ?_, ?_, ?_, ?_⟩ <;> decide +kernel
/-- A full ring of actions, an empty one, and a channel with a port that a migration holds. -/
def streamWith (f : Desc → Desc) : State := both (fun d => { d with streams := [(5, f desc5)] }) streaming
def linked : State := { streaming with ports := [(0, { chans := [(0, { ltid := 1, ftid := 2, repl := false, fser := 0#64 })] })] }
theorem witness_Requests_corners : Issues (.sactadd 1 2) (streamWith (fun d => { d with acttail := 3#16 })) ∧
    2 ^ 2 < ((3#16 : BitVec 16) + 1#16 - 0xFFFF#16).toNat ∧ Issues (.sactpop 1 2) (streamWith (fun d => { d with acthead := 1#16 })) ∧
    channelOf linked 0 1 = some 0 ∧ portBusy (linked.dev 1) 0 = false ∧ Issues (.smigrate 1 2 6 6) linked ∧
    portBusy { moves := [{ sid := 5, port := 0, noticeCore := 0, noticeType := 0#6, core := 0, slot := 0, launch := 1 }] } 0 = true ∧ tableKeys streaming 1 desc5 = [] := by
  refine ⟨?_, ?_, ?_, ?_, ?_, ?_, ?_, ?_⟩ <;> decide +kernel
theorem witness_Requests_traps : let s := slotWith (fun x => { x with trapvec := 4#64 }) streaming
    s.thr.level = 0 ∧ s.slotHere.handlers = [] ∧ s.slotHere.h = false ∧ s.slotHere.trapvec.extractLsb' 0 20 ≠ 0#20 ∧
      (∀ i ∈ [Instr.sadv 1 4, .sactpop 1 4, .sactadd 1 4, .sprune 1 4, .squery 1 4 0, .tqdec 1 4, .tqdec 1 5], Issues i s) ∧
      ((s.old 1).streams.get 10 {}).state = 0#2 ∧ (s.dev 1).tasks.find 10 = none ∧ 16 ≤ (s.reg 5).toNat := by
  refine ⟨?_, ?_, ?_, ?_, ?_, ?_, ?_, ?_⟩ <;> decide +kernel
/-- A thread of a work packet with two streams; g2 = 1 is the second. -/
def batched : State := thrWith (fun th => { th with origin := 1, packet := 7 }) (coreWith (fun k =>
  { k with packets := [(7, { launch := 1, model := 0, group := 0, sids := [5, 6] })] })
  (regs [(2, 1#64), (3, 2#64), (4, 0x8000000000000000#64)] base))
theorem witness_StreamSelect_batch : (∀ i ∈ [Instr.ssel 1 2, .ssel 1 3, .ssel 1 4, .ssel 1 1, .ssel 0 0], Issues i batched) ∧
    batched.thr.origin = 1 ∧ batched.thr.level = 0 ∧ (batched.reg 2).toNat < 2 ∧ ¬((batched.reg 3).toNat < 2) ∧
    (batched.reg 4).getLsbD 63 = true := by decide +kernel
theorem witness_StreamSelect_mailbox : Issues (.mbxrecv 1 2 1 3) (bytesAt 0x800 [0#8, 0#8, 1#8] streaming) ∧
    boxLine (bytesAt 0x800 [0#8, 0#8, 1#8] streaming) 1 desc5 = .ok (0, 1) ∧ Issues (.mbxrecv 1 2 1 3) streaming ∧
    boxLine streaming 1 desc5 = .ok (0, 0) ∧ Issues (.mbxrecv 1 4 1 3) streaming ∧
    ((streaming.old 1).streams.get 10 {}).state ≠ 1#2 := by
  refine ⟨?_, ?_, ?_, ?_, ?_, ?_⟩ <;> decide +kernel

/-! #### The Finial and the Oculus -/

/-- g2: candidates at 0x200; g3: two of them; g4: identifier 7; stream 5 of a parent. -/
def selecting : State := regs [(2, 0x200#64), (3, 2#64), (4, 7#64), (5, 5#64)]
  (both (fun d => { d with streams := [(5, { desc5 with pv := true })] }) base)
def round (r : FinResult) : State := both (fun d => { d with finRes := [(7, r)] }) selecting
theorem witness_Finial : (∀ i ∈ [Instr.selsub 1 2 3 4, .redsub 1 2 3 4, .sjoin 1 5 6, .sjoin 1 4 6, .sjoin 1 5 2, .selget 1 2 4,
      .selget 1 4 4], Issues i selecting) ∧ loadBytes selecting 0x208#20 8 = .ok (List.replicate 8 0#8) ∧
    (selecting.dev 1).finSubs.isEmpty = true ∧ ((selecting.old 1).streams.get 5 {}).pv = true ∧
    ((selecting.old 1).streams.get 7 {}).state = 0#2 ∧ (selecting.reg 2).extractLsb' 16 48 = 0#48 ∧
    (selecting.reg 2).extractLsb' 2 6 = 0#6 ∧ (selecting.old 1).finRes.find 7 = none := by
  refine ⟨?_, ?_, ?_, ?_, ?_, ?_, ?_, ?_⟩ <;> decide +kernel
def chosen (reduce : Bool) (n : Nat) : FinSub :=
  { id := 7, core := 0, order := 0, reduce := reduce, mode := 0, k := 1, items := List.replicate n 0#64 }
theorem witness_Finial_full : (let s := both (fun d => { d with finSubs := [chosen false 63, chosen true 0] }) selecting
     Issues (.selsub 1 2 3 4) s ∧ Issues (.redsub 1 2 3 4) s ∧ 64 < 63 + (s.reg 3).toNat) ∧
    (let s := coreWith (fun k => { k with joins := 64 }) selecting
     Issues (.sjoin 1 5 6) s ∧ 64 ≤ s.here.joins) ∧
    (let r : FinResult := { reduce := true, mode := 1, conflict := true, items := [1#64, 2#64] }
     Issues (.selget 1 2 4) (round r) ∧ ((round r).old 1).finRes.find 7 = some r ∧
       granted (fun _ => true) (storeAll (round r) [(0x200#20, natLe 4 1), (0x204#20, natLe 4 2)]) = true) := by decide +kernel

/-- A sequence of 64 positions on core 0, configured as 4095, the last of the tenant's range. -/
def seqRecord : List Word := [0x0000004000000040#64, 0#64, 0x800#64, 0#64, 0#64, 0#64, 0#64, 0#64]
def sequencing : State := regs [(2, 4095#64), (3, 4094#64), (4, 0#64), (5, 0x1006#64), (6, 63#64), (7, 64#64), (8, 1#64), (9, 0x240#64)]
  (bytesAt 0x200 (bytesOf seqRecord) (tenantWith (fun t => { t with seqBase := 4094, seqCount := 2 })
    (both (fun d => { d with seqs := [(4095, { recs := seqRecord, mask := 5 })] }) base)))
theorem witness_Oculus_inside : (∀ i ∈ [Instr.umstateStatus 1 2 4, .umstateMask 1 2 4, .umstateRelease 1 2 4, .umdirty 1 2 4,
      .umcommit 2 6 6, .umcommit 2 7 6, .umsub 2 9 8, .umsub 2 9 4, .umstateMask 1 2 8, .umdirty 1 2 7], Issues i sequencing) ∧
    (sequencing.tenant 1).seqBase ≤ 4095 ∧ 4095 < (sequencing.tenant 1).seqBase + (sequencing.tenant 1).seqCount ∧
    ((sequencing.old 1).seqs.find 4095).isSome = true ∧ (seqConf seqRecord).n = 64 ∧ (seqConf seqRecord).holder 63 = 0 ∧
    (seqConf seqRecord).g = 1 := by
  refine ⟨?_, ?_, ?_, ?_, ?_, ?_, ?_⟩ <;> decide +kernel
theorem witness_Oculus_configure : let s := sequencing.setReg 4 0x200#64
    Issues (.umstateConfigure 1 2 4) s ∧ loadBytes s 0x200#20 64 = .ok (bytesOf seqRecord) ∧ wordsOf (bytesOf seqRecord) = seqRecord ∧
      seqRefused s seqRecord = false ∧ seqRefused s (List.replicate 8 0#64) = true ∧
      Issues (.umstateConfigure 1 2 9) s ∧ loadBytes s 0x240#20 64 = .ok (List.replicate 64 0#8) := by
  refine ⟨?_, ?_, ?_, ?_, ?_, ?_, ?_⟩ <;> decide +kernel
theorem witness_Oculus_outside : (∀ i ∈ [Instr.umstateConfigure 1 5 4, .umstateStatus 1 5 4, .umstateMask 1 5 4, .umstateRelease 1 5 4,
      .umdirty 1 5 4, .umcommit 5 6 6, .umstateStatus 1 3 4, .umstateMask 1 3 4, .umdirty 1 3 4, .umcommit 3 6 6],
      Issues i sequencing) ∧ ¬((sequencing.reg 5).toNat < 4096) ∧ (sequencing.old 1).seqs.find 4094 = none := by
  refine ⟨?_, ?_, ?_⟩ <;> decide +kernel

/-! #### Control registers, traps, privileged changes -/

theorem witness_ControlRegisters : [0x000#12, 0x001, 0x002, 0x003, 0x004, 0x005, 0x006, 0x008, 0x009, 0x00A, 0x010, 0x011, 0x012, 0x013,
      0x014, 0x020, 0x030, 0x040, 0x100, 0x007, 0x101, 0xFFF].all (fun n => issuesB (.csrr 1 n) base && issuesB (.csrw 1 n) base &&
      issuesB (.csrset 1 n) base && issuesB (.csrclr 1 n) base) = true ∧ issuesB (.digest 1) base = true := by decide +kernel
theorem witness_DigestReads : Issues (.digest 0) base ∧ Issues (.csrr 0 0x030) base := by decide +kernel
/-- A launch under a debugger. -/
def watched : State := launchWith (fun l => { l with debugger := true }) base
theorem witness_TrapIdleHalt : Issues (.trap 1 0xFFF) base ∧ Issues (.dbrk 1) base ∧ base.myLaunch.debugger = false ∧
    Issues (.dbrk 1) watched ∧ watched.myLaunch.debugger = true ∧ Issues (.idle 0) base ∧ Issues (.halt 1) base ∧
    (base.launches.find base.thr.launch).isSome = true ∧ (base.tenant 1).phase = .run := by
  refine ⟨?_, ?_, ?_, ?_, ?_, ?_, ?_, ?_, ?_⟩ <;> decide +kernel

/-- g1: no address; g2: page 0; g3: an unmapped page; g4: a word of core 1; g5: the first byte of HBM's upper part; g6: no
core; g7: core 0; g8: a core that the tenant does not hold; g9: not a core. -/
def regions : State := regs [(1, 0x7000000000000000#64), (2, 0x0#64), (3, 0x1000#64), (4, 0x0000FE0004000000#64), (5, 0x100000#64),
  (6, 0x8000000000000000#64), (7, 0#64), (8, 5#64), (9, 0xC00#64)] base
theorem witness_Capabilities_regions : globalOf (regions.reg 1) = .none ∧ regionOf regions (regions.reg 2) = .ok (.own 0) ∧
    regionOf regions (regions.reg 3) = .ok .nothing ∧ regionOf regions (regions.reg 4) = .ok (.other (regions.reg 4)) ∧
    globalOf (regions.reg 4) = .vault 1 0#20 ∧ regionOf regions (regions.reg 5) = .ok (.other (regions.reg 5)) ∧
    globalOf (regions.reg 5) = .hbm 0x100000 ∧ frameNamed regions 1 (regions.reg 4) = none := by
  refine ⟨?_, ?_, ?_, ?_, ?_, ?_, ?_, ?_⟩ <;> decide +kernel
theorem witness_Capabilities_issue : (∀ i ∈ [Instr.capgive 10 1 6, .captake 10 1, .capq 10 1, .capgive 10 2 6, .capgive 10 2 7,
      .capgive 10 2 8, .capgive 10 2 9, .capgive 10 3 6, .capgive 10 4 6, .capgive 10 4 7, .capgive 10 4 8, .captake 10 3, .captake 10 4,
      .capq 10 2, .capq 10 3, .capq 10 4, .capq 10 5], Issues i regions) ∧ 5 ∉ tenantCores regions 1 ∧ 0 ∈ tenantCores regions 1 ∧
    regions.here.capSent < 64 ∧ ((regions.here.frame 0).extractLsb' 18 12).toNat = 0 ∧ (regions.here.frame 0).getLsbD 30 = true ∧
    3072 ≤ ((regions.reg 9).extractLsb' 0 12).toNat := by
  refine ⟨?_, ?_, ?_, ?_, ?_, ?_, ?_⟩ <;> decide +kernel
/-- A frame of a committed page 0, as another core names it. -/
theorem witness_Capabilities_others : let s := { regions with actor := { tid := 1, core := 1, slot := 0 } }
    frameNamed s 1 0x0000FE0000000000#64 = some (0, 0) ∧
    (let s := coreWith (fun k => k.setFrame 0 (fmSetCap (k.frame 0) none)) regions
     Issues (.capgive 10 2 6) s ∧ regionOf s (s.reg 2) = .ok (.own 0) ∧ (s.here.frame 0).getLsbD 30 = false) ∧
    (let s := coreWith (fun k => { k with capSent := 64 }) regions
     Issues (.capgive 10 2 6) s ∧ Issues (.capgive 10 4 6) s ∧ Issues (.captake 10 4) s ∧ 64 ≤ s.here.capSent) := by
  decide +kernel

/-- PTENANT names tenant 1 itself; keys 1 and 2 have owners; g1 to g4 are operands. -/
def ruling : State := { (slotWith (fun x => { x with ptenant := 1#64 }) (regs [(1, 1#64), (2, 3#64), (3, 0x200#64), (4, 0x1000#64)] base)) with
  keys := [(1, { owner := some 1 }), (2, { owner := some 9 })] }
theorem witness_Privileged_operand : (∀ i ∈ [Instr.quotasetSpill 9 1, .quotasetPoolAdd 9 1, .quotasetPoolRemove 9 1, .quotasetSeqRange 9 1,
      .quotasetTaskRange 9 1, .keyselAssign 9 1, .keyselAssign 9 2, .keyselRelease 9 1, .modesetFeatures 9 1, .modesetSeed 9 1,
      .modesetRoot 9 1, .modesetSystemFlag 9 1, .modesetComputeBudget 9 1, .modesetExchangeBudget 9 1, .modesetUnregister 9 1,
      .quotasetVquota 9 1, .quotasetHquota 9 1], Issues i ruling) ∧ (∀ k ∈ ruling.cur, k.2.priv = []) ∧
    (ruling.tenants.find 1).isSome = true ∧ (ruling.keys.get 1 {}).owner = some 1 ∧ (ruling.keys.get 3 {}).owner = none ∧
    stateFound ruling 1 = 0#2 ∧ stateFound streaming 5 = 1#2 := by
  refine ⟨?_, ?_, ?_, ?_, ?_, ?_, ?_⟩ <;> decide +kernel
theorem witness_Privileged_record : (∀ i ∈ [Instr.keyselImport 9 3, .modesetFrameMap 9 3, .modesetLeaf 9 3, .modesetRegister 9 3],
      Issues i ruling) ∧ loadBytes ruling 0x200#20 512 = .ok (List.replicate 512 0#8) ∧
    loadBytes ruling 0x200#20 128 = .ok (List.replicate 128 0#8) ∧ loadBytes ruling 0x200#20 32 = .ok (List.replicate 32 0#8) ∧
    loadBytes ruling 0x200#20 16 = .ok (List.replicate 16 0#8) ∧ pageBusy ruling (List.replicate 4 0#64) = false := by
  refine ⟨?_, ?_, ?_, ?_, ?_, ?_⟩ <;> decide +kernel

/-! #### Links, dependent loads, the exchange barrier -/

/-- A bound channel on port 0; g1 local, g2 the length, g3 the port with tag 1; g5 an unaligned word of core 0's vault. -/
def channelled (y : Port) : State := { (regs [(1, 0x200#64), (2, 64#64), (3, 0x10#64), (4, 0x0000FE0000000100#64), (5, 0x0000FE0000000101#64),
  (6, 0x7000000000000000#64), (7, 0x11#64)] baseX) with ports := [(0, { y with chans := [(4, { ltid := 1, ftid := 2, repl := false, fser := 0#64 })] })] }
def waitsThere : Port := { waiting := [(4, true, 1#16, 64, List.replicate 64 7#8)] }
theorem witness_LinksAndBarriers_links : (∀ i ∈ [Instr.xlsend 9 1 2 3, .xlrecv 9 1 2 3, .xlrecv 9 1 2 7],
      Issues i (channelled {}) ∧ Issues i (channelled waitsThere)) ∧ channelOf (channelled {}) 0 1 = some 4 ∧
    channelOf (channelled {}) 1 1 = none ∧ localRange (channelled {}) 0x200#20 64 = .ok () ∧
    ((channelled waitsThere).reg 3).extractLsb' 4 16 = 1#16 ∧ ((channelled waitsThere).ports.get 0 {}).waiting.length = 1 ∧
    localRange (channelled {}) 0xFC8#20 64 = .trap (unmapped 0x1000#20) := by
  refine ⟨?_, ?_, ?_, ?_, ?_, ?_, ?_⟩ <;> decide +kernel
theorem witness_LinksAndBarriers_others : (∀ i ∈ [Instr.xhld 9 4 3, .xhld 9 5 1, .xhld 9 6 0, .xbar 9 0, .xbar 9 1],
      Issues i (channelled {})) ∧ granted (fun bs => bs.length == 8) (hldBytes (channelled {}) 1 0 0x0000FE0000000100#64 8) = true ∧
    globalOf 0x7000000000000000#64 = .none ∧ (0x0000FE0000000101#64).toNat % 2 ≠ 0 ∧ 0 ∈ (channelled {}).myLaunch.cores ∧
    ((0x200#64).extractLsb' 6 6).toNat = 8 := by
  refine ⟨?_, ?_, ?_, ?_, ?_, ?_⟩ <;> decide +kernel

def waitingIn (i : Instr) (s : State) : State := thrWith (fun th => { th with status := .waiting i }) s
theorem witness_WaitEnds_waits : (waitingIn (.semwait 1 2 0 3) base).mayIssue = true ∧ (base.sem 2).toNat = 0 ∧
    ((waitingIn (.semwait 1 2 0 3) base).reg 1).extractLsb' 0 32 = 0#32 ∧
    (waitingIn (.ringrsv 1 3 1 3) (ringed 0x0001FFFF00004008#64)).mayIssue = true ∧
    (waitingIn (.mbxrecv 1 2 1 3) streaming).mayIssue = true ∧ boxLine (waitingIn (.mbxrecv 1 2 1 3) streaming) 1 desc5 = .ok (0, 0) ∧
    ((streaming.old 1).streams.get ((streaming.reg 2).extractLsb' 0 18).toNat {}).state = 1#2 := by
  refine ⟨?_, ?_, ?_, ?_, ?_, ?_, ?_⟩ <;> decide +kernel
/-- Core 0 alone waits at instance 0 of its own rectangle. -/
def atBarrier : State := slotWith (fun x => { x with bars := [(0#24, 1)] }) (thrWith (fun th => { th with status := .barrier 0#24 0 9 }) baseX)
theorem witness_WaitEnds_others : (atBarrier.tenant 1).phase.issues = true ∧ rectCores 0#24 = [0] ∧ liveSlots (atBarrier.coreOf 1 0) = [0] ∧
    ((atBarrier.coreOf 1 0).slot 0).bars = [(0#24, 1)] ∧ atBarrier.here.xq.isEmpty = true ∧
    ((slotWith (fun x => { x with hbmOpen := 2 }) base).slotHere.hbmOpen ≠ 0) ∧ base.here.share.tlb ≠ 0 := by
  refine ⟨?_, ?_, ?_, ?_, ?_, ?_, ?_⟩ <;> decide +kernel

/-- A put of one line to the core's own frame 0, with both signals; all its units landed. -/
def putting (next : Nat) (rsem : Nat) : State := coreWith (fun k => { k with nextOp := 1, xq := [{ aPut with
  b := BitVec.ofNat 64 (64 + 2 ^ 26 + rsem * 2 ^ 27 + 2 ^ 32), next := next }] }) baseX
theorem witness_TransferSteps_lands : ((putting 0 3).coreOf 1 0).xq.length = 1 ∧ ((putting 0 3).tenant 1).phase.issues = true ∧
    (((putting 0 3).coreOf 1 0).xq.map (fun o => (unitsOf (putting 0 3) 1 0 o).length)) = [1] ∧
    (((putting 0 3).coreOf 1 0).xq.all (fun o => (unitsOf (putting 0 3) 1 0 o).all (fun u => !unitBlocked (putting 0 3) 1 0 o u &&
      granted (fun bs => bs.length == 64) (sourceOf (putting 0 3) 1 0 o u.off u.len) &&
      granted (fun _ => true) (landUnit (putting 0 3) 1 0 o u (List.replicate 64 1#8)))) = true) ∧
    ((putting 0 3).here.share.sem.getLsbD 3 = true) ∧ ((putting 1 3).coreOf 1 0).xq.all (fun o => decide (1 ≤ o.next)) = true ∧
    (coreWith (fun k => { k with share := { k.share with sem := 1#32 } }) (putting 0 3)).here.share.sem.getLsbD 3 = false := by
  refine ⟨?_, ?_, ?_, ?_, ?_, ?_, ?_⟩ <;> decide +kernel
theorem witness_TransferSteps_landFrame : (0, 0) ∉ base.lostFrames ∧ ((base.coreOf 1 0).frame 0).getLsbD 9 = true ∧
    gaveFrame base 1 0 0 0 = false ∧ reserveOf base 1 0 ≠ [] ∧ ((ready.coreOf 1 0).shadows.find 0).isSome = true ∧
    (((frame0 (mkFm 0 true true false false false 1 0 true 1) base).coreOf 1 0).frame 0).getLsbD 9 = false ∧
    (((frame0 (mkFm 0 true true true false false 1 3071 true 1) base).coreOf 1 0).frame 0).extractLsb' 18 12 ≠ 0#12 := by
  refine ⟨?_, ?_, ?_, ?_, ?_, ?_, ?_⟩ <;> decide +kernel

def aLink (sends : Bool) (far : Option (Nat × List Byte)) : LinkOp :=
  { id := 0, order := 0, slot := 0, level := 0, sends := sends, d := 9, addr := 0x200#64, ctl := 64#64, link := 0x10#64, far := far }
def linking (l : LinkOp) : State := coreWith (fun k => { k with links := [l], nextOp := 1 })
  (thrWith (fun th => { th with status := .engine }) (channelled {}))
theorem witness_LinkEvents_partner : ((((linking (aLink true none)).flitGood 0).ports.get 0 {}).chans.find 4).isSome = true ∧
    (((linking (aLink true none)).flitGood 0).ports.get 0 {}).up = true ∧
    (((linking (aLink true none)).flitGood 0).coreOf 1 0).links = [aLink true none] ∧
    ((channelled {}).flitGood 0).cur.all (fun d => d.2.cores.all (fun q => q.2.links.isEmpty)) = true := by
  refine ⟨?_, ?_, ?_, ?_⟩ <;> decide +kernel
theorem witness_LinkEvents_ends : (∀ b, ((linking (aLink b (some (64, List.replicate 64 7#8)))).coreOf 1 0).links.find? (fun x => x.slot == 0) =
      some (aLink b (some (64, List.replicate 64 7#8)))) ∧ ((linking (aLink true none)).tenant 1).phase.issues = true ∧
    granted (fun bs => bs.length == 64) (localBytes (linking (aLink true none)) 1 0 (ctxOf {}) 0x200#20 64) = true ∧
    piecesOf 0x200 64 = [(0, 64)] ∧ granted (fun _ => true) (landVault (linking (aLink false none)) 1 0 0 (ctxOf {}) true 0x200#20 64
      (fun _ => List.replicate 64 7#8)) = true := by
  refine ⟨?_, ?_, ?_, ?_, ?_⟩ <;> decide +kernel

/-! #### The phase beat, messages, rounds -/

/-- The thread has quit: its launch has nothing more to do. -/
def finished (task : Option Nat) : State := launchWith (fun l => { l with task := task }) (both (fun d => { d with
  cores := d.cores.map (fun k => (k.1, { k.2 with slots := [(0, {})] })) }) base)
def cmd (op : BitVec 8) (tid : Nat) (args : List Word) : HostCmd :=
  { op := op, fn := 0, queue := 0, tid := tid, crec := 0x1000#64, args := args }
def saved (level : Nat) (complete : Bool) : Saved :=
  { tid := 1, level := level, area := 0, exchange := false, phase := 0#64, dev := base.old 1, launches := base.launches, complete := complete
    image := if complete then base.hbmBytes (base.material (base.tenant 1).tableKey) 0 8 else []
    cmd := cmd 1#8 1 [] }
theorem witness_PhaseEvents : participates base 1 = true ∧ (base.tenant 1).phase.issues = true ∧ tenantArrived base 1 = false ∧
    base.opening = false ∧ (finished none).launches.map (fun q => (q.1, q.2.live, ((finished none).dev q.2.tid).doneWith q.1 &&
      ((finished none).old q.2.tid).doneWith q.1, q.2.task)) = [(1, true, true, none)] ∧
    ((finished (some 9)).launches.find 1).map (·.task) = some (some 9) ∧
    ({ base with saves := [(1, saved 0 false), (2, saved 1 false)] } : State).saves.length = 2 ∧
    (saved 1 false).complete = false := by
  refine ⟨?_, ?_, ?_, ?_, ?_, ?_, ?_, ?_⟩ <;> decide +kernel
def paired : State := { tenantWith (fun t => { t with replica := some { port := 0 } }) base with ports := [(0, {})] }
theorem witness_PhaseEvents_flit : (paired.tenant 1).replica = some { port := 0 } ∧ (paired.ports.get 0 {}).up = true := by
  decide +kernel

/-- A message of core 0 to itself waits to be accepted, of type `typ`. -/
def aMessage (kind : MsgKind) (typ : BitVec 6) : Message :=
  { src := 0, typ := typ, kind := kind, launch := 1, sid := 0#18, sv := false, seq := 0#32, pc := 0#20
    payload := [0x0000FE0000000100#64, 5#64, 0x80#64], dest := 0, slot := 0 }
def posted (f : TCore → TCore) (m : Message) : State := coreWith f (coreWith (fun k => { k with sendq := [m], seq := 1#32 }) baseX)
theorem witness_MessageArrival_accept : baseX.exchange = true ∧ (baseX.tenant 1).phase.issues = true ∧
    (∀ k, k ∈ [MsgKind.send, .rupd] → ((posted id (aMessage k 0#6)).coreOf 1 0).sendq.find?
      (fun m => m.tried != some (posted id (aMessage k 0#6)).phase) = some (aMessage k 0#6)) ∧
    ((posted id (aMessage .send 0#6)).coreOf 1 0).arrq.length < arrqRoom (posted id (aMessage .send 0#6)) 1 0 ∧
    (let s := posted (fun k => { k with arrq := List.replicate 64 (aMessage .send 0#6) }) (aMessage .send 0#6)
     arrqRoom s 1 0 ≤ (s.coreOf 1 0).arrq.length ∧ (s.coreOf 1 0).share.spill = 0) ∧
    (let s := posted (fun k => { k with share := { k.share with spill := 32 }, arrq := List.replicate 64 (aMessage .send 0#6) })
       (aMessage .send 0#6)
     (s.coreOf 1 0).spill.length < (s.coreOf 1 0).share.spill ∧ reserveOf s 1 0 ≠ []) ∧
    (let s := posted (fun k => { k with sendq := [{ aMessage .send 0#6 with tried := some 1#64, retries := 256 },
       { aMessage .send 0#6 with seq := 1#32 }] }) (aMessage .send 0#6)
     (s.coreOf 1 0).sendq.length = 2 ∧ msgCore s 1 (aMessage .send 0#6) = some 0 ∧
       ((s.coreOf 1 0).sendq.find? (fun m => m.retries == 256)).isSome = true) := by
  refine ⟨?_, ?_, ?_, ?_, ?_, ?_, ?_⟩ <;> decide +kernel
/-- An arrival of type 56, whose dispatch entry in the control page is valid and of level 2, with entry point 0x40. -/
def arrived : State := coreWith (fun k => { k with arrq := [aMessage .send 56#6] }) (both (fun d => { d with
  ctl := d.ctl.writeBytes 0x31C0 (natLe 8 0x600040) }) base)
def aCont : Cont := { pc := 0x40#20, g := [1#64, 2#64, 3#64, 4#64], stream := 0#64, trapvec := 0#64, join := some 3, launch := 1 }
theorem witness_MessageArrival_handler : (arrived.tenant 1).phase.issues = true ∧ tenantDet arrived 1 = false ∧
    arrivalsOf arrived 1 0 2 = [aMessage .send 56#6] ∧ arrivalsOf arrived 1 0 3 = [] ∧
    arrivalValid arrived 1 0 (aMessage .send 56#6) = true ∧ handlerSlot arrived 1 0 2 = some 0 ∧
    handlerSlot (finished none) 1 0 2 = some 0 := by
  refine ⟨?_, ?_, ?_, ?_, ?_, ?_, ?_⟩ <;> decide +kernel
theorem witness_MessageArrival_continuation : let s := coreWith (fun k => { k with deque := [aCont] }) (finished none)
    (s.tenant 1).phase.issues = true ∧ tenantDet s 1 = false ∧ noArrivalWaits s 1 0 = true ∧ (s.coreOf 1 0).deque = [aCont] ∧
      freeSlots s 1 0 = [0] := by
  refine ⟨?_, ?_, ?_, ?_, ?_⟩ <;> decide +kernel

/-- All cores have arrived in an exchange phase, with one update to apply. -/
def updating : State := coreWith (fun k => { k with updates := [aMessage .rupd 0#6] })
  (thrWith (fun th => { th with status := .arrived }) baseX)
/-- Stream 5's mailbox is on core 0. -/
def mailing (f : Desc → Desc) : State := { both (fun d => { d with streams := [(5, f desc5)] })
  (coreWith (fun k => { k with sendq := [{ aMessage .mbxsend 0#6 with dest := 5 }], seq := 1#32 }) baseX) with agenda := [] }
def aCap (give : Bool) : CapMsg := { src := 0, slot := 0, give := give, region := 0x0000FE0004000000#64, frame := none, target := some 0 }
theorem witness_MessageDelivery : (updating.coreOf 1 0).updates[0]? = some (aMessage .rupd 0#6) ∧ updateDue updating 1 (aMessage .rupd 0#6) = true ∧
    granted (fun _ => true) (landHeld updating 1 0 0x100#20 8 (fun _ => List.replicate 8 1#8)) = true ∧
    ((mailing id).coreOf 1 0).sendq.map (fun m => (m.kind, m.dest, boxTurn (mailing id) 1 m, heldBehind (mailing id) 1 0 m)) =
      [(.mbxsend, 5, true, false)] ∧ boxLine (mailing id) 1 desc5 = .ok (0, 0) ∧
    granted (fun _ => true) (landHeld (mailing id) 1 0 0x840#20 64 (fun _ => List.replicate 64 1#8)) = true ∧
    ({ desc5 with state := 0#2 } : Desc).state ≠ 1#2 ∧ capHeld baseX 1 (aCap true) = false := by
  refine ⟨?_, ?_, ?_, ?_, ?_, ?_, ?_, ?_⟩ <;> decide +kernel
theorem witness_MessageDelivery_tables : let s := both (fun d => { d with
      raises := [(6, 5)], releases := [5], capMsgs := [aCap false, aCap true], streams := [(5, desc5), (6, { desc5 with parked := true })] }) baseX
    (s.dev 1).raises = [(6, 5)] ∧ (s.dev 1).releases = [5] ∧ (s.dev 1).capMsgs = [] ++ aCap false :: [aCap true] ∧
      (aCap false).done = false ∧ s.exchange = true := by
  refine ⟨?_, ?_, ?_, ?_, ?_⟩ <;> decide +kernel

def aToken : SeqSub := { pos := 2, forced := true, key := 0, token := 7, core := 0, slot := 0 }
def aMove : Migration := { sid := 5, port := 0, noticeCore := 0, noticeType := 3#6, core := 0, slot := 0, launch := 1 }
/-- Two agreeing submissions and one that differs; a sequence with a submission; a migration by port 0. -/
def rounds : State := { both (fun d => { d with
    finSubs := [chosen false 2, chosen false 1, { chosen false 1 with id := 8, k := 2 }], moves := [aMove]
    streams := [(5, { desc5 with migrating := true })], seqs := [(9, { recs := seqRecord, mask := 5, subs := [aToken] })] }) baseX with
  ports := [(0, { chans := [(4, { ltid := 1, ftid := 2, repl := false, fser := 0#64, met := true })] })] }
theorem witness_RoundsAndMigration : rounds.exchange = true ∧ (rounds.tenant 1).phase.issues = true ∧
    ((rounds.dev 1).seqs.find 9).map (fun q => q.subs.length) = some 1 ∧ (rounds.ports.get 0 {}).up = true ∧
    (rounds.dev 1).moves.find? (fun m => m.port == 0) = some aMove ∧
    (((rounds.flitGood 0).ports.get 0 {}).chans.find 4).map (·.ltid) = some 1 ∧ freeSid (rounds.flitGood 0) 0 = some 0 ∧
    (rounds.tenant 1).permit &&& 0xFFFFF#32 &&& 1#32 = 1#32 := by
  refine ⟨?_, ?_, ?_, ?_, ?_, ?_, ?_, ?_⟩ <;> decide +kernel
theorem witness_RoundsAndMigration_refused : ((tenantWith (fun t => { t with permit := 1#32 }) rounds).tenant 1).permit &&& 0xFFFFF#32 &&&
    2#32 ≠ 2#32 := by decide +kernel
theorem witness_ThreadIsolation : (Instr.li 1 12).hasWord = true ∧ ∃ t, exec (.li 1 12) base = .next t ∧ t.reg 1 = 12#64 :=
  ⟨by decide, next_of (by decide +kernel)⟩

/-! #### The host and the device -/

def dueNow (c : HostCmd) (s : State) : State := { s with opening := true, host := { s.host with due := [c] } }
theorem witness_HostCommands : (dueNow (cmd 0#8 1 []) base).opening = true ∧ (∀ op ∈ ([2, 4, 5, 6, 7, 8, 10, 13] : List (BitVec 8)),
      cmdTenant base (cmd op 1 []) = some 1 ∧ cmdTenant base (cmd op 9 []) = some 9) ∧ (base.tenants.find 1).isSome = true ∧
    base.tenants.find 9 = none ∧ (base.old 1).seqs.isEmpty = true ∧ (base.old 1).tasks.isEmpty = true ∧ hasLaunch base 1 = true ∧
    hasLaunch (launchWith (fun l => { l with live := false }) base) 1 = false := by
  refine ⟨?_, ?_, ?_, ?_, ?_, ?_, ?_, ?_⟩ <;> decide +kernel
theorem witness_HostCommands_bind : (cmd 11#8 0 [0x0141#64]).arg 0 % 128 = 65 ∧ (cmd 11#8 0 [0x0140#64]).arg 0 / 256 % 64 = 1 ∧
    (cmd 11#8 0 [0x8140#64]).arg 0 / 32768 % 2 = 1 ∧ (cmd 12#8 0 [0x1000B#64]).arg 0 % 16 = 11 ∧
    (cmd 12#8 0 [0x20001000B#64]).arg 0 / 2 ^ 33 % 2 = 1 ∧ (((channelled {}).ports.get 0 {}).chans.find 4).isSome = true ∧
    base.hbmRead 1 0 512 = none ∧ modelOfRecord base 1 [] = none := by
  refine ⟨?_, ?_, ?_, ?_, ?_, ?_, ?_, ?_⟩ <;> decide +kernel
/-- A model of one group on the rectangle of core 0, under launch 1, is admitted. -/
theorem witness_HostCommands_register : modelOfRecord (launchWith (fun l => { l with templates := [(64, [])] }) base) 1
    (0x0000000000040001#64 :: 1#64 :: List.replicate 62 0#64) ≠ none := by decide +kernel
theorem witness_HostCommands_report : let a : Attest := { cmd := cmd 5#8 1 [0#64, 0x2000#64], report := List.replicate 256 0#8 }
    ({ base.host with attests := [a] } : HostPort).attests = a :: [] := rfl

def fetched (c : HostCmd) (s : State) : State := { s with host := { s.host with cmds := [c] } }
theorem witness_TenantCommands_fetched : ((fetched (cmd 1#8 1 [0#64, 1#64]) base).host.cmds.find? (fun x => x.op == 1#8)) =
      some (cmd 1#8 1 [0#64, 1#64]) ∧ cmdTenant base (cmd 1#8 1 []) = some 1 ∧ (base.saves.find 1).isSome = false ∧
    (base.tenant 1).phase = .run ∧ ((tenantWith (fun t => { t with phase := .away }) base).tenant 1).phase = .away ∧
    ((fetched (cmd 3#8 1 [1#64]) base).host.cmds.find? (fun x => x.op == 3#8)) = some (cmd 3#8 1 [1#64]) ∧
    (base.launches.find 1).map (fun l => (l.live, l.tid)) = some (true, 1) ∧ base.launches.find 2 = none := by
  refine ⟨?_, ?_, ?_, ?_, ?_, ?_, ?_, ?_⟩ <;> decide +kernel
/-- A tenant in hold, and one whose save is complete and whose launches are not live. -/
def onHold : State := tenantWith (fun t => { t with phase := .held false, draining := true }) base
def restorable : State := { launchWith (fun l => { l with live := false }) base with
  saves := [(1, saved 0 true)], images := [saved 0 true] }
theorem witness_TenantCommands_due : isHeld onHold 1 = true ∧ (onHold.tenant 1).draining = true ∧ isHeld base 1 = false ∧
    targetOk 0x0000000002030000#64 8 = false ∧ targetOk 0x1000000#64 8 = true ∧ targetOwned onHold 1 (targetOf 0x1000000#64) = true ∧
    targetOwned onHold 1 (targetOf 0x1000005#64) = false ∧ mayRestore restorable (saved 0 true) = true ∧ mayRestore base (saved 0 true) = false ∧
    (saved 0 true).image.length = 8 ∧ restorable.hbmBytes (restorable.material (restorable.tenant 1).tableKey) 0 8 = (saved 0 true).image ∧
    ((saved 0 true).launches.map (·.1)).Nodup := by
  refine ⟨?_, ?_, ?_, ?_, ?_, ?_, ?_, ?_, ?_, ?_, ?_, ?_⟩ <;> decide +kernel
/-- A queue of 16 entries whose first entry holds PREEMPT; HBM is unmapped, a host's write is dropped. -/
def queueing (op : Byte) : State := { base with
  hostMem := Memory.writeBytes [] 0x5000 [op], host := { base.host with queues := [(3, { base := 5#52, en := true, tail := 1#16 })] } }
theorem witness_HostRegisters : (queueing 1#8).started = true ∧ (queueing 1#8).powered = true ∧
    ((queueing 1#8).host.queues.find 3).map (fun x => (x.en, x.head, x.tail, x.owner)) = some (true, 0#16, 1#16, 0) ∧
    leNat ((queueing 1#8).hostMem.readBytes 0x5000 1) = 1 ∧ leNat ((queueing 15#8).hostMem.readBytes 0x5000 1) = 15 ∧
    base.hbmRead 1 0 8 = none ∧ participates base 1 = true ∧ participates onHold 1 = false ∧ buffered base 0 = 0 := by
  refine ⟨?_, ?_, ?_, ?_, ?_, ?_, ?_, ?_, ?_⟩ <;> decide +kernel

/-- A group whose bank 3 has eight postponed refreshes, a hot die, a port with 64 failed replays. -/
def aged : State := { base with banks := [(7, { postponed := [(3, 8)] })], dies := [(2, { hot := 10, temp := 115 })]
                                ports := [(0, { fails := 64 }), (1, { up := false })] }
theorem witness_DeviceAgents : ((aged.banks.get (0 * 65536 + 7) {}).postponed.get 3 0 = 8) ∧ (aged.dies.get 2 {}).hot = 10 ∧
    (aged.dies.get 2 {}).temp = 115 ∧ (aged.ports.get 0 {}).fails = 64 ∧ (aged.ports.get 1 {}).up = false ∧
    base.tenants.any (fun p => !p.2.thermal) = true ∧ base.host.wearLow = false ∧ base.host.startCode = 0#8 ∧
    (streaming.com.map (fun d => (d.1, (d.2.streams.find 5).isSome, (d.2.tasks.find 9).isSome))) = [(1, true, true)] := by
  refine ⟨?_, ?_, ?_, ?_, ?_, ?_, ?_, ?_, ?_⟩ <;> decide +kernel

/-! #### Copies of frames, values, the engine -/

/-- A stream's thread of a packet, its segment table at 0x800, its window on its own frame. -/
def windowed : State := thrWith (fun th => { th with stream := 0x80000005#64, origin := 1 }) (bytesAt 0x10 [1#8, 2#8]
  (coreWith (fun k => { k with packets := [(0, { launch := 1, model := 0, group := 0, sids := [5] })] })
    (both (fun d => { d with streams := [(5, desc5)], ctl := d.ctl.writeBytes 0 (natLe 8 (8 * 2 ^ 28)) }) base)))
theorem witness_StoreChecks_copy : windowed.memWf = true ∧ 0x80000 ≤ (0x80010#20).toNat ∧ segTable windowed 1 0 windowed.thr = some 0x800 ∧
    (let u := copyFrame windowed 0x80010#20 0 1 (some 5)
     (u.dev 1).vault.readBytes 0x1010 2 = [1#8, 2#8] ∧ (u.dev 1).vault.readNat 0x800 2 = 0x101 ∧ u.here.copied = [1] ∧
       u.here.drops.get 0 0 = 1 ∧ (u.here.frame 0 = windowed.here.frame 0)) ∧
    (let u := copyFrame windowed 0x10#20 0 1 none
     (u.dev 1).vault.readBytes 0x1010 2 = [1#8, 2#8] ∧ (u.here.frame 1).getLsbD 7 = true ∧ (u.here.frame 0).getLsbD 7 = false) := by
  decide +kernel

theorem witness_FloatCorners_values : signedValue 12 (-149) 0x40000000 = 2 * 2 ^ 149 ∧ (signedValue 12 (-149) 0x40000000 : Int) = 2 ^ 150 ∧
    leastExp 12 = -149 ∧ (0 : Int) < signedValue 12 (-149) 0x3F800000 ∧ 0x3F800000 % 2 ^ 31 ≤ maxCode 12 ∧ infCode 12 = some 0x7F800000 ∧
    0xC0000000 % 2 ^ 31 ≤ maxCode 12 := by decide +kernel
theorem witness_Conversions_values : isNan 12 0x7FE80001 = true ∧ infCode 11 = some 0x7C00 ∧ 0x3C00 ≤ maxCode 11 ∧
    0x7FE80001 / 2 ^ 20 % 8 = 6 ∧ 0x7FE80001 / 2 ^ 16 % 16 = 8 ∧ isNan 9 0x7F = true ∧ isNan 12 0x7FC00000 = true := by decide +kernel
theorem witness_Conversions_blocks : ((List.replicate 31 0 ++ [0x3F800000]).length = 32) ∧
    (∀ c ∈ List.replicate 31 0 ++ [0x3F800000], c % 2 ^ 31 < 0x7F800000) ∧ (∃ c ∈ List.replicate 31 0 ++ [0x3F800000], c % 2 ^ 31 ≠ 0) ∧
    (quantise 0 (fun _ => 0) (List.replicate 31 0 ++ [0x3F800000])).scale = 125 := by decide +kernel
/-- A tree of two elements, the second masked off. -/
theorem witness_ComparesAndReductions_tree : let es : List (Option Nat) := [some 0x3F800000, none]
    let lv (k i : Nat) : Nat := if k = 0 then [0x3F800000, 0x80000000].getD i 0x80000000 else 0x3F800000
    es.length = 2 ^ 1 ∧ (∀ i < 2 ^ 1, lv 0 i = match es.getD i none with
        | none => 0x80000000
        | some c => (convert 12 12 0 0 c).code) ∧
      (∀ k < 1, ∀ i < 2 ^ (1 - k - 1), lv (k + 1) i = (fAdd 12 0 0 false (lv k (2 * i)) (lv k (2 * i + 1))).code) ∧
      (reduceFloat .sum 12 0 0 es).code = 0x3F800000 := by decide +kernel

theorem witness_MatrixOperations_multiply : (∀ i ∈ [Instr.mma 0 1 2 0 0 1, .mmat 0 1 2 0 0 1, .mconv 0 1 2 0 0 1, .mma 0 1 2 5 5 0,
      .mmat 0 1 2 6 6 0], (anOp i).prog = none ∧ comboOk i = true) ∧ granted (fun _ => true) (loadRange base 0#20 1) = true ∧
    loadRange base 0x1000#20 1 = .trap (unmapped 0x1000#20) ∧
    (let o := { anOp (.mma 0 1 2 0 0 1) with a := 0x1000000000#64 }
     after (fun t => accWord t 0 0 0) (.next (runMatrix o (bytesAt 0 [3#8, 0xFE#8] base))) = some 3) := by decide +kernel
theorem witness_MatrixOperations_units : let o := anOp (.mma 0 1 2 0 0 1)
    (o.place base).row < o.engine.rows ∧ granted (fun v => decide (v.1.thr = base.thr)) (o.engine.unit (o.place base) base) = true := by
  decide +kernel
theorem witness_MatrixElements_step : let ps : List (Elem × Elem) := [({ code := 0x38 }, { code := 0xB8 })]
    ps ≠ [] ∧ isNan 12 0x3F800000 = false ∧ (∀ p ∈ ps, isNan 8 p.1.code = false ∧ isNan 8 p.2.code = false ∧ infCode 8 = none) ∧
      floatStep 8 8 0x3F800000 ps = { code := 0 } ∧ 0x7F800000 % 2 ^ 31 = 0x7F800000 ∧
      (floatStep 9 9 0 [({ code := 0x7C }, { code := 0 })]).flags = flagNV ∧ isNan 9 0x7F = true := by decide +kernel
/-- A shaped copy of 32 bytes from 0x300 to itself, and one of a block of mx4. -/
theorem witness_Copies_shaped : let o := { aCopy with instr := .cpysh 1 2 3 4, b := 32#64, recs := wordsOf (shapeBytes 0 32 1 0x300 0 ++
      shapeBytes 0 32 1 0x300 0) }
    o.done = none ∧ (Shape.ofBytes (bytesOf (o.recs.take 4))).fmt = 0 ∧ (Shape.ofBytes (bytesOf (o.recs.drop 4))).fmt = 0 ∧
      (Shape.ofBytes (bytesOf (o.recs.take 4))).index 31 = some [31, 0, 0, 0] ∧
      granted (fun bs => bs.length == 1) (loadBytes base 0x31F#20 1) = true ∧
      granted (fun _ => true) (storeAll base ((List.range 32).map (fun j => (0x300#20 + BitVec.ofNat 20 j, [0#8])))) = true ∧
      (Shape.ofBytes (shapeBytes 13 64 0 0x300 (0x400 * 2 ^ 12))).fmt = 13 ∧ 32 % 32 = 0 := by decide +kernel
theorem witness_Copies_first : (∀ d ∈ copying.cur, (∀ x ∈ (d.2.core 0).cq, aCopy.order ≤ x.order) ∧
      ∀ x ∈ (d.2.core 0).xq, x.injected = false → aCopy.order ≤ x.order) ∧
    (let s := coreWith (fun k => { k with cq := [{ aCopy with order := 5 }], xq := [aPut] }) base
     ¬∀ d ∈ s.cur, ∀ x ∈ (d.2.core 0).xq, x.injected = false → 5 ≤ x.order) := by decide +kernel

/-! #### Requests, HALT -/

theorem witness_Requests_alone : (∀ th ∈ streaming.slotHere.allThreads, th.open = none) ∧
    (∀ y ∈ streaming.here.slots, ∀ th ∈ y.2.allThreads, th.open = none) ∧ (streaming.dev 1).priv = [] := by decide +kernel
/-- Slot 0's SACTADD was issued in step 9, slot 1's for the same stream in step 3. -/
def adding (n : Nat) : Thread := { live := true, launch := 1, status := .asking { instr := .sactadd 1 2, g := [5#64, BitVec.ofNat 64 n], recs := [] } }
def addsWait : State := coreWith (fun k => { k with slots := [(0, { thread := adding 9 }), (1, { thread := adding 3 })] }) streaming
theorem witness_Requests_order : addsWait.slotHere.allThreads.filter (fun y => y.open.isSome) = [adding 9] ∧
    (∃ y ∈ addsWait.here.slots, y.2.thread = adding 3) ∧
    after (fun t => t.slotHere == addsWait.slotHere) (exec (.streamTableRequest 1 0 0) addsWait) = some true := by decide +kernel
theorem witness_TrapIdleHalt_record : (∃ l, base.launches.find base.thr.launch = some l ∧ ¬(l.written.toNat < l.entries)) ∧
    Issues (.halt 1) base ∧ Cause.software.code = 0x18 ∧
    after (fun t => (t.launches.find 1).map (fun l => (l.failed, l.dropped))) (exec (.halt 1) base) = some (some (true, 1#32)) := by
  refine ⟨⟨_, rfl, by decide +kernel⟩, ?_, ?_, ?_⟩ <;> decide +kernel

/-! #### What a boundary does -/

theorem witness_PhaseEvents_boundary : base.opening = false ∧ boundaryDue base = false ∧
    (let s := thrWith (fun th => { th with status := .arrived }) base
     boundaryDue s = true ∧ s.host.cmds = []) ∧
    (let s : State := { thrWith (fun th => { th with status := .arrived }) base with host := { base.host with cmds := [cmd 5#8 1 []] } }
     boundaryDue s = true ∧ s.host.cmds.filter (fun c => c.op != 1#8 && c.op != 3#8) ≠ []) ∧
    ({ base with opening := true } : State).host.due = [] ∧ (dueNow (cmd 0#8 1 []) base).host.due ≠ [] := by decide +kernel
def ending (p : TPhase) : State := tenantWith (fun t => { t with phase := p }) (slotWith (fun x => { x with
  v := [(1, 5#1024)], latcnt := 9#64, thread := { x.thread with status := .idle 3 } }) (coreWith (fun k => { k with
    queues := [(0, [1#64])], sems := [(0, 3#32)] }) base))
theorem witness_PhaseEvents_ends : ((ending .run).tenant 1).phase = .run ∧ ((ending .run).tenant 1).replica = none ∧
    ((ending .run).tenant 1).debugWrites = [] ∧ (let k := (endPhaseOf 1 (ending .run)).coreOf 1 0
     k.queues = [] ∧ k.sems = [(0, 3#32)] ∧ (k.slot 0).v = [] ∧ (k.slot 0).thread.status = .idle 2) ∧
    ((ending (.voiding false)).tenant 1).phase = .voiding false ∧ ((ending (.voiding false)).tenant 1).halted = [] ∧
    (let u := endPhaseOf 1 (ending (.voiding false))
     (u.coreOf 1 0).sems = [] ∧ ((u.coreOf 1 0).slot 0).latcnt = 9 ∧ (u.tenant 1).phase = .sitout false) := by decide +kernel
def shadowed : State := coreWith (fun k => { k with shadows := [(0, 1)] })
  { bytesAt 0x10 [1#8] base with cur := (bytesAt 0x10 [9#8] base).cur }
theorem witness_PhaseEvents_shadow : (shadowed.dev 1).vault.wf = true ∧ (shadowed.old 1).vault.wf = true ∧
    ((shadowed.dev 1).cores.map (fun k => (k.1, k.2.shadows)) = [(0, [(0, 1)])]) ∧
    (let s := swapShadows 1 shadowed
     (s.dev 1).vault.readBytes 0x10 1 = [9#8] ∧ (s.dev 1).vault.readBytes 0x1010 1 = [1#8]) ∧
    [(7, false, 0x10)].Perm (both (fun d => { d with lines := [(7, false, 0x10)] }) base |>.dev 1).lines := by
  refine ⟨?_, ?_, ?_, ?_, ?_⟩ <;> decide +kernel
/-- Messages for frame 0 of core 0: given by its core, or asked for by cores 9 and 4 where nobody holds it. -/
def given (target : Option Nat) : CapMsg :=
  { src := 0, slot := 0, give := true, region := 0x0000FE0000000000#64, frame := some 0, target := target, done := true }
def asked (src : Nat) : CapMsg :=
  { src := src, slot := 0, give := false, region := 0x0000FE0000000000#64, frame := none, target := none, done := true }
def capping (held : Bool) (ms : List CapMsg) : State := both (fun d => { d with capMsgs := ms, cores := d.cores.map (fun k =>
  (k.1, k.2.setFrame 0 (mkFm 0 true true true false false 1 0 held 1))) }) baseX
theorem witness_PhaseEvents_regions : (∀ s ∈ [capping true [given (some 7)], capping false [asked 9, asked 4]],
      ∀ x ∈ (s.dev 1).capMsgs, x.done = true ∧ capKey s 1 x = some (.frame 0 0)) ∧
    ((((commitCaps 1 (capping true [given (some 7)])).coreOf 1 0).frame 0).extractLsb' 18 12 = 7#12) ∧
    ((((commitCaps 1 (capping false [asked 9, asked 4])).coreOf 1 0).frame 0).extractLsb' 18 12 = 4#12) ∧
    ((((capping false [asked 9, asked 4]).old 1).core 0).frame 0).getLsbD 30 = false := by decide +kernel
theorem witness_PhaseEvents_launch : readPlan base 9 0 = .fails 8 ∧ readPlan base 1 1 = .malformed ∧ readPlan base 1 0 = .malformed := by
  decide +kernel
/-- A descriptor of 1,024 bytes, of the image at 0x1000, on core 0: which of its checks fails first. -/
theorem witness_PhaseEvents_plan : let p : Plan := { tid := 1, desc := [], image := { bytes := [], head := [], recs := [] }, cores := [0] }
    p.image.recs.all (recordOk base 1 [0]) = true ∧ (p.starts &&& p.slots) = p.starts ∧ p.priv = false ∧ p.tmode ≠ 3 := by decide +kernel
def starting : State := both (fun d => { d with toStart := [1] })
  (launchWith (fun l => { l with entry := 0x43#20, sh := [7#64, 8#64], trapvec := 0x203#64 }) (finished none))
theorem witness_PhaseEvents_start : (starting.dev 1).toStart = [1] ∧ (starting.launchOf 1).tid = 1 ∧ 0 ∈ (starting.launchOf 1).cores ∧
    (starting.launchOf 1).starts.getLsbD 0 = true ∧ (starting.launchOf 1).slots.getLsbD 0 = true ∧
    (let y := ((startLaunchThreads 1 starting).coreOf 1 0).slot 0
     y.sh = [(0, 7#64), (1, 8#64)] ∧ y.trapvec = 0x200#64 ∧ y.thread.pc = 0x40#20) ∧
    ((tenantWith (fun t => { t with phase := .sitout false }) starting).tenant 1).phase = .sitout starting.exchange := by decide +kernel
def packed : State := coreWith (fun k => { k with packets := [(0, { launch := 1, model := 0, group := 0, sids := [5] })] }) (finished none)
def levelZero : State := coreWith (fun k => { k with arrq := [aMessage .send 0#6] }) (both (fun d => { d with
  ctl := d.ctl.writeBytes 0x3000 (natLe 8 0x400040) }) (finished none))
theorem witness_PhaseEvents_dispatch : (waitingPackets packed 1 0).map (·.1) = [0] ∧ freeSlots packed 1 0 = [0] ∧
    waitingPackets levelZero 1 0 = [] ∧ freeSlots levelZero 1 0 = [0] ∧ arrivalsOf levelZero 1 0 0 = [aMessage .send 0#6] ∧
    arrivalValid levelZero 1 0 (aMessage .send 0#6) = true ∧
    (∀ lv ∈ [1, 2, 3], arrivalsOf packed 1 0 lv = [] ∧ arrivalsOf levelZero 1 0 lv = []) ∧
    (((startCore 1 0 packed).coreOf 1 0).slot 0).thread.origin = 1 ∧
    (((startCore 1 0 levelZero).coreOf 1 0).slot 0).thread.pc = 0x40#20 := by decide +kernel
/-- Streams 5 and 6 wait at group 0 of a model on core 0; 6 has waited for three phases. -/
def batching : State := tenantWith (fun t => { t with models := [(0, { groups := 1, rects := [0#24], b := 2, bmin := 1, a := 1, launch := 1 })] })
  (bytesAt 0x900 (natLe 4 4096) (both (fun d => { d with
    streams := [(5, { desc5 with segrec := 0x900#20 }), (6, { desc5 with segrec := 0x900#20, age := 3#16 })] }) (finished none)))
theorem witness_PhaseEvents_batch : (batching.dev 1).streams.all (streamWaits (batching.dev 1) 0 0) = true ∧
    (batching.launchOf 1).live = true ∧ (batching.coreOf 1 0).packets.find 0 = none ∧
    (((batchGroup 1 0 { groups := 1, rects := [0#24], b := 2, bmin := 1, a := 1, launch := 1 } 0 batching).coreOf 1 0).packets.map
      (fun q => (q.1, q.2.sids))) = [(0, [6, 5])] := by decide +kernel
def late : State := tenantWith (fun t => { t with traps :=
    [{ core := 0, slot := 0, cause := .straggler, val := 7#64, aux := 0x10004#64, rank := 4 }] })
  (slotWith (fun x => { x with trapvec := 0x200#64 }) base)
theorem witness_PhaseEvents_late : (late.tenant 1).traps.map (fun q => (q.core, q.rank, q.aux.toNat.testBit 16)) = [(0, 4, true)] ∧
    liveSlots (late.coreOf 1 0) = [0] ∧ late.slotHere.handlers = [] ∧ late.thr.level = 0 ∧ late.thr.frame = none ∧
    (let y := ((takePending 1 late).coreOf 1 0).slot 0
     y.h = true ∧ y.trapval = 7#64 ∧ y.thread.pc = 0x200#20) := by decide +kernel
theorem witness_PhaseEvents_pair : let s : State := { paired with ports := [(0, { chans := [(4, { ltid := 1, ftid := 2, repl := true, fser := 9#64 })] })] }
    ((s.ports.get 0 {}).chans.find 4).map (fun ch => (ch.repl, ch.ltid, ch.ftid, ch.fser)) = some (true, 1, 2, 9#64) ∧
    after (fun t => (t.tenant 1).replica.map (fun r => r.partner.length))
      (exec (.replicaFlit { chan := 4, tid := 2, serial := 9#64, ftid := 1, here := true } 0#64 false 5#64) s) = some (some 1) := by
  decide +kernel

/-! #### Transfers, links, messages, rounds -/

theorem witness_LinksAndBarriers_own : globalOf 0x0000FE0000000100#64 = .vault 0 0x100#20 ∧
    hldBytes (regs [(3, 0x0000FE0000000100#64)] baseX) 1 0 0x0000FE0000000100#64 8 = .ok (List.replicate 8 0#8) ∧
    (portDone 1 0 baseX).actor = baseX.actor ∧ Issues (.xhld 1 3 3) (regs [(3, 0x0000FE0000000100#64)] baseX) := by
  refine ⟨?_, ?_, ?_, ?_⟩ <;> decide +kernel
/-- Nothing of the put has left the copy queue, and nothing stands before it; then its unit is on its way. -/
theorem witness_TransferSteps_inject : ((putting 0 3).coreOf 1 0).xq.all (fun o => o.flight.isEmpty && !o.injected) = true ∧
    (∀ d ∈ (putting 0 3).cur, (d.2.core 0).cq = [] ∧ ∀ x ∈ (d.2.core 0).xq, 0 ≤ x.order) ∧
    (let s := coreWith (fun k => { k with xq := k.xq.map (fun o => { o with flight := [List.replicate 64 1#8], injected := true }) }) (putting 0 3)
     (s.coreOf 1 0).xq.all (fun o => o.flight.length == 1 && (unitsOf s 1 0 o).all (fun u => !unitBlocked s 1 0 o u)) = true) := by
  refine ⟨?_, ?_, ?_⟩ <;> decide +kernel
/-- A piece of eight bytes in the loop-back port, the last of its transfer. -/
def aPiece : PortWrite := { id := 0, slot := 0, ctx := {}, addr := 0x200#20, data := List.replicate 8 7#8, last := true }
def aReceive : LinkOp :=
  { id := 0, order := 0, slot := 0, level := 0, sends := false, d := 6, addr := 0x200#64, ctl := 0x104000008#64, link := 0#64
    far := some (8, aPiece.data), landing := true }
def porting : State := coreWith (fun k => { k with port := [aPiece], links := [aReceive] }) baseX
theorem witness_LinkEvents_port : aPiece ∈ (porting.coreOf 1 0).port ∧
    (porting.coreOf 1 0).links.find? (fun y => y.id == 0) = some aReceive ∧ aReceive.id = aPiece.id ∧
    ((landPort 1 0 aPiece porting).coreOf 1 0).links = [] ∧
    ((landPort 1 0 aPiece porting).slotOf { tid := 1 }).thread.g.get 6 0#64 = 8#64 ∧
    granted (fun _ => true) (landVault porting 1 0 0 aPiece.ctx true aPiece.addr 8 (fun _ => aPiece.data)) = true ∧
    ((landPort 1 0 aPiece porting).dev 1).vault.readBytes 0x200 8 = aPiece.data ∧
    ((landPort 1 0 aPiece porting).coreOf 1 0).sems.get 0 0#32 = 2#32 := by
  refine ⟨?_, ?_, ?_, ?_, ?_, ?_, ?_, ?_⟩ <;> decide +kernel
theorem witness_LinkEvents_named : let ch : Channel := { ltid := 1, ftid := 2, repl := false, fser := 0#64 }
    let far : FarEnd := { chan := 4, serial := 0#64, tid := 2, ftid := 1, here := true }
    ch.ftid = far.tid ∧ ch.fser = far.serial ∧ ch.ltid = far.ftid ∧ far.here = true ∧
      ¬(ch.ftid = ({ far with tid := 3 } : FarEnd).tid) := by decide
theorem witness_MessageArrival_out : let s := tenantWith (fun t => { t with phase := .held true }) (posted id (aMessage .rupd 0#6))
    (s.tenant 1).phase = .held true ∧ s.exchange = true ∧ (s.coreOf 1 0).sendq.find? (fun m => m.tried != some s.phase) =
      some (aMessage .rupd 0#6) := by decide +kernel
theorem witness_MessageDelivery_span : 0x840 % 64 + (List.replicate 64 1#8).length ≤ 64 ∧ 0xFFE % 64 + 2 ≤ 64 := by decide

/-- Cores 0 and 33 submit two elements and one, added as unsigned numbers; one core two candidates of equal keys. -/
def adds : List FinSub := [{ chosen true 1 with core := 33, items := [5#64] }, { chosen true 2 with items := [1#64, 2#64] }]
theorem witness_RoundsAndMigration_tree : (∀ y ∈ adds, y.core < 3072) ∧
    (adds.filterMap (fun y => (y.items[0]?).map (fun v => ((y.core % 64 / 32 + 2 * (y.core / 64 / 24)) * 768 + y.core / 64 % 24 * 32 + y.core % 32,
      v.toNat)))).Perm [(0, 1), (769, 5)] ∧ [(0, 1), (769, 5)].Pairwise (fun a b => a.1 < b.1) ∧
    (finRound true adds).items = [6#64, 2#64] ∧ (finRound true adds).conflict = false := by
  refine ⟨?_, ?_, ?_, ?_, ?_⟩ <;> decide +kernel
theorem witness_RoundsAndMigration_select :
    (finRound true [{ chosen false 0 with k := 2, items := [0x0000000200000007#64, 0x0000000100000007#64, 0x0000000000000009#64] }]).items =
      [0x0000000000000009#64, 0x0000000100000007#64] := by decide +kernel
def joined (child : Nat) (ret : BitVec 32) (op : Nat) : JoinSub := { child := child, ret := ret, op := op, keep := 1 }
/-- The greatest RETURN, the sum, the mean of two children; one kept. -/
theorem witness_RoundsAndMigration_join : joinOf [joined 3 0x40000000#32 0, joined 4 0x40800000#32 0] = (0x40800000#32, [3]) ∧
    joinOf [joined 3 0x40000000#32 1, joined 4 0x40800000#32 1] = (0x40C00000#32, [3]) ∧
    joinOf [joined 3 0x40000000#32 2, joined 4 0x40800000#32 2] = (0x40400000#32, [3]) ∧
    (both (fun d => { d with joinRes := [(5, 0x3F800000#32, [6])] }) streaming |>.dev 1).joinRes = [(5, 0x3F800000#32, [6])] := by
  decide +kernel
theorem witness_RoundsAndMigration_arrival : let s := rounds
    let x : StreamArrival := { far := { chan := 4, serial := 0#64, tid := 2, ftid := 1, here := true }, desc := [], segments := [] }
    (((s.flitGood 0).ports.get 0 {}).chans.find x.far.chan).map (fun ch => (ch.ltid, ch.ftid, ch.fser)) = some (1, x.far.tid, x.far.serial) ∧
      modelOfRecord s 1 [] = none := by decide +kernel

/-! #### Isolation, the host, the device -/

theorem witness_ThreadIsolation_record : (base.launches.find 1).isSome = true ∧ (base.tenant 1).root = none ∧
    (∀ va < 2, granted (fun _ => true) (match base.walk 1 va with | .ok l => .ok l | _ => .lost 0#64) = false) := by decide +kernel
theorem witness_HostRegisters_reads : let s := queueing 1#8
    (s.host.queues.get 3 {}).owner = 0 ∧ bar0Read s 0 0x10C0 = some 0x5000#64 ∧ bar0Read s 0 0x10D0 = some 1#64 ∧
    bar0Read s 7 0x10C0 = some 0#64 := by decide +kernel
theorem witness_DeviceAgents_frames : (∃ d ∈ base.com, ((d.2.core 0).frame 0).getLsbD 8 = true) ∧
    ¬(∃ d ∈ base.com, ((d.2.core 9).frame 0).getLsbD 8 = true) := by decide +kernel
theorem witness_DeviceAgents_start : (∀ x ∈ ({ failStep := 0, failCode := 0, images := [], lostPassed := [] } : StartEnv).images,
      slhVerify imageKey x.image x.sig = true) ∧ base.powered = true ∧ base.host.startCode = 0#8 ∧
    ({ base with host := { base.host with warming := some (cmd 14#8 0 [], 0, 0) } } : State).host.warming.isSome = true := by
  refine ⟨?_, ?_, ?_, ?_⟩ <;> decide +kernel

/-! #### Clauses of checks and refusals -/

/-- REP's only captured word at address 4 is a branch; 0 is no word of R69's majors either. -/
theorem witness_RepeatAndPrefix_captured : fetchHere (code 4 [0x24000001#32] base) 4#20 = .ok 0x24000001#32 ∧
    issuesB (.rep 0 0 0 0 1 0) base = true ∧
    (0#32).extractLsb' 26 6 = 0#6 ∧ ((0x24000001#32).extractLsb' 26 6).toNat = 0x09 := by
  refine ⟨?_, ?_, ?_, ?_⟩ <;> decide +kernel
theorem witness_RepeatAndPrefix_unmapped : let s := thrWith (fun th => { th with pc := 0xFFC#20 }) base
    issuesB (.rep 0 0 0 0 1 0) s = true ∧ fetchHere s 0x1000#20 = .trap (unmapped 0x1000#20) := by
  refine ⟨?_, ?_⟩ <;> decide +kernel
theorem witness_RepeatAndPrefix_traps : after (fun t => (t.slotHere.cause, t.slotHere.trapval)) (exec (.rep 0 0 0 0 1 0)
      (slotWith (fun x => { x with trapvec := 0x200#64 }) (code 4 [0x24000001#32] base))) =
      some (BitVec.ofNat 64 Cause.illegalInstruction.code, 0x24000001#64) := by decide +kernel
/-- A window page whose segment-table entry is valid leads to its frame. -/
theorem witness_LocalLoads_window : let s := bytesAt 0x800 [1#8, 1#8] windowed
    0x80 ≤ (0x80010#20).toNat / 4096 ∧ s.thr.stream.getLsbD 31 = true ∧ s.thr.level = 0 ∧ s.thr.origin = 1 ∧
      ((s.old 1).streams.get 5 {}).state ≠ 0#2 ∧
      (xlate s 1 0 s.thr 0x80010#20 = if (s.here.frame 1).getLsbD 8 && !(s.here.frame 1).getLsbD 11 then some (.vault 1 0x10) else none) ∧
      xlate (coreWith (fun k => k.setFrame 1 (mkFm 0 false true true false false 1 0 true 1)) s) 1 0 s.thr 0x80010#20 =
        some (.vault 1 0x10) := by decide +kernel
/-- 300 and -129 do not fit i8. -/
theorem witness_Conversions_range : convert 1 0 0 0 300 = { code := 127, flags := flagCL ||| flagNX ||| flagOF } ∧
    convert 1 0 0 0 (2 ^ 16 - 128) = { code := 128 } ∧
    convert 1 0 0 0 (2 ^ 16 - 129) = { code := 128, flags := flagCL ||| flagNX ||| flagOF } := by decide +kernel
/-- MZERO after ERET's mark starts at row RPROG.DONE. -/
theorem witness_MatrixOperations_mark : let s := slotWith (fun x => { x with rprog := 0x80000001#64 }) base
    (s.slotHere.rprog.extractLsb' 0 24).toNat = 1 ∧
    (runMatrix { anOp (.mzero 0) with resume := true } s).slotHere.rprog = 1#64 := by decide +kernel
theorem witness_TransferIssue_far : let s := regs [(2, 0x0000FE0000000200#64)] moving
    Issues (.xput 1 2 3) s ∧ 2 ^ 20 ≤ (s.reg 2).toNat ∧ vaultRange (s.reg 1) 64 = true ∧
    after (fun t => (t.slotHere.cause, t.slotHere.trapval, t.slotHere.trapaux)) (exec (.xput 1 2 3)
      (slotWith (fun x => { x with trapvec := 0x200#64 }) s)) =
      some (BitVec.ofNat 64 Cause.translation.code, 0x0000FE0000000200#64, 1#64) := by
  refine ⟨?_, ?_, ?_, ?_⟩ <;> decide +kernel
/-- A handler over a thread in a link transfer issues another. -/
theorem witness_LinksAndBarriers_second : let s := thrWith (fun th => { th with status := .ready }) (linking (aLink true none))
    Issues (.xlsend 9 1 2 3) s ∧ (∃ l ∈ s.here.links, l.slot = s.actor.slot) ∧ channelOf s 0 1 = some 4 ∧
      localRange s 0x200#20 64 = .ok () := by
  refine ⟨?_, ?_, ?_, ?_⟩ <;> decide +kernel
/-- A put of no bytes that signals core 0, which owns semaphore 3, or does not. -/
theorem witness_TransferSteps_none : let s := coreWith (fun k => { k with xq := k.xq.map (fun o =>
      { o with b := BitVec.ofNat 64 (3 * 2 ^ 27 + 2 ^ 32), injected := true }) }) (putting 0 3)
    (s.coreOf 1 0).xq.all (fun o => (unitsOf s 1 0 o).isEmpty && o.b.getLsbD 32 && o.injected && (globalOf o.d == .vault 0 0x100#20)) = true ∧
    (s.coreOf 1 0).share.sem.getLsbD 3 = true ∧
    ((coreWith (fun k => { k with share := { k.share with sem := 1#32 } }) s).coreOf 1 0).share.sem.getLsbD 3 = false := by
  refine ⟨?_, ?_, ?_⟩ <;> decide +kernel
theorem witness_LinkEvents_stopped : let l := { aLink true (some (64, List.replicate 64 7#8)) with stopped := true }
    ((linking l).coreOf 1 0).links.find? (fun x => x.slot == 0) = some l ∧ l.stopped = true ∧
    after (fun t => t.thr.status) (exec (.linkPartnerStop 1 0 0 8) (linking l)) = some .engine ∧
    after (fun t => t.thr.status) (exec (.linkPartnerStop 1 0 0 8)
      { linking (aLink true (some (64, List.replicate 64 7#8))) with ports := [(0, { up := false })] }) = some .engine := by
  refine ⟨?_, ?_, ?_, ?_⟩ <;> decide +kernel
theorem witness_Finial_traps : let s := regs [(2, 0x204#64)] selecting
    let z := regs [(3, 0#64)] selecting
    let m := regs [(3, 65#64)] selecting
    (∀ i ∈ [Instr.selsub 1 2 3 4, .redsub 1 2 3 4], Issues i s ∧ Issues i z ∧ Issues i m) ∧ (s.reg 2).toNat % 8 ≠ 0 ∧
    (z.reg 2).toNat % 8 = 0 ∧ (z.reg 3).toNat = 0 ∧ 64 < (m.reg 3).toNat := by
  refine ⟨?_, ?_, ?_, ?_, ?_⟩ <;> decide +kernel
/-- g2 is a sequence, g3 one that is not configured, g5 no aligned address; the list at 0x240 names position 0, and position 64. -/
theorem witness_Oculus_traps : let s := bytesAt 0x248 (natLe 8 (64 * 2 ^ 32)) sequencing
    Issues (.umsub 2 5 8) s ∧ (s.reg 5).toNat % 8 ≠ 0 ∧ Issues (.umsub 3 9 8) s ∧ (s.old 1).seqs.find 4094 = none ∧
    Issues (.umsub 8 9 8) s ∧ seqOutside s (s.reg 8) = true ∧ Issues (.umsub 2 9 10) (regs [(10, 2#64)] s) ∧
    loadBytes s 0x240#20 8 = .ok (List.replicate 8 0#8) ∧ loadBytes s 0x248#20 8 = .ok (natLe 8 (64 * 2 ^ 32)) := by
  refine ⟨?_, ?_, ?_, ?_, ?_, ?_, ?_, ?_, ?_⟩ <;> decide +kernel

/-- A page of HBM that a pool holds; a count of sequences and a size that are out of range; a key of the tenant. -/
theorem witness_Privileged_refusals : let s := both (fun d => { d with pool := [(1, 4096)] }) ruling
    pagePooled s 1 1 = true ∧ (0x1000#64).extractLsb' 12 29 = 1#29 ∧ (3#64).extractLsb' 0 2 = 3#2 ∧
    4096 < ((0x10000FFF#64).extractLsb' 0 12).toNat + ((0x10000FFF#64).extractLsb' 16 13).toNat ∧
    poolAddRefused s 0x1000#64 = true ∧ poolAddRefused s 0x2000#64 = false ∧
    privRefused s { order := 0, instr := .modesetFrameMap 9 3, tid := 1, core := 0, arg := 0#64, recs := [0#64, 0x2100#64] } = true ∧
    privRefused s { order := 0, instr := .modesetFrameMap 9 3, tid := 1, core := 0, arg := 0#64, recs := [0#64, 0x1100#64] } = false ∧
    privRefused s { order := 0, instr := .modesetLeaf 9 3, tid := 1, core := 0, arg := 0#64, recs := List.replicate 4 0#64 } = true := by
  refine ⟨?_, ?_, ?_, ?_, ?_, ?_, ?_, ?_, ?_⟩ <;> decide +kernel

/-! #### Clauses of the boundary, of messages and of the host -/

/-- Where the thread has arrived a boundary is due; one slot at work holds it up. -/
theorem witness_PhaseEvents_due : let s := thrWith (fun th => { th with status := .arrived }) base
    boundaryDue s = true ∧ boundaryDue base = false ∧ participates s 1 = true ∧ (s.tenant 1).phase = .run ∧
    (s.tenant 1).replica = none ∧ freeLaunch s 1 = some 64 ∧
    freeLaunch { s with launches := (List.range 64).map (fun i => (64 + i, { s.launchOf 1 with live := true })) } 1 = none := by
  refine ⟨?_, ?_, ?_, ?_, ?_, ?_, ?_⟩ <;> decide +kernel
/-- A byte landed for a frame's holder is in the vault after the commit, not before. -/
theorem witness_PhaseEvents_later : let s := both (fun d => { d with later := [(0x100, 7#8)] }) base
    (s.dev 1).vault.wf = true ∧ ((s.dev 1).later.map (·.1)).Nodup ∧ (s.dev 1).vault.read 0x100 = 0#8 ∧
    ((settleLater 1 s).dev 1).vault.read 0x100 = 7#8 := by decide +kernel
/-- The line of the mailbox's counts lies in no mapped page; the entry lands beside the vault. -/
theorem witness_MessageDelivery_line : (∃ tr, boxLine (mailing (fun d => { d with mbx := 0x1800#20 })) 1 { desc5 with mbx := 0x1800#20 } =
      .trap tr) ∧ desc5.mbx.toNat + 64 + 64 * 4 ≤ 0x7C000 ∧
    globalPlace (mailing id) 1 0 0 0x840#20 = some (.vault 0 0x840) ∧
    granted (fun u => ((u.dev 1).later.find 0x840 == some 1#8) && ((u.dev 1).vault.read 0x840 == 0#8))
      (landHeld (mailing id) 1 0 0x840#20 8 (fun _ => List.replicate 8 1#8)) = true ∧
    updateResult 6 4 0x3F800000 0x40000000 = 0x40400000 := by
  refine ⟨⟨_, rfl⟩, ?_, ?_, ?_, ?_⟩ <;> decide +kernel
/-- A round that commits position 2 sets the dirty bits of its block; a migration whose port has been down ends with 3. -/
theorem witness_RoundsAndMigration_dirty : ((rounds.dev 1).seqs.find 9).map (fun q => ((seqConf q.recs).g, (roundCommits q).map (·.pos))) =
      some ((seqConf seqRecord).g, [2]) ∧
    after (fun t => ((t.coreOf 1 0).sendq.map (fun m => (m.payload.getD 1 0#64)), (t.dev 1).reqs.length))
      (exec (.smigrateReply 1 0 0 7#18) (both (fun d => { d with moves := [{ aMove with failed := true }] }) rounds)) =
      after (fun t => ((t.coreOf 1 0).sendq.map (fun m => (m.payload.getD 1 0#64)), (t.dev 1).reqs.length))
        (exec (.smigrateReply 1 0 3 7#18) rounds) := by
  refine ⟨?_, ?_⟩ <;> decide +kernel
theorem witness_HostCommands_unregister : (base.dev 1).lowered = [] ∧
    ((batching.tenant 1).models.find 0).isSome = true ∧ (∃ p ∈ (batching.old 1).streams, p.2.state = 1#2 ∧ p.2.model.toNat = 0) ∧
    ((streaming.tenant 1).models.find 0) = none := by decide +kernel
/-- A window buffer that is full holds up every write of the function. -/
theorem witness_HostRegisters_full (data : List Byte) (h : data.length = 2 ^ 24) :
    2 ^ 24 ≤ buffered { base with host := { base.host with winBuf := [{ fn := 0, tid := 1, va := 0, data := data }] } } 0 := by
  simp [buffered, h]

/-! #### Returns into a frame, held slots, and the first failing element -/

/-- Slot 0 is in the handler of a trap of SITOUT, slot 1 is held at its IDLE, slot 2 at once. -/
def withheld (trapped : List (Nat × Nat)) : State := tenantWith (fun t => { t with trapped := trapped }) (coreWith (fun k =>
  { k with slots := k.slots ++ [(1, { thread := { live := true, launch := 1, status := .held 3 } }),
                                (2, { thread := { live := true, launch := 1, status := .held 0 } })] }) (handling 8#64))
theorem witness_EretReturns_held : (∀ ts ∈ [[(0, 0)], [(0, 0), (0, 5)]],
      (∀ i ∈ [Instr.eret, .quit, .sync], Issues i (withheld ts)) ∧ ((0, 0) ∈ ((withheld ts).tenant 1).trapped)) ∧
    after (fun t => ((t.tenant 1).trapped, (t.here.slot 1).thread.status, (t.here.slot 2).thread.status))
      (.next (releaseHeld (withheld [(0, 0)]))) = some ([], .idle 3, .ready) ∧
    after (fun t => ((t.tenant 1).trapped, (t.here.slot 1).thread.status))
      (.next (releaseHeld (withheld [(0, 0), (0, 5)]))) = some ([(0, 5)], .held 3) ∧ Issues .xend { withheld [(0, 0)] with phase := 1#64 } := by
  refine ⟨?_, ?_, ?_, ?_⟩ <;> decide +kernel
/-- The words of Example 5.2 stand from address 8 on: a REP of two words and three replays. -/
theorem witness_EretReturns_frame : let s := code 8 [0x40608021#32, 0x602001C0#32, 0x602811E2#32] (handling 12#64)
    (decode 0x40608021#32).toOption = some (.rep 0 1 1 2 2 1) ∧
    fetchFrom s 1 0 8#20 = some (0, 0x40608021#32) ∧ (0x1102000000000000#64).getLsbD 60 = true ∧
    frameAt s 16#20 0x1102000000000000#64 =
      some { base := 12#20, len := 2, cnt := 3, st := 2, fd := true, fa := true, fb := false, k := 2, i := 1 } ∧
    frameAt s 16#20 0x1103000000000000#64 = none ∧ frameAt s 16#20 0x1000000000000000#64 = none := by
  refine ⟨?_, ?_, ?_, ?_, ?_, ?_⟩ <;> decide +kernel
theorem witness_EretReturns_handler : let s := slotWith (fun x => { x with handlers := [{ live := true, level := 2, launch := 1 }] }) base
    Issues .eret s ∧ s.thr.level ≠ 0 := by decide +kernel
theorem witness_RepeatAndPrefix_second : let s := thrWith (fun th => { th with pc := 0xFFC#20 }) base
    s.mayIssue = true ∧ fetchFrom s 1 0 (s.thr.pc + 4#20) = none := by decide +kernel

/-- Records at 0x200 (32 elements f32 from `b` on) and 0x220 (64 elements mx4 from `b` on, their scales at `z`). -/
def edged (b z : Nat) : State := bytesAt 0x200 (shapeBytes 12 32 4 b 0) (bytesAt 0x220 (shapeBytes 13 64 0 b (z * 2 ^ 12))
  (regs [(1, 0x200#64), (2, 0x220#64), (3, 32#64), (4, 33#64)] vec))
theorem witness_VectorLoads_edge : Issues (.vldsh 3 1 0) (edged 0xF90 0) ∧
    (let r := Shape.ofBytes (readHere (edged 0xF90 0) (.vault 0 0x200) 32)
     (∀ i < 28, r.index i = some [i, 0, 0, 0] ∧ (r.addr [i, 0, 0, 0]).toNat % 4 = 0 ∧
       place (edged 0xF90 0) (r.addr [i, 0, 0, 0]) = .ok (.vault 0 (0xF90 + 4 * i))) ∧
     r.index 28 = some [28, 0, 0, 0] ∧ place (edged 0xF90 0) (r.addr [28, 0, 0, 0]) = .trap (unmapped 0x1000#20)) ∧
    Issues (.vldsh 3 1 0) (edged 0x302 0) ∧
    ((Shape.ofBytes (readHere (edged 0x302 0) (.vault 0 0x200) 32)).addr [0, 0, 0, 0]).toNat % 4 ≠ 0 := by
  refine ⟨?_, ?_, ?_, ?_⟩ <;> decide +kernel
theorem witness_VectorLoads_edge_blocks : Issues (.vldsh 3 2 0) (edged 0xFF0 0x400) ∧
    (let r := Shape.ofBytes (readHere (edged 0xFF0 0x400) (.vault 0 0x220) 32)
     (r.addr [0, 0, 0, 0]).toNat % 16 = 0 ∧ place (edged 0xFF0 0x400) (r.addr [0, 0, 0, 0]) = .ok (.vault 0 0xFF0) ∧
     place (edged 0xFF0 0x400) (r.scaleAddr [0, 0, 0, 0]) = .ok (.vault 0 0x400) ∧
     r.index 32 = some [32, 0, 0, 0] ∧ place (edged 0xFF0 0x400) (r.addr [32, 0, 0, 0]) = .trap (unmapped 0x1000#20)) ∧
    Issues (.vldsh 3 2 0) (edged 0x300 0x1000) ∧
    (let r := Shape.ofBytes (readHere (edged 0x300 0x1000) (.vault 0 0x220) 32)
     place (edged 0x300 0x1000) (r.addr [0, 0, 0, 0]) = .ok (.vault 0 0x300) ∧
     place (edged 0x300 0x1000) (r.scaleAddr [0, 0, 0, 0]) = .trap (unmapped 0x1000#20)) := by
  refine ⟨?_, ?_, ?_, ?_⟩ <;> decide +kernel
theorem witness_VectorStores_start : Issues (.vstsh 1 2 4) shaped ∧ (shaped.reg 4).toNat % 32 ≠ 0 ∧
    (let r : Shape := { Shape.ofBytes (shapeBytes 0 32 1 0 0) with clamp := 100 }
     r.fmt < 8 ∧ saturateTo r 0x80 = { code := 0x9C, flags := flagCL ||| flagNX ||| flagOF } ∧
       saturateTo r 101 = { code := 100, flags := flagCL ||| flagNX } ∧ saturateTo r 0x9C = { code := 0x9C }) := by decide +kernel
/-- A block at the last 16 bytes of the page, the next beyond it; a scale beyond it; an MCONV record beyond it. -/
theorem witness_MatrixOperations_edge : granted (fun _ => true) (loadRange base 0xFF0#20 16) = true ∧
    loadRange base 0x1000#20 16 = .trap (unmapped 0x1000#20) ∧
    (let o : MatOp := { anOp (.mmat 0 1 2 6 6 0) with a := 0x3F000000000#64, b := 0x1000#64, recs := [0#64, 0#64] }
     o.prog = none ∧ comboOk o.instr = true ∧ (o.b.extractLsb' 0 20).toNat % 16 = 0 ∧
       after (fun t => t.here.accs == base.here.accs) (.next (runMatrix o base)) = some true) ∧
    (let o : MatOp := { anOp (.mmat 0 1 2 6 6 0) with a := 0x1000#64, recs := [0x1000#64, 0#64] }
     o.prog = none ∧ (o.a.extractLsb' 0 20).toNat % 16 = 0) ∧
    (let r := Shape.ofBytes (shapeBytes 0 32 1 0x1000 0)
     r.fmt = 0 ∧ (0 : Int) < (r.ext.getD 0 1 : Int) ∧ loadRange base (BitVec.ofInt 20 (r.base + 0)) 1 = .trap (unmapped 0x1000#20)) := by
  refine ⟨?_, ?_, ?_, ?_, ?_⟩ <;> decide +kernel
theorem witness_Requests_issue : Issues (.tqpush 1 3 2 4) streaming ∧ (streaming.reg 3).toNat % 64 ≠ 0 ∧
    (let s := regs [(5, 0x1000#64), (6, 16#64)] streaming
     Issues (.tqpush 1 5 2 4) s ∧ loadBytes s 0x1000#20 64 = .trap (unmapped 0x1000#20) ∧
       Issues (.sfork 1 2 5 7) s ∧ loadBytes s 0x1000#20 16 = .trap (unmapped 0x1000#20) ∧
       16 ≤ (s.reg 6).toNat ∧ Issues (.tqpush 1 8 2 6) s) ∧
    (let s := bytesAt 0x200 [0x4D#8] streaming
     Issues (.sfork 1 2 5 7) s ∧ granted (fun bs => forkRecordBad ((wordsOf bs).getD 0 0#64) ((wordsOf bs).getD 1 0#64))
       (loadBytes s 0x200#20 16) = true) ∧
    (let s := bytesAt 0x200 [2#8] streaming
     Issues (.tqpush 1 5 2 4) s ∧ granted (fun bs => decide (2 ≤ leNat (bs.take 1) % 4)) (loadBytes s 0x200#20 64) = true) ∧
    Issues (.sfork 1 2 3 7) streaming ∧ (streaming.reg 3).toNat % 16 ≠ 0 ∧ channelOf streaming 0 1 = none ∧
    4095 ∉ (regs [(7, 0xFFF#64)] linked).myLaunch.cores ∧ Issues (.smigrate 1 2 6 7) (regs [(7, 0xFFF#64)] linked) := by
  refine ⟨?_, ?_, ?_, ?_, ?_, ?_, ?_, ?_, ?_, ?_⟩ <;> decide +kernel
theorem witness_Requests_refused : (let s := slotWith (fun x => { x with trapvec := 4#64 }) (regs [(2, 10#64)] linked)
     s.thr.level = 0 ∧ s.slotHere.handlers = [] ∧ s.slotHere.h = false ∧ s.slotHere.trapvec.extractLsb' 0 20 ≠ 0#20 ∧
       (∀ i ∈ [Instr.sret 2 3, .sfork 1 2 5 7, .smigrate 1 2 6 6], Issues i s) ∧ channelOf s 0 1 ≠ none ∧
       ((s.old 1).streams.get 10 {}).state = 0#2) ∧
    (let s := slotWith (fun x => { x with trapvec := 4#64 }) (streamWith (fun d => { d with home := 3#12 }))
     Issues (.sactadd 1 2) s ∧ ((s.old 1).streams.get 5 {}).home.toNat ≠ s.actor.core) := by
  refine ⟨?_, ?_⟩ <;> decide +kernel

/-! #### Replays, lost tables, stopped slots, pairs, images -/

/-- The second of two replays whose REP flags all three fields with stagger 4: the fields go up by 4, and 29 + 4 names none. -/
theorem witness_RepeatAndPrefix_stagger : let f : RepFrame :=
      { base := 0#20, len := 1, cnt := 2, st := 4, fd := true, fa := true, fb := true, k := 1, i := 0 }
    staggered f 1 (.addi 1 2 7) = some (.addi 5 6 7) ∧ staggered f 1 (.addi 29 2 7) = none ∧
    staggered f 1 (.add 1 3 2 0 0 1) = some (.add 5 3 6 0 0 1) ∧ staggered f 1 (.mzero 2) = some (.mzero 6) := by
  decide +kernel
/-- The segment table at 0x800 stands in frame 0. -/
theorem witness_LocalLoads_lost : let s := { windowed with lostFrames := [(0, 0)] }
    segTable s 1 0 s.thr = some 0x800 ∧ (s.actor.core, 0x800 / 4096) ∈ s.lostFrames ∧
    xlate s 1 0 s.thr 0x80010#20 = some (.vault 0 0x800) := by decide +kernel
/-- Slot 1 never reaches the barrier; a debug hold stops it. -/
def besides (st : Status) : State := coreWith (fun k =>
  { k with share := { k.share with slots := 3#16 }, slots := [(0, k.slot 0), (1, { thread := { live := true, launch := 1, status := st } })] })
  atBarrier
theorem witness_WaitEnds_stopped : liveSlots ((besides (.stopped false)).coreOf 1 0) = [0, 1] ∧
    (((besides (.stopped false)).coreOf 1 0).slot 1).top.status = .stopped false ∧
    ((besides (.stopped false)).here.slot 1).reached 0#24 0 = true ∧ ((besides .ready).here.slot 1).reached 0#24 0 = false := by
  decide +kernel
/-- Slots 0 and 1 are taken, and slot 1 is stopped: a handler runs over slot 0. -/
theorem witness_MessageArrival_stopped : handlerSlot (besides (.stopped false)) 1 0 2 = handlerSlot atBarrier 1 0 2 := by decide +kernel
/-- A flit of a commit that is made, of this commit, and of the next. -/
theorem witness_PhaseEvents_ordinal : let far : FarEnd := { chan := 4, tid := 2, serial := 9#64, ftid := 1, here := true }
    let s : State := { tenantWith (fun t => { t with replica := some { port := 0, ordinal := 5#64 } }) base with
      ports := [(0, { chans := [(4, { ltid := 1, ftid := 2, repl := true, fser := 9#64 })] })] }
    after (fun t => (t.tenant 1).replica.map (·.partner)) (exec (.replicaFlit far 4#64 false 5#64) s) = some (some []) ∧
    after (fun t => (t.tenant 1).replica.map (·.partner)) (exec (.replicaFlit far 5#64 false 5#64) s) =
      some (some [(5#64, false, 5#64)]) ∧
    after (fun t => (t.tenant 1).replica.map (fun r => r.partner.all (fun q => q.1 != r.ordinal)))
      (exec (.replicaFlit far 6#64 false 5#64) s) = some (some true) := by decide +kernel
/-- A tenant that drains when its budget expires is to take no trap. -/
theorem witness_PhaseEvents_drains : let s := tenantWith (fun t => { t with draining := true }) base
    (s.tenant 1).draining = true ∧ tenantArrived s 1 = false ∧
    after (fun t => (t.tenant 1).traps.length) (exec (.budgetExpiry 1) s) = some 0 ∧
    after (fun t => (t.tenant 1).traps.length) (exec (.budgetExpiry 1) base) = some 1 := by decide +kernel
theorem witness_RoundsAndMigration_down : let s : State := { rounds with ports := [(0, { up := false })] }
    (s.ports.get 0 {}).up = false := rfl
/-- A launch that stands with the image's fault record keeps its counts; one of another record, or none, does not. -/
theorem witness_TenantCommands_counts : let n := 1
    (restorable.launches.find n).map (fun l => (l.tid, l.frec)) = ((saved 0 true).launches.find n).map (fun l => (l.tid, l.frec)) ∧
    ((launchWith (fun l => { l with frec := l.frec + 64 }) restorable).launches.find n).map (·.frec) ≠
      ((saved 0 true).launches.find n).map (·.frec) ∧
    ({ restorable with launches := [] } : State).launches.find n = none := by decide +kernel
/-- A signature of the model satisfies the check of FIPS 205. -/
theorem witness_HostCommands_signed (r m : List Byte) : (slhSign identityKey r m).length = 7856 ∧
    slhVerify identityKey.public m (slhSign identityKey r m) = true :=
  ⟨slhSign_length .., slhVerify_slhSign _ rfl ..⟩


end Sys2Proof.Tests
end

section
/-! Registers that are constants (spec/02_state.md R35): g0, which no write changes, and vm0, which no instruction may name
as its destination and which reads as all ones. -/

namespace Sys2Proof.Machine

/-! ### g0 -/

theorem State.reg_zero (s : State) : s.reg 0#5 = 0#64 := Thread.reg_zero s.thr

theorem State.slotHere_setReg_zero (s : State) (v : Word) : (s.setReg 0#5 v).slotHere = s.slotHere := by
  rw [State.setReg, State.slotHere_modThr, Thread.setReg_zero, State.thr, Slot.setTop_top]

/-! ### vm0 -/

theorem State.vmask_zero (s : State) : s.vmask 0#3 = BitVec.allOnes 128 := if_pos rfl

theorem State.amask_of_select_zero {s : State} (h : s.slotHere.amask = 0#3) : s.amask = BitVec.allOnes 128 := by
  rw [State.amask, h, State.vmask_zero]

theorem regOk_md_zero (s : State) : regOk s (.md 0#3) = false := by simp [regOk]

/-- Check 5 of Table 3.6 fails at a register that the thread may not name, once checks 1 to 4 have passed. -/
theorem checks16_of_bad_register {i : Instr} {s : State} {r : RegName} (hw : i.wf = true)
    (hf : ∀ b ∈ featuresOf i, s.myLaunch.feats.getLsbD b = true) (hp : (privilegedOf i || highCsr i) = false)
    (hc : classOk s (classOf i) = true) (hr : r ∈ regsOf i) (hbad : regOk s r = false) :
    checks16 s i = some (.illegalRegister, 0#64) := by
  have hfeat : (featuresOf i).all (fun b => s.myLaunch.feats.getLsbD b) = true := List.all_eq_true.mpr hf
  have hregs : (regsUsed s i).all (regOk s) = false :=
    List.all_eq_false.mpr ⟨r, List.mem_append_left _ hr, by simp [hbad]⟩
  simp [checks16, hw, hfeat, hp, hc, hregs]

theorem maskOp_issues (i : Instr) (d : BitVec 3) (op : State → VMask) (s : State) :
    ∃ k, maskOp i d op s = issue i s k := ⟨_, rfl⟩

/-- The instructions that have a mask register as their destination, with vm0 there. -/
def MaskDestZero (i : Instr) : Prop :=
  (∃ a b t c, i = .vcmp 0 a b t c) ∨ (∃ a b, i = .vmwr 0 a b) ∨ (∃ a, i = .vmnot 0 a) ∨
    (∃ a b, i = .vmand 0 a b ∨ i = .vmor 0 a b ∨ i = .vmxor 0 a b ∨ i = .vmandn 0 a b)

/-- The destination is among the registers that check 5 looks at, no such instruction is privileged (check 3), and its whole
effect stands behind the issue checks. -/
theorem MaskDestZero.issues {i : Instr} (h : MaskDestZero i) (s : State) :
    RegName.md 0#3 ∈ regsOf i ∧ (privilegedOf i || highCsr i) = false ∧ ∃ k, exec i s = issue i s k := by
  obtain ⟨a, b, t, c, rfl⟩ | ⟨a, b, rfl⟩ | ⟨a, rfl⟩ | ⟨a, b, rfl | rfl | rfl | rfl⟩ := h
  · exact ⟨List.mem_cons_self, rfl, _, show execVcmp 0 a b t c s = _ from rfl⟩
  · exact ⟨List.mem_cons_self, rfl, _, show execVmwr 0 a b s = _ from rfl⟩
  · exact ⟨List.mem_cons_self, rfl, maskOp_issues (.vmnot 0 a) 0 (fun s => ~~~(s.vmask a)) s⟩
  · exact ⟨List.mem_cons_self, rfl, maskOp_issues (.vmand 0 a b) 0 (fun s => s.vmask a &&& s.vmask b) s⟩
  · exact ⟨List.mem_cons_self, rfl, maskOp_issues (.vmor 0 a b) 0 (fun s => s.vmask a ||| s.vmask b) s⟩
  · exact ⟨List.mem_cons_self, rfl, maskOp_issues (.vmxor 0 a b) 0 (fun s => s.vmask a ^^^ s.vmask b) s⟩
  · exact ⟨List.mem_cons_self, rfl, maskOp_issues (.vmandn 0 a b) 0 (fun s => s.vmask a &&& ~~~(s.vmask b)) s⟩

theorem exec_maskDestZero {i : Instr} {s : State} (h : MaskDestZero i) (hm : s.mayIssue = true) (hw : i.wf = true)
    (hf : ∀ b ∈ featuresOf i, s.myLaunch.feats.getLsbD b = true) (hc : classOk s (classOf i) = true) :
    exec i s = .next (takeTrap { cause := .illegalRegister, val := trapWords s i } s) := by
  obtain ⟨hd, hp, k, hk⟩ := h.issues s
  rw [hk]
  exact issue_of_fail k hm (checks16_of_bad_register hw hf hp hc hd (regOk_md_zero s))

/-- Settles O11: a write to g0 updates the running thread to itself, vm0 as a destination fails check 5, and reads of vm0
are constant. -/
theorem zeroRegisters : Obligations.ZeroRegisters := by
  unfold Obligations.ZeroRegisters
  refine ⟨fun s v => ⟨onlyThread_modThr s _, s.slotHere_setReg_zero v, s.reg_zero⟩, ?_, fun s => ?_⟩
  · intro s i hi hm hw hf hc
    exact exec_maskDestZero hi hm hw hf hc
  · exact ⟨s.vmask_zero, State.amask_of_select_zero⟩

end Sys2Proof.Machine
end

section
/-! Scalar division (spec/05_scalar_vector.md R106, R107): an ALU instruction on registers, and the quotients and remainders
by zero and by -1. -/

namespace Sys2Proof.Machine

/-- With no operand flag set, an ALU instruction that issues writes its result and goes on. -/
theorem alu2_of_registers {i : Instr} {s : State} (op : Word → Word → Word) (d a b : BitVec 5) (h : Issues i s) :
    alu2 i op d a b 0 0 0 s = .next (retire (s.setReg d (op (s.reg a) (s.reg b)))) := by
  rw [alu2, issue_of_issues _ h]
  simp [aluSource, aluDest]

theorem exec_div {s : State} {d a b : BitVec 5} (h : Issues (.div d a b 0 0 0) s) :
    exec (.div d a b 0 0 0) s = .next (retire (s.setReg d (aluDiv (s.reg a) (s.reg b)))) :=
  alu2_of_registers aluDiv d a b h

theorem exec_divu {s : State} {d a b : BitVec 5} (h : Issues (.divu d a b 0 0 0) s) :
    exec (.divu d a b 0 0 0) s = .next (retire (s.setReg d (aluDivu (s.reg a) (s.reg b)))) :=
  alu2_of_registers aluDivu d a b h

theorem exec_rem {s : State} {d a b : BitVec 5} (h : Issues (.rem d a b 0 0 0) s) :
    exec (.rem d a b 0 0 0) s = .next (retire (s.setReg d (aluRem (s.reg a) (s.reg b)))) :=
  alu2_of_registers aluRem d a b h

/-! ### The corners -/

theorem aluDiv_zero (x : Word) : aluDiv x 0#64 = BitVec.ofInt 64 (-1) := by
  rw [aluDiv, if_pos rfl]; rfl

theorem aluDivu_zero (x : Word) : aluDivu x 0#64 = BitVec.ofNat 64 (2 ^ 64 - 1) := if_pos rfl

theorem aluRem_zero (x : Word) : aluRem x 0#64 = x := if_pos rfl

theorem aluDiv_least_neg_one : aluDiv (BitVec.ofInt 64 (-2 ^ 63)) (BitVec.ofInt 64 (-1)) = BitVec.ofInt 64 (-2 ^ 63) := by
  decide

theorem aluRem_least_neg_one : aluRem (BitVec.ofInt 64 (-2 ^ 63)) (BitVec.ofInt 64 (-1)) = 0#64 := by decide

/-- Settles O13: the instruction writes what `aluDiv`, `aluDivu` or `aluRem` gives for its two registers. -/
theorem divisionCorners : Obligations.DivisionCorners := by
  unfold Obligations.DivisionCorners
  intro s d a b
  refine ⟨fun hb => ⟨fun h => ?_, fun h => ?_, fun h => ?_⟩, fun ha hb => ⟨fun h => ?_, fun h => ?_⟩⟩
  · rw [exec_div h, hb, aluDiv_zero]
  · rw [exec_divu h, hb, aluDivu_zero]
  · rw [exec_rem h, hb, aluRem_zero]
  · rw [exec_div h, ha, hb, aluDiv_least_neg_one]
  · rw [exec_rem h, ha, hb, aluRem_least_neg_one]

end Sys2Proof.Machine
end

section
/-! Random numbers (spec/04_numbers.md R100 to R104; spec/05_scalar_vector.md R133 to R135): the words of the generator, and
the elements that VRNG makes of them. -/

namespace Sys2Proof.Machine

/-! ### The counter values -/

theorem withWords_of_left {n : Nat} {s : State} (k : State → (Nat → Word) → Out)
    (h : s.slotHere.rngctr.toNat + n < 2 ^ 64) : withWords n s k = k (tookWords n s) s.genWord :=
  if_neg (Nat.not_le_of_lt h)

theorem withWords_of_exhausted {n : Nat} {s : State} (k : State → (Nat → Word) → Out)
    (h : ¬s.slotHere.rngctr.toNat + n < 2 ^ 64) :
    withWords n s k = .next (takeTrap
      { cause := .randomExhausted, val := s.slotHere.rngctr, aux := BitVec.ofNat 64 n } s) :=
  if_pos (Nat.le_of_not_lt h)

@[simp] theorem vreg_tookWords (n r : Nat) (s : State) : (tookWords n s).vreg r = s.vreg r := by
  rw [State.vreg, tookWords, State.slotHere_modSlot]; rfl

theorem exec_rng {s : State} {a : BitVec 5} (h : Issues (.rng a) s) :
    exec (.rng a) s = withWords 1 s (fun u words => .next (retire (u.setReg a (words 0)))) := by
  rw [show exec (.rng a) s = execRng a s from rfl, execRng, issue_of_issues _ h]

theorem exec_rngkey {s : State} {a : BitVec 5} (h : Issues (.rngkey a) s) :
    exec (.rngkey a) s =
      .next (retire (s.modSlot (fun x => { x with epoch := (s.reg a).extractLsb' 0 48, rngctr := 0#64 }))) := by
  rw [← BitVec.setWidth_eq_extractLsb' (by decide), show exec (.rngkey a) s = execRngkey a s from rfl, execRngkey,
    issue_of_issues _ h]

/-! ### Elements within 64-bit words -/

/-- An element that lies within one 64-bit word of a register is that word's bits. -/
theorem velem_within_word (x : VReg) {w i : Nat} (h : w * i % 64 + w ≤ 64) :
    velem x w i = ((BitVec.ofNat 64 (velem x 64 (w * i / 64))).extractLsb' (w * i % 64) w).toNat := by
  apply Nat.eq_of_testBit_eq
  intro j
  have hbit : 64 * (w * i / 64) + (w * i % 64 + j) = w * i + j := by omega
  by_cases hj : j < w
  · have hin : w * i % 64 + j < 64 := by omega
    simp only [velem, BitVec.extractLsb'_toNat, BitVec.toNat_ofNat, BitVec.toNat_ushiftRight, Nat.testBit_mod_two_pow,
      Nat.testBit_shiftRight, hj, hin, hbit, decide_true, Bool.true_and]
  · simp [velem, BitVec.extractLsb'_toNat, Nat.testBit_mod_two_pow, hj]

theorem fmtWidth_of_plain {f : Nat} (hf : fmtPlain f = true) :
    fmtWidth f = 8 ∨ fmtWidth f = 16 ∨ fmtWidth f = 32 ∨ fmtWidth f = 64 := by
  have widths : ∀ f < 13, fmtWidth f = 8 ∨ fmtWidth f = 16 ∨ fmtWidth f = 32 ∨ fmtWidth f = 64 := by decide
  exact widths f (of_decide_eq_true hf)

/-- These widths divide 64, so that no element crosses two words. -/
theorem fmtWidth_within_word {f : Nat} (hf : fmtPlain f = true) (i : Nat) :
    fmtWidth f * i % 64 + fmtWidth f ≤ 64 := by
  obtain h | h | h | h := fmtWidth_of_plain hf <;> rw [h] <;> omega

theorem fmtWidth_mul_lt {f i : Nat} (hf : fmtPlain f = true) (hi : i < 1024 / fmtWidth f) : fmtWidth f * i < 1024 := by
  obtain h | h | h | h := fmtWidth_of_plain hf <;> rw [h] at hi ⊢ <;> omega

/-- Element `i` of a register made of sixteen 64-bit words, in a format other than mx4, is bits of one of them. -/
theorem velem_words (words : Nat → Word) {f i : Nat} (hf : fmtPlain f = true) (hi : i < 1024 / fmtWidth f) :
    velem (vof 64 ((List.range 16).map (fun m => (words m).toNat))) (fmtWidth f) i =
      ((words (i * fmtWidth f / 64)).extractLsb' (i * fmtWidth f % 64) (fmtWidth f)).toNat := by
  have hlt : fmtWidth f * i / 64 < 16 := Nat.div_lt_of_lt_mul (fmtWidth_mul_lt hf hi)
  rw [velem_within_word _ (fmtWidth_within_word hf i), velem_vof 64 _ _ (by simpa using hlt) (by simp), Nat.mul_comm i]
  simp only [List.getD_eq_getElem?_getD, List.getElem?_map, List.getElem?_range hlt, Option.map_some, Option.getD_some,
    Nat.mod_eq_of_lt (words _).isLt, BitVec.ofNat_toNat, BitVec.setWidth_eq]

/-! ### The elements of VRNG -/

/-- The counter values that VRNG takes, by its kind. -/
def vrngWords (k : BitVec 5) : Nat := if k = 0#5 then 16 else 32

/-- What VRNG of kind `k` makes of the words for element `i` in format `f`. -/
def vrngElem (f : Nat) (k : BitVec 5) (words : Nat → Word) (i : Nat) : Res :=
  if k = 0#5 then { code := velem (vof 64 ((List.range 16).map (fun m => (words m).toNat))) (fmtWidth f) i }
  else if k = 1#5 then { code := uniformCode (words i) }
  else gumbel (uniformIndex (words i))

theorem some_vrngElem (f : Nat) (k : BitVec 5) (words : Nat → Word) (i : Nat) :
    some (vrngElem f k words i) =
      if k = 0#5 then
        some { code := velem (BitVec.ofNat 1024 (vpack 64 ((List.range 16).map (fun m => (words m).toNat)))) (fmtWidth f) i }
      else if k = 1#5 then some { code := uniformCode (words i) }
      else some (gumbel (uniformIndex (words i))) := by
  rw [vrngElem, apply_ite some, apply_ite some]
  rfl

/-- The flags that each element of kind `k` raises. -/
def vrngFlags (k : BitVec 5) : FlagSet := if k = 0#5 ∨ k = 1#5 then 0#6 else flagNX

theorem vrngElem_flags (f : Nat) (k : BitVec 5) (words : Nat → Word) (i : Nat) :
    (vrngElem f k words i).flags = vrngFlags k := by
  by_cases h0 : k = 0#5
  · simp [vrngElem, vrngFlags, h0]
  · by_cases h1 : k = 1#5 <;> simp [vrngElem, vrngFlags, h0, h1, gumbel]

theorem uniformIndex_eq_extractLsb (w : Word) : uniformIndex w = (w.extractLsb' 41 23).toNat := by
  rw [uniformIndex, BitVec.extractLsb'_toNat, Nat.shiftRight_eq_div_pow]
  have := w.isLt
  omega

/-- Check 7: raw bits go into any format but mx4, uniform values and Gumbel keys into f32. -/
theorem fmt_of_issues_vrng {d : BitVec 7} {k : BitVec 5} {t : BitVec 2} {s : State} (h : Issues (.vrng d k t) s) :
    (if k = 0#5 then fmtPlain (s.fmt t) else s.fmt t == 12) = true := by
  obtain ⟨-, -, -, -, -, -, -, h7⟩ := h
  by_contra hbad
  simp [check7, fmtUse, hbad] at h7

/-! ### Writing the active elements -/

/-- The active elements take their results and the others stand. -/
theorem vmerge_active (old : VReg) (w n : Nat) (m : VMask) (x : Nat → Res) :
    vmerge old w (((List.range n).map (fun i => if !active m i then none else some (x i))).map (·.map (·.code))) =
      vof w ((List.range n).map (fun i => if m.getLsbD i then (x i).code else velem old w i)) := by
  unfold vmerge
  congr 1
  apply List.ext_getElem
  · simp
  · intro i hi hi'
    cases hm : m.getLsbD i <;> simp [active, hm]

@[simp] theorem flagsOf_none_cons (l : List (Option Res)) : flagsOf (none :: l) = flagsOf l := rfl

@[simp] theorem flagsOf_some_cons (r : Res) (l : List (Option Res)) :
    flagsOf (some r :: l) = r.flags ||| flagsOf l := by
  rw [flagsOf, List.foldl_cons]
  show List.foldl _ (0#6 ||| r.flags) l = _
  rw [BitVec.or_comm]
  refine List.foldl_hom (r.flags ||| ·) (fun a o => ?_)
  cases o with
  | none => rfl
  | some q => exact BitVec.or_assoc r.flags a q.flags

/-- Elements that all raise the same flags raise them where one of them is active. -/
theorem flagsOf_active (l : List Nat) (m : VMask) (x : Nat → Res) (fl : FlagSet) (h : ∀ i, (x i).flags = fl) :
    flagsOf (l.map (fun i => if !active m i then none else some (x i))) =
      if l.any (fun i => m.getLsbD i) then fl else 0#6 := by
  induction l with
  | nil => rfl
  | cons i l ih =>
    cases hm : m.getLsbD i
    · simpa [active, hm] using ih
    · rw [List.map_cons, if_neg (by simp [active, hm]), flagsOf_some_cons, ih, h]
      split <;> simp [hm]

/-- The actor's slot after VRNG: `n` counter values taken, the active elements of vd replaced, flags `fl` raised. -/
def vrngFill (s : State) (d : BitVec 7) (n w : Nat) (fl : FlagSet) (x : Nat → Nat) : State :=
  retire (raiseFlags fl ((tookWords n s).setVreg d.toNat (vof w ((List.range (1024 / w)).map (fun i =>
    if s.amask.getLsbD i then x i else velem (s.vreg d.toNat) w i)))))

theorem vrngFill_congr (s : State) (d : BitVec 7) (n : Nat) {w : Nat} (fl : FlagSet) {x y : Nat → Nat}
    (h : ∀ i < 1024 / w, x i = y i) : vrngFill s d n w fl x = vrngFill s d n w fl y := by
  unfold vrngFill
  congr 4
  apply List.map_congr_left
  intro i hi
  rw [h i (List.mem_range.mp hi)]

/-- VRNG of any kind: its counter values, then its results into the active elements. -/
theorem exec_vrng {d : BitVec 7} {k : BitVec 5} {t : BitVec 2} {s : State} (h : Issues (.vrng d k t) s) :
    exec (.vrng d k t) s = withWords (vrngWords k) s (fun u words =>
      .next (retire (raiseFlags
        (if (List.range (fmtCount (s.fmt t))).any (fun i => s.amask.getLsbD i) then vrngFlags k else 0#6)
        (u.setVreg d.toNat (vof (fmtWidth (s.fmt t)) ((List.range (fmtCount (s.fmt t))).map (fun i =>
          if s.amask.getLsbD i then (vrngElem (s.fmt t) k words i).code
          else velem (u.vreg d.toNat) (fmtWidth (s.fmt t)) i))))))) := by
  rw [show exec (.vrng d k t) s = execVrng d k t s from rfl, execVrng, issue_of_issues _ h]
  simp only [← some_vrngElem, vmerge_active, flagsOf_active _ _ _ _ (vrngElem_flags _ _ _)]
  rfl

theorem exec_vrng_of_left {d : BitVec 7} {k : BitVec 5} {t : BitVec 2} {s : State} (h : Issues (.vrng d k t) s)
    (hl : s.slotHere.rngctr.toNat + vrngWords k < 2 ^ 64) :
    exec (.vrng d k t) s = .next (vrngFill s d (vrngWords k) (fmtWidth (s.fmt t))
      (if (List.range (fmtCount (s.fmt t))).any (fun i => s.amask.getLsbD i) then vrngFlags k else 0#6)
      (fun i => (vrngElem (s.fmt t) k s.genWord i).code)) := by
  rw [exec_vrng h, withWords_of_left _ hl, vreg_tookWords]
  rfl

theorem exec_vrng_of_exhausted {d : BitVec 7} {k : BitVec 5} {t : BitVec 2} {s : State} (h : Issues (.vrng d k t) s)
    (hl : ¬s.slotHere.rngctr.toNat + vrngWords k < 2 ^ 64) :
    exec (.vrng d k t) s = .next (takeTrap
      { cause := .randomExhausted, val := s.slotHere.rngctr, aux := BitVec.ofNat 64 (vrngWords k) } s) := by
  rw [exec_vrng h, withWords_of_exhausted _ hl]

theorem exec_vrng_raw {d : BitVec 7} {t : BitVec 2} {s : State} (h : Issues (.vrng d 0 t) s)
    (hl : s.slotHere.rngctr.toNat + 16 < 2 ^ 64) :
    let w := fmtWidth (s.fmt t)
    exec (.vrng d 0 t) s = .next (vrngFill s d 16 w 0#6 (fun i =>
      ((s.genWord (i * w / 64)).extractLsb' (i * w % 64) w).toNat)) := by
  have hf : fmtPlain (s.fmt t) = true := fmt_of_issues_vrng h
  rw [exec_vrng_of_left h hl, show vrngFlags 0 = 0#6 from rfl, ite_self]
  exact congrArg _ (vrngFill_congr s d 16 0#6 (fun i hi => velem_words s.genWord hf hi))

theorem exec_vrng_uniform {d : BitVec 7} {t : BitVec 2} {s : State} (h : Issues (.vrng d 1 t) s)
    (hl : s.slotHere.rngctr.toNat + 32 < 2 ^ 64) :
    exec (.vrng d 1 t) s = .next (vrngFill s d 32 32 0#6 (fun i => uniformCode (s.genWord i))) := by
  have hf : s.fmt t = 12 := eq_of_beq (fmt_of_issues_vrng h)
  rw [exec_vrng_of_left h hl, show vrngFlags 1 = 0#6 from rfl, ite_self, hf]
  rfl

theorem exec_vrng_gumbel {d : BitVec 7} {t : BitVec 2} {s : State} (h : Issues (.vrng d 2 t) s)
    (hl : s.slotHere.rngctr.toNat + 32 < 2 ^ 64) :
    exec (.vrng d 2 t) s = .next (vrngFill s d 32 32
      (if (List.range 32).any (fun i => s.amask.getLsbD i) then flagNX else 0#6)
      (fun i => (gumbel ((s.genWord i).extractLsb' 41 23).toNat).code)) := by
  have hf : s.fmt t = 12 := eq_of_beq (fmt_of_issues_vrng h)
  rw [exec_vrng_of_left h hl, hf]
  exact congrArg _ (vrngFill_congr s d 32 _ (fun i _ => by
    rw [← uniformIndex_eq_extractLsb]
    rfl))

/-- Settles O31: RNG and RNGKEY write what they take, and VRNG fills the active elements by its kind. -/
theorem randomNumbers : Obligations.RandomNumbers := by
  unfold Obligations.RandomNumbers
  intro s d a t
  refine ⟨fun h => ?rng, exec_rngkey, fun h => ?raw, fun h => ?uniform, fun h => ?gumbel⟩
  case rng =>
    refine ⟨fun hl => ?_, fun hl => ?_⟩
    · rw [exec_rng h, withWords_of_left _ hl]; rfl
    · exact (exec_rng h).trans (withWords_of_exhausted _ hl)
  case raw => exact ⟨exec_vrng_raw h, exec_vrng_of_exhausted h⟩
  case uniform => exact ⟨exec_vrng_uniform h, exec_vrng_of_exhausted h⟩
  case gumbel => exact ⟨exec_vrng_gumbel h, exec_vrng_of_exhausted h⟩

end Sys2Proof.Machine
end

section
/-! DIGEST (spec/16_system_isa.md R331): it writes the digest of the last commit, which is what CSRR reads at number 0x030
of Table 2.6. -/

namespace Sys2Proof.Machine

/-- A write shows in its own register alone, and in none where that is g0. -/
theorem State.reg_setReg (s : State) (d r : BitVec 5) (v : Word) :
    (s.setReg d v).reg r = if r = d ∧ d ≠ 0#5 then v else s.reg r := by
  by_cases hr : r = d
  · subst hr
    by_cases h0 : r = 0#5
    · subst h0
      simp [State.reg_zero]
    · rw [if_pos ⟨rfl, h0⟩, State.reg_setReg_self s r v h0]
  · rw [if_neg (fun h => hr h.1), State.reg_setReg_ne s v hr]

theorem exec_digest {s : State} {d : BitVec 5} (h : Issues (.digest d) s) :
    exec (.digest d) s = .next (retire (s.setReg d (s.old s.actor.tid).digest)) := by
  rw [show exec (.digest d) s = execDigest d s from rfl, execDigest, issue_of_issues _ h]

/-- CSRR of a CSR with a value writes that value and goes on. -/
theorem exec_csrr_of_value {s : State} {d : BitVec 5} {c : BitVec 12} {v : Word} (h : Issues (.csrr d c) s)
    (hv : csrValue s c.toNat = some v) : exec (.csrr d c) s = .next (retire (s.setReg d v)) := by
  rw [show exec (.csrr d c) s = execCsrr d c s from rfl, execCsrr, issue_of_issues _ h, hv]

theorem csrValue_digest (s : State) : csrValue s (0x030#12).toNat = some (s.old s.actor.tid).digest := rfl

/-- Settles O44: both instructions write the committed digest to register d and go on. -/
theorem digestReads : Obligations.DigestReads := by
  unfold Obligations.DigestReads
  intro s d hdigest hcsrr
  refine ⟨⟨_, exec_digest hdigest, onlyThread_retire_setReg s d _, fun r => ?_⟩, ?_⟩
  · rw [State.reg_retire, State.reg_setReg]
  · rw [exec_digest hdigest, exec_csrr_of_value hcsrr (csrValue_digest s)]

end Sys2Proof.Machine
end
